-- ==== Sys2Proof/Word.lean ====
section
/-! DEFINITION. The widths the manual names: 64-bit registers (R32), bytes, 52-bit complex addresses (R236). -/

namespace Sys2Proof

/-- A register, a scalar register or a descriptor word (R32, R161). -/
abbrev Word := BitVec 64

/-- One byte of memory. -/
abbrev Byte := BitVec 8

/-- A complex address (R236). -/
abbrev CA := BitVec 52

end Sys2Proof
end

