-- ==== Sys2Proof/Config.lean ====
section
/-! DEFINITION. What one part or implementation fixes (R3, R357), and the values the manual leaves open
(each an opaque constant: no proof can see a value of it; notes/assumptions names them). -/

namespace Sys2Proof.Config

/-- Free values for results the manual leaves open, applied to the model's counter (log entry 2). -/
opaque freeValue : Nat → Nat

/-- Built counts of the N9 (R6, R18, R20). -/
def coreCount : Nat := 384
def clusterCount : Nat := 48
def regionCount : Nat := 8
def stackCount : Nat := 12

/-- Per-part fields of the cut list (R357): STEPPING and SERIAL. -/
opaque stepping : BitVec 16
opaque serial : BitVec 64

/-- MC_STAT.MINVER is fused (R374). -/
opaque minVer : BitVec 16

/-- The verifying key of the boot loader is not in the manual (R373): whether an image's signature checks. -/
opaque signatureOk : List (BitVec 8) → Bool

/-- SHA-384 (R353, R373), by its standard; its value is not restated by the manual. -/
opaque sha384 : List (BitVec 8) → BitVec 384

/-- ROM contents other than the cut list (R355): the boot loader image. -/
opaque romByte : Nat → BitVec 8

/-- CUT_OFF and ROM_VER of the VSEC (R356). -/
opaque cutOff : BitVec 24
opaque romVer : BitVec 32

/-- SHA-384 of the boot ROM image, SPDM measurement 1 (R353). -/
opaque romDigest : BitVec 384

/-- The device certificate chain and the signing of SPDM answers (R353: by SPDM 1.2). -/
opaque certChain : List (BitVec 8)
opaque spdmSign : List (BitVec 8) → List (BitVec 8)

/-- The core whose Tongs serves a peer's table requests, by the handle's CA (R401, R403): not in the manual. -/
opaque servingTongs : Nat → Nat

/-- The sets of a directory or location filter (R286, R287): the index function is not in the manual. -/
opaque dirIndex : Nat → Nat

/-- The hash of a target CA's bits [51:12] that spreads Dovetail traffic (R394). -/
opaque routeHash : Nat → Nat

/-- The value of a temper monitor's metric at manufacture (R435), fused. -/
opaque fusedMetric : Nat → Nat

/-- Whole months in so many hours, given as a fraction (R435): the manual gives neither a month's hours nor the rounding. -/
opaque wholeMonths : Nat → Nat → Nat

end Sys2Proof.Config
end

