-- ==== Sys2Proof/Syntax.lean ====
section
/-! DEFINITION. The commands of the complex: one constructor per row of spec/opcode_table.json, with the
operands the row needs. The Jexvar rows carry the fields of their format (R170) at full width. -/

namespace Sys2Proof

/-- Linear core, cluster and context numbers (R7, R49). -/
abbrev CoreIx := Fin 384
abbrev ClusterIx := Fin 48
abbrev CtxIx := BitVec 12

/-- The four requesters of the register ports (R34). -/
inductive Requester where
  | host | mirror | jtag | pmc
  deriving DecidableEq, Repr

/-- BAR0 (R29) or the context pages of BAR2 (R49). -/
inductive RegSpace where
  | bar0 | bar2
  deriving DecidableEq, Repr

/-- A block with a header (R29, R36, R49). -/
inductive Blk where
  | gfe | ep | pwr | dbg
  | fmp (n : Fin 4)
  | dt
  | cluster (n : Fin 48)
  | core (n : Fin 384)
  | stack (n : Fin 12)
  | drawer (n : Fin 8)
  | ctx (c : BitVec 12)
  deriving DecidableEq, Repr

/-- What every Jexvar instruction carries beside its format's fields (R164, R168, R169), and the core
whose sequencer runs it. -/
structure Hdr where
  core : CoreIx
  stop : Bool
  wait : BitVec 4
  qp : BitVec 4
  qn : Bool
  deriving DecidableEq, Repr

/-- Format R (R170). -/
structure FmtR where
  rd : BitVec 6
  ra : BitVec 6
  rb : BitVec 6
  rc : BitVec 6
  fn : BitVec 23
  deriving DecidableEq, Repr

/-- Format I (R170). -/
structure FmtI where
  rd : BitVec 6
  ra : BitVec 6
  imm : BitVec 35
  deriving DecidableEq, Repr

/-- Format L (R170). -/
structure FmtL where
  rd : BitVec 6
  ext : BitVec 8
  flag : Bool
  imm : BitVec 32
  deriving DecidableEq, Repr

/-- Format P (R170); `z` is bit [23]. -/
structure FmtP where
  pd : BitVec 4
  pe : BitVec 4
  ra : BitVec 6
  rb : BitVec 6
  cond : BitVec 3
  z : BitVec 1
  imm : BitVec 23
  deriving DecidableEq, Repr

/-- The fields of PLOG (R173); `rest` is bits [30:0]. -/
structure FmtPlog where
  pd : BitVec 4
  pa : BitVec 4
  pb : BitVec 4
  op : BitVec 4
  rest : BitVec 31
  deriving DecidableEq, Repr

/-- Format B (R170); `z` is bits [34:32]. -/
structure FmtB where
  rd : BitVec 6
  ra : BitVec 6
  z : BitVec 3
  disp : BitVec 32
  deriving DecidableEq, Repr

/-- Format M (R170). -/
structure FmtM where
  rd : BitVec 6
  ra : BitVec 6
  rb : BitVec 6
  size : BitVec 3
  scope : BitVec 3
  ord : BitVec 2
  hint : BitVec 2
  off : BitVec 19
  deriving DecidableEq, Repr

/-- Format A (R170). -/
structure FmtA where
  rd : BitVec 6
  ra : BitVec 6
  rb : BitVec 6
  size : BitVec 3
  scope : BitVec 3
  ord : BitVec 2
  hint : BitVec 2
  aop : BitVec 4
  off : BitVec 15
  deriving DecidableEq, Repr

/-- Format E (R170); `z` is bits [22:16]. -/
structure FmtE where
  eng : BitVec 3
  ra : BitVec 6
  rb : BitVec 6
  pw : BitVec 3
  pe : Bool
  cq : BitVec 4
  ce : Bool
  z : BitVec 7
  off64 : BitVec 16
  deriving DecidableEq, Repr

/-- Format C (R170); `z` is bits [27:16]. -/
structure FmtC where
  rd : BitVec 6
  rb : BitVec 6
  cq : BitVec 4
  scope : BitVec 3
  z : BitVec 12
  n : BitVec 16
  deriving DecidableEq, Repr

/-- Format S (R170); `rest` is bits [22:0]. -/
structure FmtS where
  rd : BitVec 6
  ra : BitVec 6
  num : BitVec 12
  rest : BitVec 23
  deriving DecidableEq, Repr

/-- What the check bits of a word show when it is read (R245, R255). -/
inductive EccFound where
  | clean | single | double
  deriving DecidableEq, Repr

/-- A slip cause that the schedule of a jig region, or an access from outside, met (R220): a lost scratchpad bank (R208), a drawer
access beyond its bank's limits, with the refresh that its bank takes and what that found (R209), a scratchpad or drawer access
displaced from outside (R208, R210), and traffic beyond a cluster's allowance with its stall in CCLK cycles (R215). -/
inductive SlipObs where
  | bank
  | drawer
  | drawerRefresh (core : CoreIx) (bank : Fin 16) (found : EccFound) (word : Fin 64)
  | outsideSpad
  | outsideDrawer
  | allowance (stall : Nat)
  deriving DecidableEq, Repr

/-- A core at the end of a slip, with the causes that its schedule met meanwhile (R220, R222). -/
structure SlipMet where
  core : CoreIx
  met : List SlipObs
  deriving DecidableEq, Repr

/-- Which operation of a core completes: the oldest of an engine's queue, or the one of Anvil's that stands behind `place` + 1 older
ones and passes them (R87, R88, R457). -/
inductive Finisher where
  | oldest (eng : Fin 6)
  | overtaker (place : Nat)
  deriving DecidableEq, Repr

/-- The state a GO grants (R293). -/
inductive Grant where
  | s | e | m | i
  deriving DecidableEq, Repr

/-- An ATS completion (R308). -/
inductive AtsResult where
  | done (target : Nat) (size : Nat) (r w : Bool)
  | failed
  deriving DecidableEq, Repr

/-- PRG response codes (R311). -/
inductive PrgCode where
  | success | invalid | failure
  deriving DecidableEq, Repr

/-- What starts a warm reset (R368). -/
inductive WarmSrc where
  | pin
  | reg (rq : Requester) (val : Word)
  deriving DecidableEq, Repr

/-- A monitored rail (R428): the core rail of a die, the drawers', the stacks', or the endpoint's. -/
inductive Rail where
  | core (die : Fin 2)
  | drawer | stack | endpoint
  deriving DecidableEq, Repr

/-- What enumeration finds of an expander (R384, R385). -/
structure Expander where
  type3 : Bool
  memActive : Bool
  decoder : Bool
  capacity : Nat
  /-- Its 64-byte chunks that return poison, by their number from DPA 0 (R367, R385). -/
  poisoned : List Nat
  deriving DecidableEq, Repr

/-- How an expander leaves by surprise (R391): PDS falls, alone or with an attention-button press in the same KCLK cycle, or the link
leaves L0 through link down. -/
inductive Removal where
  | presence (button : Bool)
  | linkDown
  deriving DecidableEq, Repr

/-- The requester's table fields that an owner compares (R401): FMT, RFMT, DIM, STRIDE16, and the block,
affine and PQ fields. -/
structure RemoteTable where
  fmt : BitVec 5
  rfmt : BitVec 4
  dim : BitVec 16
  stride : BitVec 16
  blk : BitVec 2
  sf : BitVec 1
  scb : BitVec 1
  pqm : BitVec 8
  pqbits : BitVec 4
  deriving DecidableEq, Repr

/-- An UPDATE of R395: a row of SCATTER, or a merged gradient of MUPD with its rule entry (R403). -/
inductive RowUpdate where
  | row (payload : List Byte) (poison : Bool)
  | grad (urule : BitVec 4) (g : List (BitVec 32))
  deriving DecidableEq, Repr

/-- Links that retry (R220, R411). -/
inductive Link where
  | ring (cl : Fin 48)
  | mesh (rg : Fin 8)
  | seam
  | ucie
  | fmp (n : Fin 4)
  | dovetail (n : Fin 16)
  deriving DecidableEq, Repr

/-- Links inside the package that can go down (R411). -/
inductive IntLink where
  | mesh (rg : Fin 8)
  | seam
  | ucie
  | stackPhy (n : Fin 12)
  deriving DecidableEq, Repr

/-- The commands: one constructor per row of spec/opcode_table.json. -/
inductive Instr where
  /-- REGISTER_WRITE (R34): A write from the host, the CA mirror, JTAG or the PMC reaches a register that has no row of its own and is performed at the block's register port. -/
  | registerWrite (rq : Requester) (sp : RegSpace) (off size : Nat) (val : Word)
  /-- BLK_ENABLE (R41): A write that sets BLK_CTL.EN from 0 to 1 while IDLE is 1 takes the working copy of the block's RWD registers. -/
  | blkEnable (rq : Requester) (b : Blk) (val : Word)
  /-- BLK_DISABLE (R41): A write that sets BLK_CTL.EN to 0 stops the block from accepting new work in the next KCLK cycle. -/
  | blkDisable (rq : Requester) (b : Blk) (val : Word)
  /-- BLK_DRAIN_DONE (R41): Work accepted before the disable finishes, and BLK_STAT.IDLE becomes 1. -/
  | blkDrainDone (b : Blk)
  /-- BLK_HELD_ENABLE (R42): An enable write held while IDLE was 0 is performed once IDLE becomes 1, releasing the accesses queued behind it. -/
  | blkHeldEnable (b : Blk)
  /-- STATUS_CLEAR (R45): A clear attempt on a triple's clear register zeroes every SQC field if VALUE matches the sequence register. -/
  | statusClear (rq : Requester) (sp : RegSpace) (off size : Nat) (val : Word)
  /-- NOP (R171): The sequencer executes NOP, which has no effect. -/
  | nop (h : Hdr) (f : FmtR)
  /-- ADD (R172): rd := ra + rb, modulo 2^64. -/
  | add (h : Hdr) (f : FmtR)
  /-- SUB (R172): rd := ra − rb, modulo 2^64. -/
  | sub (h : Hdr) (f : FmtR)
  /-- AND (R172): rd := ra AND rb. -/
  | andR (h : Hdr) (f : FmtR)
  /-- OR (R172): rd := ra OR rb. -/
  | orR (h : Hdr) (f : FmtR)
  /-- XOR (R172): rd := ra XOR rb. -/
  | xorR (h : Hdr) (f : FmtR)
  /-- SHL (R172): Shifts ra left by rb mod 64. -/
  | shl (h : Hdr) (f : FmtR)
  /-- SHR (R172): Shifts ra right by rb mod 64 with zero fill. -/
  | shr (h : Hdr) (f : FmtR)
  /-- SAR (R172): Shifts ra right by rb mod 64 with sign fill. -/
  | sar (h : Hdr) (f : FmtR)
  /-- MUL (R172): rd := low 64 bits of ra × rb. -/
  | mul (h : Hdr) (f : FmtR)
  /-- MULHU (R172): rd := high 64 bits of the unsigned 128-bit product. -/
  | mulhu (h : Hdr) (f : FmtR)
  /-- MULHS (R172): rd := high 64 bits of the signed 128-bit product. -/
  | mulhs (h : Hdr) (f : FmtR)
  /-- DIVU (R172): Unsigned division, returning 2^64 − 1 for a zero divisor. -/
  | divu (h : Hdr) (f : FmtR)
  /-- DIVS (R172): Signed division toward zero, with the stated results for a zero divisor and for overflow. -/
  | divs (h : Hdr) (f : FmtR)
  /-- REMU (R172): Unsigned remainder, returning ra for a zero divisor. -/
  | remu (h : Hdr) (f : FmtR)
  /-- REMS (R172): Signed remainder, returning ra for a zero divisor. -/
  | rems (h : Hdr) (f : FmtR)
  /-- MIN (R172): rd := signed minimum of ra and rb. -/
  | minS (h : Hdr) (f : FmtR)
  /-- MAX (R172): rd := signed maximum of ra and rb. -/
  | maxS (h : Hdr) (f : FmtR)
  /-- MINU (R172): rd := unsigned minimum of ra and rb. -/
  | minU (h : Hdr) (f : FmtR)
  /-- MAXU (R172): rd := unsigned maximum of ra and rb. -/
  | maxU (h : Hdr) (f : FmtR)
  /-- PSEL (R171): rd := ra if the predicate named by FN[3:0] is true, else rb. -/
  | psel (h : Hdr) (f : FmtR)
  /-- CLZ (R171): rd := the count of leading zero bits of ra. -/
  | clz (h : Hdr) (f : FmtR)
  /-- POPC (R171): rd := the count of one bits of ra. -/
  | popc (h : Hdr) (f : FmtR)
  /-- BFX (R172): Extracts a bit field of ra into rd. -/
  | bfx (h : Hdr) (f : FmtR)
  /-- BFI (R172): Inserts a bit field of ra into rd. -/
  | bfi (h : Hdr) (f : FmtR)
  /-- ADDI (R171): ADD with a sign-extended immediate. -/
  | addi (h : Hdr) (f : FmtI)
  /-- SUBI (R171): SUB with a sign-extended immediate. -/
  | subi (h : Hdr) (f : FmtI)
  /-- ANDI (R171): AND with a sign-extended immediate. -/
  | andi (h : Hdr) (f : FmtI)
  /-- ORI (R171): OR with a sign-extended immediate. -/
  | ori (h : Hdr) (f : FmtI)
  /-- XORI (R171): XOR with a sign-extended immediate. -/
  | xori (h : Hdr) (f : FmtI)
  /-- SHLI (R171): SHL with an immediate count. -/
  | shli (h : Hdr) (f : FmtI)
  /-- SHRI (R171): SHR with an immediate count. -/
  | shri (h : Hdr) (f : FmtI)
  /-- SARI (R171): SAR with an immediate count. -/
  | sari (h : Hdr) (f : FmtI)
  /-- MULI (R171): MUL with an immediate. -/
  | muli (h : Hdr) (f : FmtI)
  /-- MULHUI (R171): MULHU with an immediate. -/
  | mulhui (h : Hdr) (f : FmtI)
  /-- MULHSI (R171): MULHS with an immediate. -/
  | mulhsi (h : Hdr) (f : FmtI)
  /-- DIVUI (R171): DIVU with an immediate. -/
  | divui (h : Hdr) (f : FmtI)
  /-- DIVSI (R171): DIVS with an immediate. -/
  | divsi (h : Hdr) (f : FmtI)
  /-- REMUI (R171): REMU with an immediate. -/
  | remui (h : Hdr) (f : FmtI)
  /-- REMSI (R171): REMS with an immediate. -/
  | remsi (h : Hdr) (f : FmtI)
  /-- MINI (R171): MIN with an immediate. -/
  | mini (h : Hdr) (f : FmtI)
  /-- MAXI (R171): MAX with an immediate. -/
  | maxi (h : Hdr) (f : FmtI)
  /-- MINUI (R171): MINU with an immediate. -/
  | minui (h : Hdr) (f : FmtI)
  /-- MAXUI (R171): MAXU with an immediate. -/
  | maxui (h : Hdr) (f : FmtI)
  /-- MOVI (R171): rd := IMM32, sign-extended. -/
  | movi (h : Hdr) (f : FmtL)
  /-- MOVK (R171): Writes IMM32 into the low or high half of rd, as FLAG selects. -/
  | movk (h : Hdr) (f : FmtL)
  /-- CMP (R173): Sets PD to a comparison of two registers and PE to its inverse. -/
  | cmp (h : Hdr) (f : FmtP)
  /-- CMPI (R173): Sets PD to a comparison of a register with an immediate and PE to its inverse. -/
  | cmpi (h : Hdr) (f : FmtP)
  /-- PLOG (R173): Sets PD to a logic operation of two predicates. -/
  | plog (h : Hdr) (f : FmtPlog)
  /-- BR (R174): Branches relative to the bundle's own CA. -/
  | br (h : Hdr) (f : FmtB)
  /-- BRI (R174): Branches to the CA held in RA, after an alignment check. -/
  | bri (h : Hdr) (f : FmtB)
  /-- CALL (R174): Branches relative and writes the CA of the next bundle to rd. -/
  | call (h : Hdr) (f : FmtB)
  /-- ERET (R199): Returns from the exception handler to EPC and clears CSTAT.INEXC. -/
  | eret (h : Hdr) (f : FmtB)
  /-- LD (R175): Loads from a CA after the segment or translation check, with the ordering and cache behaviour its fields select. -/
  | ld (h : Hdr) (f : FmtM)
  /-- ST (R175): Stores the low bytes of RD to a CA after the segment or translation check. -/
  | st (h : Hdr) (f : FmtM)
  /-- AMO (R178): Performs an atomic read-modify-write at its scope's point of coherence and returns the old value. -/
  | amo (h : Hdr) (f : FmtA)
  /-- PF (R249): A prefetch hint that may start a data-cache fill without stalling. -/
  | pf (h : Hdr) (f : FmtM)
  /-- CACHE_ZL (R251): Allocates a data-cache line zeroed and dirty, with no fill. -/
  | cacheZl (h : Hdr) (f : FmtM)
  /-- CACHE_WB (R181): Writes a data-cache line back if it is dirty. -/
  | cacheWb (h : Hdr) (f : FmtM)
  /-- CACHE_WBINV (R181): Writes a data-cache line back if it is dirty, then invalidates it. -/
  | cacheWbinv (h : Hdr) (f : FmtM)
  /-- CACHE_INV (R181): Invalidates a data-cache line, discarding dirty data. -/
  | cacheInv (h : Hdr) (f : FmtM)
  /-- CACHE_IINV (R181): Invalidates the whole instruction cache. -/
  | cacheIinv (h : Hdr) (f : FmtM)
  /-- DLOCK (R250): Sets the data-cache way-lock mask. -/
  | dlock (h : Hdr) (f : FmtL)
  /-- FENCE (R180): Orders the program's memory accesses at a scope as a full, acquire or release fence. -/
  | fence (h : Hdr) (f : FmtM)
  /-- PLD (R179): Loads from a peer package and stalls until the reply arrives. -/
  | pld (h : Hdr) (f : FmtM)
  /-- PST (R179): Posts a store to a peer package. -/
  | pst (h : Hdr) (f : FmtM)
  /-- FTLD (R182): Loads user format descriptor entries from scratchpad and checks each one. -/
  | ftld (h : Hdr) (f : FmtM)
  /-- CBLD (R182): Loads codebook slots from scratchpad and checks each one. -/
  | cbld (h : Hdr) (f : FmtM)
  /-- ISSUE (R183): Reads a descriptor from scratchpad, captures it and appends it to an engine queue. -/
  | issue (h : Hdr) (f : FmtE)
  /-- EWAIT (R185): Waits until every earlier operation of the engines in the mask has completed or been discarded. -/
  | ewait (h : Hdr) (f : FmtS)
  /-- CWAIT (R190): Waits until a credit counter is at least N, then takes N as an acquire. -/
  | cwait (h : Hdr) (f : FmtC)
  /-- CSIG (R191): Adds N to a credit counter of a target core as a release, or discards the signal. -/
  | csig (h : Hdr) (f : FmtC)
  /-- CTEST (R190): Sets a predicate from a test of a credit counter. -/
  | ctest (h : Hdr) (f : FmtC)
  /-- CRD (R190): Copies a credit counter to a scalar register. -/
  | crd (h : Hdr) (f : FmtC)
  /-- CSET (R190): Writes a credit counter. -/
  | cset (h : Hdr) (f : FmtC)
  /-- MFS (R163): Reads a special register into rd. -/
  | mfs (h : Hdr) (f : FmtS)
  /-- MTS (R163): Writes the RW fields of a special register, which may clear CSTAT flags and reopen a faulted engine. -/
  | mts (h : Hdr) (f : FmtS)
  /-- PREHEAT (R192): Requests power-up of engines and cores of a cluster without waiting. -/
  | preheat (h : Hdr) (f : FmtS)
  /-- STRIKE (R194): Requests a strike on a line and stalls until enough cores are armed on it. -/
  | strike (h : Hdr) (f : FmtS)
  /-- JIG_OPEN (R193): Waits for the core's earlier work, pins the region's code, and either starts the region or arms on a strike line. -/
  | jigOpen (h : Hdr) (f : FmtL)
  /-- JIG_SEAL (R195): Closes the jig region, releases the pin and returns to queue mode. -/
  | jigSeal (h : Hdr) (f : FmtL)
  /-- MARK (R197): Records a layer and operator identifier and emits a trace record. -/
  | mark (h : Hdr) (f : FmtL)
  /-- YIELD (R198): Waits for the core's engine operations to complete, then offers the core to another ready task. -/
  | yieldI (h : Hdr) (f : FmtL)
  /-- END (R198): Once the core's operations and writes are done, reports the core's part of the task as finished to the CSQ. -/
  | endTask (h : Hdr) (f : FmtL)
  /-- WAIT (R197): Idles the sequencer for IMM32 cycles. -/
  | waitI (h : Hdr) (f : FmtL)
  /-- BRK (R197): Raises BREAK. -/
  | brk (h : Hdr) (f : FmtL)
  /-- ASYNC_ENGINE_FAULT (R186): A pending engine fault is taken as an asynchronous exception at the next bundle boundary. -/
  | asyncEngineFault (core : CoreIx)
  /-- STRIKE_SENT (R216): At the first frame boundary with enough cores armed, the strike is sent and the armed cores start the region 192 CCLK cycles later. -/
  | strikeSent (line : Fin 16)
  /-- SLIP_END (R222): Once every joined slip cause has ended, the participants resume. -/
  | slipEnd (slip : SlipMet)
  /-- ANV_MMA (R88): Anvil runs a matrix multiply into an accumulator bank with exact-sum or ordered accumulation. -/
  | anvMma (core : CoreIx) (slips : List SlipObs)
  /-- ANV_RD (R91): Anvil reads a bank out to scratchpad, rounded, quantised or as XP32, and may release the bank. -/
  | anvRd (core : CoreIx)
  /-- ANV_LDACC (R90): Anvil loads a bank from scratchpad as its initial value. -/
  | anvLdacc (core : CoreIx)
  /-- ANV_ADDACC (R90): Anvil adds XP32 partials from scratchpad into an exact bank. -/
  | anvAddacc (core : CoreIx)
  /-- ANV_CLR (R85): Anvil clears a bank to empty. -/
  | anvClr (core : CoreIx)
  /-- CHS_ADD (R95): Chisel computes z := x + y. -/
  | chsAdd (core : CoreIx)
  /-- CHS_SUB (R95): Chisel computes z := x − y. -/
  | chsSub (core : CoreIx)
  /-- CHS_MUL (R95): Chisel computes z := x × y. -/
  | chsMul (core : CoreIx)
  /-- CHS_FMA (R95): Chisel computes z := x × y + w with one rounding. -/
  | chsFma (core : CoreIx)
  /-- CHS_MAX (R97): Chisel computes the larger of x and y. -/
  | chsMax (core : CoreIx)
  /-- CHS_MIN (R97): Chisel computes the smaller of x and y. -/
  | chsMin (core : CoreIx)
  /-- CHS_ABS (R95): Chisel computes |x|. -/
  | chsAbs (core : CoreIx)
  /-- CHS_SEL (R95): Chisel selects x or w by a comparison of x with y. -/
  | chsSel (core : CoreIx)
  /-- CHS_DIV (R95): Chisel computes x ÷ y, correctly rounded. -/
  | chsDiv (core : CoreIx)
  /-- CHS_RSQRT (R95): Chisel computes 1 ÷ √x, correctly rounded. -/
  | chsRsqrt (core : CoreIx)
  /-- CHS_CVT (R95): Chisel converts x between formats, applying any block scale of X. -/
  | chsCvt (core : CoreIx)
  /-- CHS_QNT (R99): Chisel quantises rows in blocks and writes the block scales. -/
  | chsQnt (core : CoreIx)
  /-- CHS_CURVE (R102): Chisel evaluates a curve-slot table on each element. -/
  | chsCurve (core : CoreIx)
  /-- CHS_RSUM (R98): Chisel reduces each row to its sum in the canonical order. -/
  | chsRsum (core : CoreIx)
  /-- CHS_RSSQ (R98): Chisel reduces each row to its sum of squares in the canonical order. -/
  | chsRssq (core : CoreIx)
  /-- CHS_RMAX (R97): Chisel finds the largest element of each row. -/
  | chsRmax (core : CoreIx)
  /-- CHS_RMIN (R97): Chisel finds the smallest element of each row. -/
  | chsRmin (core : CoreIx)
  /-- CHS_RARGMAX (R97): Chisel writes the column index of the largest element of each row. -/
  | chsRargmax (core : CoreIx)
  /-- CHS_CLD (R101): Chisel loads a curve slot and checks it. -/
  | chsCld (core : CoreIx)
  /-- TNG_GATHER (R117): Tongs copies table rows into scratchpad. -/
  | tngGather (core : CoreIx)
  /-- TNG_POOL (R118): Tongs reduces bags of rows to one vector per bag, locally or through stack-side pool units. -/
  | tngPool (core : CoreIx)
  /-- TNG_SCATTER (R117): Tongs writes rows from scratchpad into a table in place. -/
  | tngScatter (core : CoreIx)
  /-- TNG_MUPD (R134): Tongs merges gradients per row and applies an update rule to each distinct row. -/
  | tngMupd (core : CoreIx)
  /-- TNG_STAGE (R130): Tongs locks LIVE rows and writes new content to veneer slots. -/
  | tngStage (core : CoreIx)
  /-- TNG_COMMIT (R130): Tongs flips staged rows to their slots, or discards the staging. -/
  | tngCommit (core : CoreIx)
  /-- TNG_MIGRATE (R136): Tongs moves hot rows into pool 1 or back to their home. -/
  | tngMigrate (core : CoreIx)
  /-- TNG_RESHARD (R138): Tongs copies rows to a destination table and forwards them, recording progress in a journal. -/
  | tngReshard (core : CoreIx)
  /-- TNG_TSWAP (R137): The GFE swaps a table handle to a new descriptor if it holds the expected one. -/
  | tngTswap (core : CoreIx)
  /-- TNG_TSCRUB (R131): Tongs queues lost copy-backs and clears stale BUSY bits over a row range. -/
  | tngTscrub (core : CoreIx)
  /-- TNG_URLD (R133): Tongs loads the 16-entry update-rule table. -/
  | tngUrld (core : CoreIx)
  /-- ROW_LOCK_ACQUIRE (R130): A writer that waited on BUSY takes the row lock once the row is released. -/
  | rowLockAcquire (core : CoreIx)
  /-- VENEER_SLOT_ALLOC (R130): A writer waiting for a free veneer slot allocates one once a slot is freed. -/
  | veneerSlotAlloc (core : CoreIx)
  /-- COPY_BACK (R130): Once DONE reaches the flip epoch, a queued copy-back writes the slot content home and swaps the row to LOC home. -/
  | copyBack (core : CoreIx) (entry : Nat)
  /-- VENEER_SLOT_FREE (R128): Once DONE reaches the flip epoch, the agent that moved a row frees the old slot. -/
  | veneerSlotFree (core : CoreIx) (entry : Nat)
  /-- TBL_LOOKUP_RETIRE (R126): A lookup retires when its last row read returns, which may advance TBL_EPOCH_DONE. -/
  | tblLookupRetire (entry : Nat)
  /-- TBL_EPOCH_ADVANCE (R127): TBL_EPOCH advances by 1 when PERIOD_NS of STC has elapsed. -/
  | tblEpochAdvance
  /-- TBL_EPOCH_CFG_WRITE (R127): A write of PERIOD_NS reschedules the next epoch advance from the latest one. -/
  | tblEpochCfgWrite (rq : Requester) (val : Word)
  /-- DESC_DRAINED (R110): The GFE sets DRAINED on a retired, unreferenced descriptor and advances its release fence. -/
  | descDrained (desc : Nat)
  /-- POOL_UNIT_SHARE (R122): A stack-side pool unit reads and sums a bag share and returns a partial. -/
  | poolUnitShare (stack : Fin 12)
  /-- SEL_SOPEN (R148): SEL opens and empties a stream with capacity k and a direction. -/
  | selSopen (core : CoreIx)
  /-- SEL_SPUSH (R150): SEL screens rows of scores into streams. -/
  | selSpush (core : CoreIx)
  /-- SEL_SPUSHL (R156): SEL pushes a list of 16-byte entries into a stream. -/
  | selSpushl (core : CoreIx)
  /-- SEL_SREAD (R153): SEL writes a stream's entries best first and may close the stream. -/
  | selSread (core : CoreIx)
  /-- SEL_PQSCAN (R157): SEL scores product-quantized codes from distance tables and pushes the scores into streams. -/
  | selPqscan (core : CoreIx)
  /-- SEL_SBEST (R154): SEL keeps a top-1 entry per row in a scratchpad state array. -/
  | selSbest (core : CoreIx)
  /-- XFR_COPY (R188): A transfer engine copies strided rows from a source to a destination. -/
  | xfrCopy (core : CoreIx) (u : Fin 2) (slips : List SlipObs)
  /-- XFR_FILL (R188): A transfer engine fills strided rows with a pattern. -/
  | xfrFill (core : CoreIx) (u : Fin 2)
  /-- XFR_PCOPY (R188): A transfer engine copies to or from a peer package. -/
  | xfrPcopy (core : CoreIx) (u : Fin 2)
  /-- XFR_NOTE (R189): A transfer engine notifies a credit counter behind its earlier operations. -/
  | xfrNote (core : CoreIx) (u : Fin 2)
  /-- ENGINE_OP_COMPLETE (R185): An engine operation completes, adding any completion credit and releasing EWAIT and range-tracker waits. -/
  | engineOpComplete (core : CoreIx) (op : Finisher)
  /-- ENGINE_POWER_ON (R218): A woken engine becomes powered, and ISSUEs held for it proceed. -/
  | enginePowerOn (core : CoreIx) (eng : Fin 6)
  /-- ENGINE_POWER_OFF (R431): An engine idle for ENG_IDLE cycles outside a jig region is turned off. -/
  | enginePowerOff (core : CoreIx) (eng : Fin 6)
  /-- CORE_ENTER_C2 (R431): A core with no running task and every engine off for CORE_IDLE_US enters C2. -/
  | coreEnterC2 (core : CoreIx)
  /-- CORE_ENTER_C3 (R431): A core with no placed task for SPAD_IDLE_MS enters C3 and departs its cluster generation. -/
  | coreEnterC3 (core : CoreIx)
  /-- RAMP_TOKEN_GRANT (R432): Bellows grants a queued core wake a ramp token within the die's rate limit. -/
  | rampTokenGrant (die : Fin 2)
  /-- CORE_WAKE_DONE (R430): A core reaches C0 2,400 CCLK cycles after its grant, rejoining first if it was in C3. -/
  | coreWakeDone (core : CoreIx)
  /-- LINE_FILL_DONE (R248): A data-cache fill completes and the stalled access proceeds. -/
  | lineFillDone (core : CoreIx) (line : Nat)
  /-- WB_BUFFER_DRAIN (R248): The one-entry write-back buffer drains its victim, freeing room for a waiting miss. -/
  | wbBufferDrain (core : CoreIx)
  /-- SPAD_PATROL_SCRUB (R245): The patrol scrubber reads and corrects a scratchpad line in an idle bank cycle. -/
  | spadPatrolScrub (core : CoreIx) (word : Nat) (found : EccFound)
  /-- DRAWER_REFRESH (R209): A drawer bank takes its refresh cycle in an idle slot once per 64 DCLK cycles. -/
  | drawerRefresh (core : CoreIx) (bank : Fin 16) (found : EccFound) (word : Nat)
  /-- DRAWER_SELF_REFRESH (R255): While DCLK is stopped, the self-refresh timer refreshes one row per bank every 4 reference cycles. -/
  | drawerSelfRefresh (core : CoreIx) (bank : Fin 16) (found : EccFound) (word : Nat)
  /-- STACK_REFRESH (R256): The stack controller issues per-bank refresh at a rate set from the stack's temperature. -/
  | stackRefresh (stack : Fin 12) (tempC : Nat)
  /-- BAR4_READ (R243): A host read through an aperture selector is served directly from memory, or refused. -/
  | bar4Read (off len : Nat)
  /-- BAR4_WRITE (R243): A host write through an aperture selector is written directly to memory, or discarded. -/
  | bar4Write (off : Nat) (data : List Byte) (poisoned : Bool)
  /-- KEY_LOAD (R260): KEY_CMD with GO loads KEY_DATA into a key slot of the context's range. -/
  | keyLoad (rq : Requester) (ctx : CtxIx) (val : Word)
  /-- KEY_ZERO (R260): KEY_CMD with GO and ZERO empties a key slot. -/
  | keyZero (rq : Requester) (ctx : CtxIx) (val : Word)
  /-- KEY_EFFECTIVE (R260): A key load or zero takes effect in every controller within 2 µs. -/
  | keyEffective (slot : BitVec 10)
  /-- RING_REQUEST_GRANT (R282): The cluster arbiter grants a coherence request and broadcasts it to the ring stops and the cluster cache. -/
  | ringRequestGrant (cluster : ClusterIx) (line : Nat)
  /-- HOME_AGENT_REQUEST (R286): A region's home agent orders a request, snoops present clusters, and forwards it if needed. -/
  | homeAgentRequest (region : Fin 8) (line : Nat)
  /-- LOCATION_REQUEST (R287): A location controller orders a request, snoops flagged regions and the host, and completes it. -/
  | locationRequest (line : Nat)
  /-- DIR_RECALL (R289): A directory or filter replacing an entry recalls the line from every flagged unit. -/
  | dirRecall (region : Option (Fin 8)) (line : Nat)
  /-- BIRSP (R299): A host BIRsp arrives, clearing the host bit and writing back any dirty data before the waiting access proceeds. -/
  | birsp (line : Nat) (inv : Bool) (data : Option (List Byte × Bool))
  /-- HOST_MEMRD (R299): A host CXL.mem read of stack memory is served, snooped first for HDM-DB. -/
  | hostMemrd (hpa : Nat) (caches : Bool)
  /-- HOST_MEMWR (R300): A host CXL.mem write of stack memory is performed at the stack controller. -/
  | hostMemwr (hpa : Nat) (data : List Byte) (poison : Bool)
  /-- SNPDATA (R294): The device cache answers a host SnpData after recalling M and O inner copies. -/
  | snpdata (hpa : Nat)
  /-- SNPINV (R294): The device cache answers a host SnpInv after recalling every inner copy. -/
  | snpinv (hpa : Nat)
  /-- SNPCUR (R294): The device cache answers a host SnpCur with its current data. -/
  | snpcur (hpa : Nat)
  /-- WATCH_REARM (R297): The GFE re-arms a watch entry with RdShared and processes a changed header as new submissions;
  `fclk`: the FCLK cycles since the snoop response, at most 128. -/
  | watchRearm (ctx : CtxIx) (fclk : Fin 129)
  /-- CXL_GO (R293): A GO response completes a CXL.cache request of the complex. -/
  | cxlGo (hpa : Nat) (grant : Grant) (data : List Byte) (poison : Bool)
  /-- CXL_GO_ERR (R293): A GO-Err response completes an access with the line poisoned for reads and the write discarded. -/
  | cxlGoErr (hpa : Nat)
  /-- COMPLETION_TIMEOUT (R366): A read by the complex meets a completion timeout and completes as poisoned. -/
  | completionTimeout (hpa : Nat)
  /-- MIRROR_WALK_DONE (R306): A walk of the context's mirror table at the fault tracker returns a range entry, or fails. -/
  | mirrorWalkDone (cluster : ClusterIx) (entry : Nat)
  /-- ATS_COMPLETION (R308): An ATS translation completion arrives and is cached, treated as a page fault, or raises TRANS. -/
  | atsCompletion (ctx : CtxIx) (page : Nat) (res : AtsResult)
  /-- PRG_RESPONSE (R311): A PRG Response Message arrives, repeating ATS and resuming waiters, or raising TRANS. -/
  | prgResponse (prg : Nat) (code : PrgCode)
  /-- TASK_SWITCH_OUT (R313): The CSQ saves a parked or yielding task to a save slot and restores another ready task. -/
  | taskSwitchOut (core : CoreIx)
  /-- TASK_SWITCH_IN (R313): A switched-out task that has become ready is restored on its own core when the core is free. -/
  | taskSwitchIn (core : CoreIx) (task : Nat)
  /-- GRANULE_MIGRATE (R315): The GFE fault unit copies a host granule into a stack pool unit and marks it LOCAL, or HELD if the pool is full;
  `steps`: at most how many of its steps (the unit, a line, the last state word) are taken now. -/
  | granuleMigrate (ctx : CtxIx) (page steps : Nat)
  /-- XLT_INV_REQ (R317): A write with GO queues an invalidation of one context's translations. -/
  | xltInvReq (rq : Requester) (val : Word)
  /-- XLT_INV_DONE (R317): An invalidation completes once its old-translation accesses are performed, and DONE increments. -/
  | xltInvDone
  /-- ATS_INVALIDATION_REQUEST (R318): A host ATS Invalidation Request invalidates every matching context and is answered when complete. -/
  | atsInvalidationRequest (pasid : Option (BitVec 20))
  /-- CMD_NOP (R326): The GFE retires a NOP command. -/
  | cmdNop (ctx : CtxIx) (w : List Word)
  /-- CMD_TASK (R334): The GFE processes a TASK command: serialises, captures tables and seeks a placement. -/
  | cmdTask (ctx : CtxIx) (w : List Word)
  /-- CMD_WAIT (R329): The GFE holds later commands until a fence reaches a value. -/
  | cmdWait (ctx : CtxIx) (w : List Word)
  /-- CMD_SIGNAL (R330): The GFE adds a value to a fence now, or at once retires an AFTER signal. -/
  | cmdSignal (ctx : CtxIx) (w : List Word)
  /-- CMD_CALL (R327): The GFE checks a command buffer and processes its entries in place of the CALL. -/
  | cmdCall (ctx : CtxIx) (w : List Word)
  /-- TASK_PLACE (R334): Once a placement and strike lines are free, the GFE assigns them and sends the task to the CSQs. -/
  | taskPlace (ctx : CtxIx)
  /-- TASK_CORE_START (R337): A CSQ starts a placed task on a core as it becomes free, loading its initial state. -/
  | taskCoreStart (core : CoreIx) (task : Nat)
  /-- CPL_RECORD_ISSUE (R301): Once the task's writes are performed, the GFE writes the completion record as a release at PACKAGE. -/
  | cplRecordIssue (task : Nat)
  /-- AFTER_SIGNAL (R330): An AFTER signal's fence add is performed once the earlier tasks have ended and their records are issued. -/
  | afterSignal (ctx : CtxIx)
  /-- CTX_FSET (R331): CTX_FSET_CMD with GO writes CTX_FSET_VAL to a fence. -/
  | ctxFset (rq : Requester) (ctx : CtxIx) (val : Word)
  /-- CTX_ABORT (R343): CTX_ABORT with GO starts aborting every task and discards the context's pending commands. -/
  | ctxAbort (rq : Requester) (ctx : CtxIx) (val : Word)
  /-- ABORT_COMPLETE (R343): Once every task has ended, the abort completes and ABORTDONE is set. -/
  | abortComplete (ctx : CtxIx)
  /-- WDOG_STALL (R345): CTX_PROGRESS unchanged for INTERVAL_US with undone work marks the context stalled. -/
  | wdogStall (ctx : CtxIx)
  /-- INT_ACK_ARM (R360): A write of INT_ACK.ARM re-arms MSI and sends one if IRQ is 1. -/
  | intAckArm (rq : Requester) (val : Word)
  /-- MSI_ENABLE (R360): MSI Enable changing to 1 sets the arm flag. -/
  | msiEnable
  /-- MSI_UNMASK (R360): Unmasking a pending vector sends the MSI if IRQ is still 1. -/
  | msiUnmask
  /-- FLR_INITIATE (R361): Initiate Function Level Reset stops upstream requests and resets the function, or enters the banked state. -/
  | flrInitiate
  /-- FLR_COMPLETE (R361): The FLR completes within 10 ms and FLRDONE is set. -/
  | flrComplete
  /-- BME_CLEAR (R362): Clearing Bus Master Enable holds every new upstream request. -/
  | bmeClear
  /-- BME_SET (R362): Setting Bus Master Enable issues the held requests in order. -/
  | bmeSet
  /-- D3HOT_ENTER (R363): The function enters D3hot, holding upstream requests and claiming no memory request. -/
  | d3hotEnter
  /-- D0_RETURN (R350): The function returns from D3hot to D0, keeping its state. -/
  | d0Return
  /-- PRI_REENABLE (R351): Toggling Page Request Enable, or setting PRI Reset, clears the PRIFAIL block. -/
  | priReenable
  /-- HDM_DECODER_COMMIT (R352): The host commits an HDM decoder, which maps a host range onto stack DPA as HDM-DB or HDM-H. -/
  | hdmDecoderCommit (dec : Fin 4) (base size dpa : Nat) (bi : Bool)
  /-- ROM_READ (R355): A host read of the expansion ROM window returns ROM contents. -/
  | romRead (off len : Nat)
  /-- DOE_DISCOVERY (R353): The DOE mailbox answers a DOE Discovery request. -/
  | doeDiscovery (ix : BitVec 8)
  /-- GET_VERSION (R353): The DOE mailbox answers an SPDM GET_VERSION. -/
  | getVersion
  /-- GET_CAPABILITIES (R353): The DOE mailbox answers an SPDM GET_CAPABILITIES. -/
  | getCapabilities (ver : BitVec 8) (flags : BitVec 32)
  /-- NEGOTIATE_ALGORITHMS (R353): The DOE mailbox answers an SPDM NEGOTIATE_ALGORITHMS. -/
  | negotiateAlgorithms (asym hash : BitVec 32)
  /-- GET_DIGESTS (R353): The DOE mailbox answers an SPDM GET_DIGESTS. -/
  | getDigests
  /-- GET_CERTIFICATE (R353): The DOE mailbox answers an SPDM GET_CERTIFICATE. -/
  | getCertificate (off len : BitVec 16)
  /-- CHALLENGE (R353): The DOE mailbox answers an SPDM CHALLENGE. -/
  | challenge (nonce : BitVec 256)
  /-- GET_MEASUREMENTS (R353): The DOE mailbox returns measurements of the boot ROM, the microcode and the cut list. -/
  | getMeasurements (op : BitVec 8)
  /-- CDAT_READ (R353): The DOE mailbox returns CXL Table Access (CDAT) entries. -/
  | cdatRead (entry : BitVec 16)
  /-- DOE_ABORT (R350): A DOE Abort cancels the mailbox exchange in progress. -/
  | doeAbort
  /-- LINK_UP (R359): The host link returns to L0 after link down, and INTA is asserted again if the level is 1. -/
  | linkUp
  /-- LINK_RETRAIN (R370): A link retrain without reset delays writes and loses nothing. -/
  | linkRetrain
  /-- POWER_ON_RESET (R368): PWRGOOD low or the loss of a rail resets everything to power-on values. -/
  | powerOnReset
  /-- WARM_RESET (R368): WARM_RST_N, or RST_CTL.GO with the correct KEY, warm-resets the complex or enters the banked state. -/
  | warmReset (src : WarmSrc)
  /-- HOT_RESET (R368): A hot reset on the host link acts as a warm reset or enters the banked state. -/
  | hotReset
  /-- SURPRISE_LINK_DOWN (R368): The link leaving L0 through link down acts as a warm reset or enters the banked state. -/
  | surpriseLinkDown
  /-- BANK_REATTACH (R379): BANK_CTL.REATTACH while banked brings the compute rails up and restarts the complex. -/
  | bankReattach (rq : Requester) (val : Word)
  /-- REATTACH_COMPLETE (R379): Re-attach finishes with PHASE RUN, taking any held fault reactions first. -/
  | reattachComplete
  /-- BANK_DISCARD (R379): BANK_CTL.DISCARD while banked empties the key slots and warm-resets the complex. -/
  | bankDiscard (rq : Requester) (val : Word)
  /-- BRINGUP_PLL_LOCK (R372): The root and time PLLs lock, STC starts counting, and fuses and the cut list are read. -/
  | bringupPllLock
  /-- BRINGUP_CONFIG_READY (R372): Configuration requests begin to complete normally. -/
  | bringupConfigReady
  /-- BRINGUP_BSM_READY (R372): Stacks are trained and drawers zeroed, PHASE becomes BSM, and MC_EVT.READY is set. -/
  | bringupBsmReady
  /-- MC_LOAD (R373): MC_CMD.LOAD erases the store and starts copying and verifying the image. -/
  | mcLoad (rq : Requester) (val : Word)
  /-- MC_LOAD_DONE (R373): The image is accepted or refused, and MC_STAT and MC_EVT record the result. -/
  | mcLoadDone
  /-- BRINGUP_RUN (R372): After acceptance, scratchpads are zeroed, blocks are enabled and PHASE becomes RUN. -/
  | bringupRun
  /-- CL_REJOIN (R382): CL_REJOIN with GO rejoins the named stale cluster and cores. -/
  | clRejoin (rq : Requester) (cluster : ClusterIx) (val : Word)
  /-- SLOT_PCC_ON (R388): Writing PCC 0 applies power to a present far-memory expander. -/
  | slotPccOn (rq : Requester) (port : Fin 4) (val : Word)
  /-- SLOT_PCC_OFF (R390): Writing PCC 1 drains an ONLINE port, or takes a FAILED port to OFF. -/
  | slotPccOff (rq : Requester) (port : Fin 4) (val : Word)
  /-- SLOT_INDICATOR_WRITE (R388): A write of PIC or AIC changes a slot indicator within 1 µs. -/
  | slotIndicatorWrite (rq : Requester) (port : Fin 4) (val : Word)
  /-- FMP_PRESENCE_DETECT (R392): Insertion of an expander sets PDS and PDC and the port enters OFF. -/
  | fmpPresenceDetect (port : Fin 4)
  /-- FMP_POWER_GOOD (R386): Power good on a powering port moves it to TRAINING. -/
  | fmpPowerGood (port : Fin 4)
  /-- FMP_LINK_L0 (R386): The far-memory link reaches L0 and, with EN at 1, the port starts enumerating. -/
  | fmpLinkL0 (port : Fin 4) (width speed : Nat)
  /-- FMP_ENUMERATE_DONE (R385): Checks pass and decoder 0 is programmed, and the port goes ONLINE. -/
  | fmpEnumerateDone (port : Fin 4) (x : Expander)
  /-- FMP_STATE_TIMEOUT (R386): Powering, training or enumeration exceeds its limit and the port enters FAILED. -/
  | fmpStateTimeout (port : Fin 4)
  /-- FMP_DRAIN_DONE (R390): Cached lines are recalled, the link is taken down and power removed, and the port enters OFF. -/
  | fmpDrainDone (port : Fin 4)
  /-- FMP_SURPRISE_REMOVAL (R391): PDS falls or the link goes down, and outstanding accesses vanish and cached lines are dropped. -/
  | fmpSurpriseRemoval (port : Fin 4) (how : Removal)
  /-- FMP_POWER_FAULT (R391): A slot power fault sets PFD and fails the port. -/
  | fmpPowerFault (port : Fin 4)
  /-- FMP_ATTENTION_BUTTON (R389): A debounced attention-button press sets ABP. -/
  | fmpAttentionButton (port : Fin 4)
  /-- DT_READ (R395): An inbound READ is checked against the peer windows and answered with READ_REPLY or REFUSE. -/
  | dtRead (src : BitVec 8) (tag : Nat) (ca len : Nat)
  /-- DT_READ_REPLY (R395): A READ_REPLY completes a PLD or PCOPY read. -/
  | dtReadReply (tag : Nat) (data : List Byte) (poison : Bool)
  /-- DT_WRITE (R395): An inbound WRITE is checked, performed and acknowledged, and may wake a bound dispatch channel. -/
  | dtWrite (src : BitVec 8) (tag : Nat) (ca : Nat) (data : List Byte) (poison : Bool)
  /-- DT_WRITE_ACK (R279): A WRITE_ACK completes an outstanding peer write and may let a SYSTEM release finish. -/
  | dtWriteAck (tag : Nat)
  /-- DT_LOOKUP (R401): An owner serves a LOOKUP with raw row payloads. -/
  | dtLookup (src : BitVec 8) (tag : Nat) (handle : Nat) (q : RemoteTable) (rows : List Nat)
  /-- DT_ROWS (R402): ROWS return remote raw rows to the requesting Tongs. -/
  | dtRows (tag : Nat) (rows : List (Option (List Byte × Bool)))
  /-- DT_PLOOKUP (R402): An owner sums a bag share exactly and returns a PARTIAL. -/
  | dtPlookup (src : BitVec 8) (tag : Nat) (handle : Nat) (q : RemoteTable) (share : List (Nat × BitVec 32)) (wgt : Bool)
  /-- DT_PARTIAL (R402): A PARTIAL is added exactly into the requester's bag. -/
  | dtPartial (tag : Nat) (elems : List (BitVec 256)) (missing : List Nat) (poison : Bool)
  /-- DT_UPDATE (R403): An owner applies a row or merged gradient under its own descriptor and rule. -/
  | dtUpdate (src : BitVec 8) (tag : Nat) (handle : Nat) (q : RemoteTable) (row : Nat) (u : RowUpdate)
  /-- DT_UPDATE_ACK (R395): An UPDATE_ACK completes a remote update. -/
  | dtUpdateAck (tag : Nat)
  /-- DT_REFUSE (R397): A REFUSE reply makes the requester fault, discard or treat rows as vanished. -/
  | dtRefuse (tag : Nat)
  /-- DT_HEARTBEAT_RECEIVED (R407): A heartbeat keeps a peer alive, revives it on a new incarnation, or is dropped as stray. -/
  | dtHeartbeatReceived (src : BitVec 8) (inc : BitVec 8)
  /-- DT_BEACON_RECEIVED (R404): A worker receives a BEACON and slews or sets its STC toward the manager's time. -/
  | dtBeaconReceived (src : BitVec 8) (mstc : Word)
  /-- HEARTBEAT_SEND (R395): Every 4 µs a package sends a HEARTBEAT to every package in its route table. -/
  | heartbeatSend
  /-- BEACON_SEND (R395): Every 1 µs the manager sends a BEACON to every live worker. -/
  | beaconSend
  /-- PEER_DEAD (R406): 50 µs without a heartbeat declares a peer dead and discards outstanding work to it. -/
  | peerDead (peer : BitVec 8)
  /-- BEACON_TIMEOUT (R405): 50 µs without a beacon sets HOLD and the worker free-runs. -/
  | beaconTimeout
  /-- SYNC_BEACON_EDGE (R404): A rising edge on the sync-beacon input disciplines the manager's STC. -/
  | syncBeaconEdge
  /-- DT_REVIVE (R407): DT_REVIVE with GO treats a dead package as alive again. -/
  | dtRevive (rq : Requester) (val : Word)
  /-- DT_CH_BIND (R398): Writing BOUND 1 binds a dispatch channel to a context and sets CONS from PROD. -/
  | dtChBind (rq : Requester) (ch : Fin 16) (val : Word)
  /-- DT_CH_UNBIND (R398): Writing BOUND 0 unbinds a channel after its current command. -/
  | dtChUnbind (rq : Requester) (ch : Fin 16) (val : Word)
  /-- DT_LINK_CHANGE (R408): A Dovetail port goes up or down and LINK is set. -/
  | dtLinkChange (port : Fin 16) (up : Bool)
  /-- FINJ_GO (R425): FINJ with GO arms an injection on an injectable source. -/
  | finjGo (rq : Requester) (b : Blk) (val : Word)
  /-- CL_FENCE_SET (R419): Writing 1 to a CL_FENCE bit fences a core or the cluster. -/
  | clFenceSet (rq : Requester) (cluster : ClusterIx) (val : Word)
  /-- CL_FENCE_LIFT (R421): Writing 0 to a fence bit lifts the fence unless a condition still holds, which sets REFUSED. -/
  | clFenceLift (rq : Requester) (cluster : ClusterIx) (val : Word)
  /-- CONDITION_REEVENT (R420): A condition source still holding after its clear takes a new event in the next KCLK cycle. -/
  | conditionReevent (b : Blk) (src : Fin 32)
  /-- DIP_BEGIN (R429): A core rail falling below 0.665 V activates the dip request and halves every clock within 3 ns. -/
  | dipBegin (rail : Rail) (mv : BitVec 16)
  /-- DIP_RESTORE (R429): After 5 µs with both core rails at or above 0.68 V, the dip request falls. -/
  | dipRestore
  /-- POWER_SAMPLE (R433): Every 1 µs Bellows estimates power and raises or drops the cap request. -/
  | powerSample (avg1us avg10ms : BitVec 16)
  /-- FORCE_HALF_WRITE (R427): A write of PWR_LIMIT.FORCE_HALF raises or drops the request that holds the root at HALF. -/
  | forceHalfWrite (rq : Requester) (val : Word)
  /-- THERM_PAUSE_BEGIN (R434): A cluster sensor above TPAUSE_C starts periodic CCLK pauses of its cores. -/
  | thermPauseBegin (cluster : ClusterIx) (tempC : BitVec 8)
  /-- THERM_TRIP (R434): A sensor above 120 °C starts the fatal THERM_TRIP condition. -/
  | thermTrip (tempC : BitVec 8)
  /-- PLL_UNLOCK (R411): The root or time PLL loses lock, taking a fatal event. -/
  | pllUnlock
  /-- TEMPER_MEASURE (R435): Every PERIOD_S each temper monitor measures its metric and predicts remaining life. -/
  | temperMeasure (mon : Fin 128) (value : BitVec 16)
  /-- TEMPER_HOUR_TICK (R437): Each hour of STC Bellows adds 1 to TEMPER_HOURS. -/
  | temperHourTick
  /-- QUENCH_PIN (R450): A rising edge on the QUENCH pin with PIN_EN triggers a quench. -/
  | quenchPin
  /-- QUENCH_GO (R450): QUENCH_CTL.GO triggers a quench. -/
  | quenchGo (rq : Requester) (val : Word)
  /-- QUENCH_AT_REACHED (R450): STC reaching QUENCH_AT with STC_EN triggers a quench once. -/
  | quenchAtReached
  /-- QUENCH_STOP (R451): CCLK, DCLK and FCLK stop on a common root edge, freezing all state. -/
  | quenchStop (ofs : BitVec 16)
  /-- QUENCH_RELEASE (R453): QUENCH_CTL.RELEASE restarts the clocks on a later common root edge. -/
  | quenchRelease (rq : Requester) (val : Word)
  /-- QUENCH_WINDOW_READ (R455): A read of the quench window returns frozen state of the selected structure. -/
  | quenchWindowRead (off len : Nat)
  /-- TRACE_ENABLE (R447): Setting TRACE_CTL.EN takes the trace configuration and starts tracing. -/
  | traceEnable (rq : Requester) (val : Word)
  /-- TRACE_FIFO_DRAIN (R445): A trace FIFO drains records to the trace buffer in queue mode. -/
  | traceFifoDrain (fifo : Option ClusterIx)
  /-- WATCH_ARM (R448): Writing WATCHw_CTL.ARM with 1 arms a tensor watch and zeroes COUNT and FIRED. -/
  | watchArm (rq : Requester) (w : Fin 8) (val : Word)
  /-- WATCH_COPY (R448): Once the marking core's earlier operations complete, the watch copies scratchpad to stack. -/
  | watchCopy (w : Fin 8)
  /-- JTAG_BYPASS (R456): The JTAG BYPASS instruction. -/
  | jtagBypass (tdi : Bool)
  /-- JTAG_DBGADDR (R456): JTAG DBGADDR loads the debug structure address. -/
  | jtagDbgaddr (val : Word)
  /-- JTAG_DBGDATA (R456): JTAG DBGDATA captures 512 bits at the address and advances OFFSET. -/
  | jtagDbgdata
  /-- JTAG_DBGREG_CAPTURE (R456): At Capture-DR, DBGREG loads DATA from the register last addressed. -/
  | jtagDbgregCapture
  /-- JTAG_DBGREG_UPDATE (R456): At Update-DR, DBGREG writes DATA as a JTAG requester, or only sets the offset. -/
  | jtagDbgregUpdate (val : BitVec 128)
  /-- QUENCH_RESTART (R453): The clocks restart on the first common root edge at least 48 root cycles after RELEASE, STATE returns to 0 and DBG_EVT.RELEASED is set. -/
  | quenchRestart
  /-- STORE_BUFFER_DRAIN (R266): A buffered sequencer store leaves the store buffer into the data cache or beyond, releasing loads and ISSUEs that waited on it. `entry` is its place, oldest first. -/
  | storeBufferDrain (core : CoreIx) (entry : Nat)
  /-- LINK_LEVEL_RETRY (R220): A link-level retry occurs on a ring, die mesh, seam, UCIe, far-memory or Dovetail link, taking its RETRY fault event and, inside a jig region, a 96-cycle slip. -/
  | linkLevelRetry (link : Link)
  /-- INTERNAL_LINK_DOWN (R411): A region mesh port, the seam, a UCIe link or a stack interface goes down, starting its FATAL condition source. -/
  | internalLinkDown (link : IntLink)
  /-- PHY_RETRAIN (R411): A stack interface retrains, taking a PHY_RETRAIN event. -/
  | phyRetrain (stack : Fin 12)
  /-- CONDITION_SOURCE_ENDS (R421): A condition source stops holding, for example a link back up or a junction back below trip, so re-events stop and fence lifts are accepted. -/
  | conditionSourceEnds (b : Blk) (src : Fin 32)
  /-- THERMAL_CLOCK_PAUSE (R434): In every second calendar frame during a thermal excursion, Bellows pauses the cluster's CCLK for 96 cycles, which is slip cause 0x08 inside a jig region. -/
  | thermalClockPause (cluster : ClusterIx)
  /-- THERMAL_EXCURSION_END (R434): A cluster's junction sensor falls back to TPAUSE_C or below, ending the pauses and the excursion. -/
  | thermalExcursionEnd (cluster : ClusterIx)
  /-- CONFIGURATION_WRITE (R359): A host configuration write changes Command fields such as Memory Space Enable or Interrupt Disable, or ATS or PASID Enable, with effects such as sending Assert_INTA or Deassert_INTA or starting or stopping claims and translations. -/
  | configurationWrite (off size : Nat) (val : BitVec 32)
  /-- IOFLUSH_READ_COMPLETE (R301): The completion of the zero-length CXL.io flush read arrives from the host, closing a task's CXL.io writes before its completion record. -/
  | ioflushReadComplete
  /-- REFRESH_MANAGEMENT_REQUEST (R256): An HBM stack device raises a refresh management request, which the stack controller honours. -/
  | refreshManagementRequest (stack : Fin 12)
  deriving DecidableEq, Repr

end Sys2Proof
end

