-- ==== Sys2Proof/Machine/Bits.lean ====
section
/-! DEFINITION. Bit fields, sign extension, little-endian bytes (04: all multi-byte values are little-endian). -/

namespace Sys2Proof.Machine

/-- Bits [hi:lo] of a number. -/
def bitsN (w hi lo : Nat) : Nat := (w >>> lo) % 2 ^ (hi + 1 - lo)

/-- Bits [hi:lo] of a register or descriptor word. -/
def fld (w : Word) (hi lo : Nat) : Nat := bitsN w.toNat hi lo

/-- One bit of a word. -/
def flag (w : Word) (i : Nat) : Bool := w.getLsbD i

/-- A word of ones in bits [hi:lo]. -/
def fieldMask (hi lo : Nat) : Word := BitVec.ofNat 64 ((2 ^ (hi + 1 - lo) - 1) <<< lo)

/-- `v` in bits [hi:lo], zero elsewhere. -/
def place (hi lo v : Nat) : Word := BitVec.ofNat 64 ((v % 2 ^ (hi + 1 - lo)) <<< lo)

/-- `w` with bits [hi:lo] replaced by `v`. -/
def setFld (w : Word) (hi lo v : Nat) : Word := (w &&& ~~~(fieldMask hi lo)) ||| place hi lo v

/-- The signed value of the low `n` bits of `v`. -/
def signedOf (n v : Nat) : Int :=
  let u := v % 2 ^ n
  if n = 0 then 0 else if u < 2 ^ (n - 1) then (u : Int) else (u : Int) - 2 ^ n

/-- The low `n` bits of a signed number. -/
def unsignedOf (n : Nat) (i : Int) : Nat := (i % (2 ^ n : Int)).toNat

/-- `n` little-endian bytes of a number. -/
def toBytes : Nat → Nat → List Byte
  | 0, _ => []
  | n + 1, v => BitVec.ofNat 8 v :: toBytes n (v / 256)

/-- The number that little-endian bytes hold. -/
def ofBytes : List Byte → Nat
  | [] => 0
  | b :: t => b.toNat + 256 * ofBytes t

/-- The 64-bit words of a byte list, little-endian; a last partial word is zero-extended. -/
def wordsOf : Nat → List Byte → List Word
  | 0, _ => []
  | n + 1, bs => BitVec.ofNat 64 (ofBytes (bs.take 8)) :: wordsOf n (bs.drop 8)

/-- The bytes of a list of words. -/
def bytesOfWords (ws : List Word) : List Byte := ws.flatMap fun w => toBytes 8 w.toNat

/-- Word `i` of a descriptor; 0 beyond its end. -/
def wordAt (ws : List Word) (i : Nat) : Word := ws.getD i 0

def boolNat (b : Bool) : Nat := if b then 1 else 0

/-- `a` divided by `b`, rounded up. -/
def ceilDiv (a b : Nat) : Nat := (a + b - 1) / b

/-- Positions of the set bits of `m` below `n`, ascending. -/
def setBits (m n : Nat) : List Nat := (List.range n).filter fun i => m.testBit i

def popCount (m n : Nat) : Nat := (setBits m n).length

end Sys2Proof.Machine
end

