-- ==== Sys2Proof/Machine/SMap.lean ====
section
/-! DEFINITION. Sparse maps from Nat in one canonical form: keys strictly rising, and no entry equal to what an
unlisted key reads as. Memory, registers and the arrays of units are held in this form. -/

namespace Sys2Proof.Machine

variable {α : Type}

/-- The value at `k`: the entry's, or what an unlisted key reads as. -/
def mapGet (d : Nat → α) : List (Nat × α) → Nat → α
  | [], k => d k
  | (k', v) :: t, k => if k = k' then v else if k < k' then d k else mapGet d t k

/-- The map with `v` at `k`, in canonical form. -/
def mapSet [DecidableEq α] (d : Nat → α) : List (Nat × α) → Nat → α → List (Nat × α)
  | [], k, v => if v = d k then [] else [(k, v)]
  | (k', v') :: t, k, v =>
    if k < k' then (if v = d k then (k', v') :: t else (k, v) :: (k', v') :: t)
    else if k = k' then (if v = d k then t else (k, v) :: t)
    else (k', v') :: mapSet d t k v

/-- The canonical form: keys above `lo`, strictly rising, and no default entry. -/
def mapWfFrom [DecidableEq α] (d : Nat → α) : Nat → List (Nat × α) → Bool
  | _, [] => true
  | lo, (k, v) :: t => decide (lo ≤ k) && !decide (v = d k) && mapWfFrom d (k + 1) t

def mapWf [DecidableEq α] (d : Nat → α) (m : List (Nat × α)) : Bool := mapWfFrom d 0 m

/-- Maps where an unlisted key holds nothing: look up, put, delete. -/
def mapFind? : List (Nat × α) → Nat → Option α
  | [], _ => none
  | (k', v) :: t, k => if k = k' then some v else mapFind? t k

def mapPut : List (Nat × α) → Nat → α → List (Nat × α)
  | [], k, v => [(k, v)]
  | (k', v') :: t, k, v =>
    if k < k' then (k, v) :: (k', v') :: t else if k = k' then (k, v) :: t else (k', v') :: mapPut t k v

def mapDel : List (Nat × α) → Nat → List (Nat × α)
  | [], _ => []
  | (k', v') :: t, k => if k = k' then t else (k', v') :: mapDel t k

end Sys2Proof.Machine
end

