-- ==== Sys2Proof/Machine/State.lean ====
section
/-! DEFINITION. The state of the complex as plain data, and its power-on value. Registers of BAR0 and of the context
pages are one sparse map (their tables are in Machine/RegTab.lean); everything else the manual gives the
machine has a field of its own. -/

namespace Sys2Proof.Machine

/-- A sparse map by Nat (Machine/SMap.lean). -/
abbrev SMap (α : Type) := List (Nat × α)

/-- What stops the model. -/
inductive Fault where
  /-- R393: a beacon from a second manager reaches a manager; the manual calls the results not specified.
  Raised by DT_BEACON_RECEIVED. Safe: the model stops where the hardware goes on in an unspecified way. -/
  | secondManager
  deriving DecidableEq, Repr

/-- What the model refuses by name. -/
inductive Refusal where
  /-- An arm of exec without a meaning yet. Safe. -/
  | notModelled (mnemonic : String)
  /-- R347, R1: configuration offsets from 0x400 belong to the I/O die and are outside the manual.
  Raised by CONFIGURATION_WRITE. Safe: the model stops. -/
  | ioDieConfiguration
  deriving DecidableEq, Repr

/-- MOESI states of a held line (R283); a line that is not held is Invalid. -/
inductive Moesi where
  | m | o | e | s
  deriving DecidableEq, Repr

/-- A line of a data cache, a cluster cache or the device cache (R247, R253, R292). `line` is the CA or host
physical address divided by 64; `key` is the key slot its write-back encrypts with (R258), none for plaintext;
`pres` is the device cache's cluster presence vector; in a cluster cache 1 where the line holds an engine's write that is not
performed at PACKAGE yet (R264). -/
structure CLine where
  line : Nat
  host : Bool
  st : Moesi
  data : List Byte
  poison : Bool
  cc : Bool
  key : Option Nat
  stamp : Nat
  pres : Nat
  deriving DecidableEq, Repr

/-- Where a checked access goes (R239, R307): a canonical CA or a host physical address (`io`: by CXL.io), the
CC bit, and the key slot of an encrypted access. -/
structure Target where
  host : Bool
  io : Bool
  addr : Nat
  cc : Bool
  key : Option Nat
  deriving DecidableEq, Repr

/-- A store in the store buffer (R264, R266); `named`: its CA as named (R267). -/
structure BufStore where
  tgt : Target
  named : Nat
  nc : Bool
  data : List Byte
  deriving DecidableEq, Repr

/-- An outstanding data-cache fill (R248, R249). -/
structure Fill where
  line : Nat
  host : Bool
  own : Bool
  prefetch : Bool
  cc : Bool
  key : Option Nat
  deriving DecidableEq, Repr

/-- Where a coherence request stands (R282, R286, R287, R293, R299). -/
inductive TxStage where
  | ring | home | loc | host | data
  deriving DecidableEq, Repr

/-- A coherence request of a core's data cache on its way; it fills set `set`. `noData`: CACHE ZL needs no data. -/
structure Txn where
  core : Nat
  cluster : Nat
  line : Nat
  set : Nat
  host : Bool
  own : Bool
  noData : Bool
  cc : Bool
  key : Option Nat
  stage : TxStage
  data : List Byte
  poison : Bool
  shared : Bool
  dirty : Bool
  deriving DecidableEq, Repr

/-- An exact-sum accumulator (R70): `value` in units of 2^-128. -/
structure Acc where
  value : BitVec 224
  nan : Bool
  pinf : Bool
  ninf : Bool
  wov : Bool
  trunc : Bool
  count : Nat
  deriving DecidableEq, Repr

/-- One element of a bank: the exact accumulator, the ordered FP32 acc, and the POISON bit (R85). -/
structure BankElem where
  acc : Acc
  f32 : BitVec 32
  poison : Bool
  deriving DecidableEq, Repr

inductive BankMode where
  | empty | exact | ordered
  deriving DecidableEq, Repr

/-- An accumulator bank (R85, R86). Element (row, column) is at key row * 128 + column. -/
structure Bank where
  mode : BankMode
  live : Bool
  elems : SMap BankElem
  deriving DecidableEq, Repr

/-- A SEL candidate (R145) with its poison mark (R158). -/
structure Cand where
  id : Word
  aux : BitVec 32
  score : BitVec 32
  poison : Bool
  deriving DecidableEq, Repr

/-- A SEL stream (R148); `entries` best first; `inJig`: opened or pushed in the region that runs (R227). -/
structure Stream where
  isOpen : Bool
  inJig : Bool
  k : Nat
  min : Bool
  entries : List Cand
  deriving DecidableEq, Repr

/-- A codebook slot (R59). -/
structure Codebook where
  valid : Bool
  base : Bool
  bytes : List Byte
  deriving DecidableEq, Repr

/-- A curve slot (R100, R104). -/
structure Curve where
  valid : Bool
  poison : Bool
  bytes : List Byte
  deriving DecidableEq, Repr

/-- An operation in an engine queue with all it captured at issue (R54, R183). `ran`: its effect is
performed. `progress`: work already done (R312). `tags`: peer requests outstanding. `sums`: a POOL's partials from
peers. `sent`: its requests to peers or pool units are sent. `rows`: rows that peers returned, by position; `marks`: the positions, or the bags
of partials, that came poisoned;
`deferred`: weights of the rows that peers answered as vanished. `locked`, `ldesc`, `lepoch`: the row lock held, the
table it is in and the epoch of its acquisition; `slot`: the veneer slot taken. `hole`: the first hole met (R21). `seq`: the
place of its ISSUE among all of its task part's (R267). `pins`: the participants of the region it was issued in (R203, R204). -/
structure EngOp where
  desc : List Word
  fmts : SMap Word
  cbs : SMap Codebook
  rules : SMap (BitVec 128)
  credit : Option Nat
  ord : Nat
  inJig : Bool
  pins : List Nat
  ran : Bool
  progress : Nat
  locked : Bool
  slot : Option Nat
  parked : Bool
  sent : Bool
  tags : List Nat
  sums : List (Nat × List Acc)
  noted : Bool
  rows : SMap (Option (List Byte))
  marks : List Nat
  deferred : List (Option (BitVec 32))
  ldesc : List Word
  lepoch : Nat
  hole : Option Nat
  seq : Nat
  /-- A parity error of the engine was found in it: every result chunk is poisoned (R411). -/
  parity : Bool
  /-- The region it was issued in has aborted: it runs to its completion for itself (R227). -/
  orphaned : Bool
  /-- The extents recorded at ISSUE: from the lowest byte up to the highest, and whether it is written (R267). -/
  exts : List (Nat × Nat × Bool)
  deriving DecidableEq, Repr

/-- A fault that an engine holds for the sequencer (R186, R200). -/
structure EngFault where
  eng : Nat
  opcode : Nat
  ecode : Nat
  sub : Nat
  eaddr : Nat
  detail : Nat
  deriving DecidableEq, Repr

/-- A slip in progress (R220-R222): the cause that ends last, and CYC's CCLK counts at its begin and at its end. -/
structure Slip where
  cause : BitVec 8
  start : Word
  stop : Word
  deriving DecidableEq, Repr

/-- The jig region a core is in or armed for (R193, R202): the pinned code range, its line, the leading
participant, the participants, the slip in progress, the region cycles that have passed as far as the model's time shows them
(log entry 4), the count at the participant's latest region bundle, and what the slots held at JIG.OPEN (R227). -/
structure Jig where
  lo : Nat
  hi : Nat
  line : Option Nat
  lead : Nat
  parts : List Nat
  slip : Option Slip
  cycle : Nat
  last : Option Nat
  fmt0 : SMap Word
  cb0 : SMap Codebook
  curves0 : SMap Curve
  rules0 : SMap (BitVec 128)
  deriving DecidableEq, Repr

/-- What a sequencer's outstanding peer load brought (R179, R397). -/
inductive Reply where
  | data (w : Nat) (poison : Bool)
  | dead
  | refused
  deriving DecidableEq, Repr

/-- The state of one task at one core: R161-R163 and the engine state of R162. `leaving`: the task's part has ended with this code and
waits for its engine operations that had started (R199). -/
structure Prog where
  task : Nat
  ctx : BitVec 12
  taskId : BitVec 32
  s : SMap Word
  p : SMap Bool
  c : SMap (BitVec 32)
  pc : BitVec 52
  inexc : Bool
  injig : Bool
  armed : Bool
  engf : Bool
  covf : Bool
  sigdrop : Bool
  deadrd : Bool
  lost : Bool
  numsum : BitVec 8
  poisonCnt : Word
  missCnt : Word
  ehnd : BitVec 52
  epc : BitVec 52
  ecode : BitVec 8
  einfo : Word
  eaddr : BitVec 52
  jid : BitVec 16
  jcode : BitVec 8
  jorig : BitVec 8
  slips : BitVec 32
  mark : BitVec 33
  lockMask : BitVec 4
  fmt : SMap Word
  cb : SMap Codebook
  curves : SMap Curve
  rules : SMap (BitVec 128)
  banks : SMap Bank
  streams : SMap Stream
  queues : SMap (List EngOp)
  issued : SMap Nat
  faultedEng : List Nat
  pend : List EngFault
  jig : Option Jig
  blocked : Bool
  granted : Bool
  reply : Option Reply
  yielding : Bool
  waitTo : Option Word
  leaving : Option Nat
  deriving DecidableEq, Repr

/-- R430. -/
inductive PowerState where
  | c0 | c2 | c3
  deriving DecidableEq, Repr

/-- A cached translation (R303, R305). `start`, `len` in bytes; `rend` is the end of its whole range (R307). -/
structure RangeEnt where
  ctx : BitVec 12
  start : Nat
  len : Nat
  rend : Nat
  host : Bool
  io : Bool
  target : Nat
  r : Bool
  w : Bool
  x : Bool
  a : Bool
  cc : Bool
  enc : Bool
  key : Nat
  deriving DecidableEq, Repr

/-- One core (R18): its power, caches, store buffer, range buffers and the task part that runs. `engReq`: engines
asked to power up; `accepted`: the lines of a far-memory port that an access of its sequencer waited for when the port began to drain or
vanished (R390, R391); `wakeAt`: CCLK at its ramp token; `engAt`: CCLK at which an engine last became idle; `idleAt`,
`freeAt`: STC since which no task ran, or none was placed, as far as R431 counts it. `icache`: the lines of the instruction cache by
line number, each as it was filled (R246). -/
structure Core where
  power : PowerState
  waking : Bool
  wakeAt : Word
  engOn : BitVec 6
  engReq : BitVec 6
  engAt : SMap Word
  idleAt : Word
  freeAt : Word
  prog : Option Prog
  bundle : List Instr
  dcache : SMap CLine
  stamp : Nat
  wb : Option CLine
  fills : List Fill
  sbuf : List BufStore
  ncLine : Option CLine
  accepted : List Nat
  icache : SMap (List Byte)
  rb : SMap (List RangeEnt)
  parkedSeq : Bool
  deriving DecidableEq, Repr

/-- Where a translation fault stands (R304, R310, R311, R315); `full`: it waits for room in the GFE fault unit;
`stalled`: no entry of the tracker was free; `failed`: its waiters take the exception with this ECODE and SUB when they next try. -/
inductive TrkStage where
  | walk | ats | full | page | migrate | stalled
  | failed (ecode sub : Nat)
  deriving DecidableEq, Repr

/-- An agent (0 SEQ, 1 TNG, 2 XFR0, 3 XFR1) of a task at a core that waits for a translation; `need` is the
number of the permission bit its access needs (R240), `last` the CA of its last byte (R307). -/
structure Waiter where
  core : Nat
  task : Nat
  agent : Nat
  need : Nat
  last : Nat
  deriving DecidableEq, Repr

/-- An entry of a cluster's fault tracker (R310); `page` is the translated CA divided by 4096; `gst` and `gsize`
are the CA of the granule's state word and the granule's bytes, where the range is migratable (R315). -/
structure Trk where
  ctx : BitVec 12
  page : Nat
  stage : TrkStage
  ent : Option RangeEnt
  gst : Nat
  gsize : Nat
  waiters : List Waiter
  deriving DecidableEq, Repr

/-- A page that faults at the GFE fault unit (R310, R311); `page` is the untranslated host address divided by
4096; `ats`: the translation repeated after a Success is outstanding; `tries` counts its page requests. -/
structure PageReq where
  ctx : BitVec 12
  page : Nat
  clusters : List Nat
  write : Bool
  sentWrite : Bool
  prg : Option Nat
  ats : Bool
  tries : Nat
  deriving DecidableEq, Repr

/-- What a granule's copy waits for: nothing, the translation of its next page, or a page request (R315). -/
inductive MigWait where
  | none | ats | page | full
  deriving DecidableEq, Repr

/-- A granule at the GFE fault unit (R310, R315): the cluster that faulted, the granule's host range and state word, the stack CA it
moves to, the chunks copied so far, and the translated address of the page being copied. -/
structure Mig where
  ctx : BitVec 12
  cl : Nat
  ent : RangeEnt
  gst : Nat
  gsize : Nat
  unit : Option Nat
  pos : Nat
  xl : Option Nat
  wait : MigWait
  deriving DecidableEq, Repr

/-- One cluster: cluster cache, second-level range buffer, fault tracker (R253, R303, R310), whether its junction is above the pause
temperature, the CCLK cycles for which its clock still stands, and the calendar frame of the excursion's latest pause (R434). -/
structure Cluster where
  ccache : SMap CLine
  rb2 : List RangeEnt
  trk : List Trk
  excursion : Bool
  pause : Nat
  pauseFrame : Option Nat
  deriving DecidableEq, Repr

/-- A lookup outstanding under its epoch tag (R126); `fin`: its last read has returned. -/
structure Lookup where
  core : Nat
  task : Nat
  desc : Nat
  row : Nat
  tag : Nat
  fin : Bool
  deriving DecidableEq, Repr

/-- A pending copy-back of a Tongs (R130, R131); `len`: the payload bytes of the row (R111). -/
structure CopyBack where
  core : Nat
  ctx : BitVec 12
  desc : List Word
  row : Nat
  pool : Nat
  slot : Nat
  len : Nat
  epoch : Nat
  deriving DecidableEq, Repr

/-- A slot that its mover frees once DONE reaches the flip epoch (R128). -/
structure SlotRel where
  core : Nat
  ctx : BitVec 12
  desc : List Word
  row : Nat
  pool : Nat
  slot : Nat
  epoch : Nat
  deriving DecidableEq, Repr

/-- A bag share sent to a stack-side pool unit (R122); rows with their weights; and its answer: the partial and
the deferred positions. -/
structure Share where
  core : Nat
  stack : Nat
  bag : Nat
  desc : List Word
  fmts : SMap Word
  cbs : SMap Codebook
  rows : List (Nat × Option (BitVec 32))
  mean : Bool
  answer : Option (List Acc × List Nat × Bool)
  deriving DecidableEq, Repr

/-- The first exception of a task (R339). -/
structure TaskExc where
  ecode : Nat
  jigcode : Nat
  core : Nat
  einfo : Word
  stc : Word
  deriving DecidableEq, Repr

inductive TaskStatus where
  | ok | aborted | tblerr | placeerr
  deriving DecidableEq, Repr

/-- A task in the GFE's table (R332-R339). `cores` in rank order, `args` the argument words of each rank; `faulted`:
some part ended on an exception or a fence. `early`: signals to its parts that have not started (R191): core, counter, addend. -/
structure Task where
  id : Nat
  ctx : BitVec 12
  words : List Word
  placed : Bool
  cores : List Nat
  started : List Nat
  ended : List Nat
  lines : List Nat
  caps : List Nat
  capWords : List (List Word)
  args : List (List Word)
  faulted : Bool
  tStart : Word
  tEnd : Word
  exc : Option TaskExc
  status : TaskStatus
  numsum : BitVec 8
  poisonCnt : Nat
  missCnt : Nat
  saved : SMap (Nat × Prog)
  early : List (Nat × Nat × Nat)
  finished : Bool
  issuedRec : Option Nat
  deriving DecidableEq, Repr

/-- A SIGNAL with AFTER 1 that waits (R330): fence, addend and the tasks it waits for. -/
structure AfterSig where
  fence : Nat
  add : Word
  tasks : List Nat
  deriving DecidableEq, Repr

/-- A TASK whose handles are captured and that waits for its placement (R334). -/
structure Waiting where
  words : List Word
  caps : List Nat
  capWords : List (List Word)
  deriving DecidableEq, Repr

/-- The GFE's state of one context (R323-R345). `call`: the CA, COUNT and next index of the command buffer that is
being processed (R327); `stalled`: it has been reported stalled since its last progress (R345); `waitOn`: the context and fence that the next command, a WAIT, waits for; `recheck`: the
GFE has written that fence, or the context was enabled, since the wait was evaluated (R329); `seen`: the header has been read since the enable (R323); `front`: the next command as it was
read, once it has had to wait; `orphan`: the command in progress came from a channel that has been unbound (R398). -/
structure Gctx where
  watch : Bool
  seen : Bool
  header : Word
  prod : BitVec 32
  call : Option (Nat × Nat × Nat)
  capd : Option Waiting
  waitOn : Option (Nat × Nat)
  recheck : Bool
  nrec : Nat
  after : List AfterSig
  lastProgress : Word
  stalled : Bool
  enabled : Bool
  orphan : Bool
  front : Option (List Word)
  /-- The words of the ring slot at CONS, once read, and whether they read poisoned (R324). -/
  slot : Option (List Word × Bool)
  deriving DecidableEq, Repr

/-- A completion record on its way to host memory (R338-R340): the untranslated slot address and, once sent,
the host line it was sent to. -/
structure Rec where
  ctx : BitVec 12
  task : Nat
  words : List Word
  addr : Nat
  sentTo : Option Nat
  deriving DecidableEq, Repr

/-- A CXL.cache request waiting for its GO (R293): the requesting core, 384 for the GFE, or 385 + c for entry c of the watch array
(R297). -/
structure HostReq where
  line : Nat
  kind : Nat
  core : Nat
  off : Nat
  data : List Byte
  poison : Bool
  deriving DecidableEq, Repr

/-- A snoop of the host that waits (R294): its line, and 0 SnpInv, 1 SnpData or 2 SnpCur. -/
structure SnpWait where
  line : Nat
  kind : Nat
  deriving DecidableEq, Repr

/-- A request to a peer outstanding (R395); `dropped`: a PLD that an exception has displaced. -/
inductive DtKind where
  | pld (rd size : Nat) | dropped | pst | pcopyRead (src off len : Nat) | pcopyWrite (dst : Nat)
  | lookup (first : Nat) (rows : List Nat) | plookup (bag : Nat) (rows : List (Nat × Option (BitVec 32))) | update | ack (ch : Nat)
  deriving DecidableEq, Repr

structure DtReq where
  tag : Nat
  peer : Nat
  core : Nat
  task : Nat
  eng : Nat
  kind : DtKind
  deriving DecidableEq, Repr

/-- A bound dispatch channel's working registers (R398-R400). -/
structure Chan where
  bound : Bool
  ctx : BitVec 12
  src : Nat
  ring : Word
  ack : Word
  prod : BitVec 32
  done : Nat
  deriving DecidableEq, Repr

/-- A request of a peer to a table of this package that waits: its sender and tag, the descriptor captured for it (R401), and whether it
has waited for a veneer slot (R130). -/
structure Served where
  src : Nat
  tag : Nat
  addr : Nat
  words : List Word
  noted : Bool
  deriving DecidableEq, Repr

/-- An acknowledgement of a channel that waits for earlier writes (R400): its channel, its package and CA, and the word. -/
structure AckDue where
  ch : Nat
  pkg : Nat
  ca : Nat
  word : Word
  deriving DecidableEq, Repr

/-- What one Dovetail peer has last been heard to be (R395, R407). -/
structure Peer where
  lastBeat : Word
  inc : BitVec 8
  known : Bool
  deriving DecidableEq, Repr

/-- A strike line (R194, R217): its task, the cores armed on it, and the STRIKEs that wait with their RA. -/
structure StrikeLine where
  task : Option Nat
  armed : List Nat
  strikers : List (Nat × Nat)
  deriving DecidableEq, Repr

/-- A register access held behind an enable (R42). -/
structure HeldAcc where
  rq : Requester
  key : Nat
  size : Nat
  val : Word
  deriving DecidableEq, Repr

/-- An HDM decoder (R352); `failed`: its latest commit ended in Commit Error. -/
structure Decoder where
  committed : Bool
  base : Nat
  size : Nat
  dpa : Nat
  bi : Bool
  failed : Bool
  deriving DecidableEq, Repr

/-- An accepted or arriving microcode image (R373). -/
structure McImage where
  version : BitVec 32
  bytes : List Byte
  poisoned : Bool
  deriving DecidableEq, Repr

/-- A trace FIFO (R445): records of four words, oldest first, and the drops since it last had room. -/
structure Fifo where
  recs : List (List Word)
  drops : Nat
  first : Word
  last : Word
  deriving DecidableEq, Repr

/-- A tensor watch that fired and waits to copy (R448): the marking core and the operations it waits for. -/
structure WatchPend where
  core : Nat
  ctx : BitVec 12
  marks : List (Nat × Nat)
  recWord2 : Word
  deriving DecidableEq, Repr

/-- CXL.cache, CXL.mem, CXL.io, ATS, DOE, AER, JTAG and Dovetail messages that leave the complex. -/
inductive Msg where
  | cpl (data : List Byte) (poison : Bool)
  | unsupported
  | retryStatus
  | assertInta | deassertInta
  | msi (addr : Nat) (data : BitVec 16)
  | cxlReq (kind : Nat) (line off : Nat) (data : List Byte) (poison : Bool)
  | snpRsp (line : Nat) (hit : Bool) (data : Option (List Byte)) (poison : Bool)
  | biSnp (inv : Bool) (line : Nat)
  | memData (data : List Byte) (poison : Bool)
  | memCmp
  | atsReq (pasid : BitVec 20) (addr : Nat) (noWrite : Bool)
  | pageReq (pasid : BitVec 20) (page : Nat) (write : Bool) (prg : Nat)
  | atsInvCpl
  | flushRead
  | ioWrite (addr : Nat) (data : List Byte) (poison : Bool)
  | doe (bytes : List Byte)
  | errCor | errNonfatal | errFatal
  | jtag (v : BitVec 512)
  | dtSend (peer : Nat) (kind : Nat) (tag : Nat) (addr : Nat) (data : List Byte) (poison : Bool)
  | dtRefuse (peer : Nat) (tag : Nat)
  | heartbeat (peer : Nat) (pkg inc : BitVec 8)
  | beacon (peer : Nat) (stc : Word)
  deriving DecidableEq, Repr

/-- A chunk as it was before a jig region of `core` first wrote it (R227). -/
structure Undo where
  core : Nat
  chunk : Nat
  data : List Byte
  poison : Bool
  deriving DecidableEq, Repr

/-- A back-invalidation sent to the host for a line: BISnpInv or BISnpData, and whether its BIRsp has come (R299). -/
structure BiSnp where
  line : Nat
  inv : Bool
  answered : Bool
  /-- A walk under way has read the line on the strength of the answer (R306). -/
  spent : Bool
  deriving DecidableEq, Repr

/-- A GFE access that waits for the host's copy of its line, or for the line's requests in flight (R263, R299): a write, a step of a
descriptor's REFCNT (R109), a write of or an addition to a fence (R328), and the first read of a bound channel's PROD (R398). -/
inductive GfePost where
  | write (addr : Nat) (data : List Byte)
  | ref (addr : Nat) (up : Bool)
  | fenceSet (ctx : BitVec 12) (f : Nat) (v : Word)
  | fenceAdd (ctx : BitVec 12) (f : Nat) (v : Word)
  | bind (n : Nat)
  deriving DecidableEq, Repr

/-- A fault event raised by the command being performed: the block, source, the core it names, the address it
carries, and whether it was injected (R412, R425). -/
structure Raised where
  block : Blk
  src : Nat
  unit : Option Nat
  addr : Option Nat
  tested : Bool
  deriving DecidableEq, Repr

/-- R412: a reaction that the banked state holds: block number, code and unit. -/
structure HeldReact where
  block : Blk
  code : Nat
  unit : Option Nat
  deriving DecidableEq, Repr

/-- An outstanding flush read (R301): the task whose record it precedes, and the cores whose CXL.io writes it follows. -/
structure FlushRd where
  task : Option Nat
  cores : List Nat
  deriving DecidableEq, Repr

/-- The endpoint beside its registers (R347-R366). `ioSent`: the cores that have written by CXL.io since the last flush read was issued;
`flushWait`: the flush reads outstanding, oldest first; `flushed`: the tasks whose flush read has completed (R295, R301). -/
structure Endpoint where
  cfg : SMap (BitVec 32)
  decoders : SMap Decoder
  biIdSet : Bool
  doeBusy : Bool
  /-- The DOE mailboxes: the dwords written, and those of an answer that are still to be read (R350). -/
  doeIn : List (BitVec 32)
  doeOut : List (BitVec 32)
  doeErr : Bool
  spdm : Nat
  d3hot : Bool
  linkUp : Bool
  cfgReady : Bool
  flr : Bool
  held : List Msg
  msiArm : Bool
  msiPend : Bool
  inta : Bool
  priBlocked : Bool
  aerStatus : BitVec 32
  aerCorr : BitVec 32
  /-- The headers logged with uncorrectable errors, oldest first: the error's bit and the header (R365). -/
  headers : List (Nat × BitVec 128)
  ioSent : List Nat
  flushWait : List FlushRd
  flushed : List Nat
  deriving DecidableEq, Repr

/-- Power, clocks and rails beside their registers (R426-R435). `railLow`: STC since which a rail reads below its reset threshold, by
rail number; `watts`: the 1 µs values of the latest 10 ms, newest first; `tj`: the junction sensors that read above a limit, by cluster,
48 for one that a trip reports; `measAt`: STC of each temper monitor's latest measurement. -/
structure Power where
  railMv : SMap (BitVec 16)
  okSince : Option Word
  computeOn : Bool
  wakeq : SMap (List Nat)
  grants : SMap (List Word)
  hourAt : Word
  capOkSince : Option Word
  railLow : SMap (Option Word)
  watts : List Nat
  tj : SMap Nat
  measAt : SMap Word
  stackTemp : SMap Nat
  refreshRow : SMap Nat
  plls : Bool
  deriving DecidableEq, Repr

/-- The common root edge at which a triggered quench stops the clocks, as a CCLK count, the operating point at the trigger, and
whether it has changed since (R23, R451). -/
structure QuenchEdge where
  edge : Word
  half : Bool
  moved : Bool
  deriving DecidableEq, Repr

/-- The whole complex. -/
structure State where
  /-- The commands that wait, first in, first out. -/
  pending : List Instr
  /-- The model's own counter for free values (log entry 2). -/
  freeCtr : Nat
  stc : Word
  stcRun : Bool
  /-- CCLK cycles since power-on, and those each cluster was paused for (R163, R434): CYC is their difference. -/
  cclk : Word
  cclkLost : SMap Word
  qedge : Option QuenchEdge
  /-- Linear indices of the disabled cores: CORE_EN_MAP's zeros (R14, R20, R357). -/
  harvest : List Nat
  regs : SMap Word
  work : SMap Word
  held : SMap (List HeldAcc)
  mem : List Host.Cell
  poison : SMap Bool
  keys : SMap (Option (BitVec 512))
  keyPend : List (Nat × Option (BitVec 512))
  cores : SMap Core
  clusters : SMap Cluster
  txns : List Txn
  dir : SMap Nat
  filt : SMap Nat
  devc : SMap CLine
  hreqs : List HostReq
  bis : List BiSnp
  /-- Engine and GFE reads of host lines that ended without data: the bytes that a line reads as, used once; keyed by the line times 512
  plus the agent (R293). -/
  refused : SMap (List Byte)
  /-- Snoops of the host that wait for a request of the complex or for the clocks (R294, R452). -/
  snps : List SnpWait
  /-- GFE accesses that wait for a line, oldest first. -/
  posts : List GfePost
  undo : List Undo
  faults : List PageReq
  migs : List Mig
  nextPrg : Nat
  atsCpl : SMap RangeEnt
  inv : List (BitVec 12)
  /-- ATS Invalidation Requests whose completion is still to be sent (R318). -/
  atsInv : List (Option (BitVec 20))
  /-- Translation requests from before an invalidation, by context and page, whose answers are discarded (R316). -/
  atsStale : List (BitVec 12 × Nat)
  lookups : List Lookup
  copyBacks : List CopyBack
  slotRels : List SlotRel
  shares : List Share
  epochAt : Word
  tasks : List Task
  nextTask : Nat
  gctx : SMap Gctx
  /-- The context that the rotation comes to first (R334). -/
  turn : BitVec 12
  recs : List Rec
  lines : SMap StrikeLine
  ep : Endpoint
  mcImage : Option McImage
  dtOut : List DtReq
  nextTag : Nat
  chans : SMap Chan
  served : List Served
  ackDue : List AckDue
  peers : SMap Peer
  /-- The user formats that the cores held when basic service mode began, by core (R423). -/
  heldFmts : SMap (SMap Word)
  lastBeacon : Word
  /-- The manager has been heard since the Dovetail block was enabled (R405). -/
  beaconHeard : Bool
  /-- The correction of STC still to be applied, and those begun in the last millisecond (R404). -/
  slew : Int
  slews : List (Word × Nat)
  /-- The manager's time less STC, as far as it is known (R404, R405). -/
  offset : Option Int
  /-- A SLOT_CTL power command of a far-memory port whose CC is outstanding (R388). -/
  fmpCmd : SMap Bool
  /-- Chunks of far memory for which the expander returns poison, by CA div 64 (R367, R385). -/
  farBad : SMap Bool
  power : Power
  wstart : SMap Word
  inject : SMap Nat
  conds : SMap Bool
  heldReacts : List HeldReact
  /-- Fault events of the command being performed, oldest first; taken before it ends. -/
  raised : List Raised
  fifos : SMap Fifo
  watchPend : SMap (Option WatchPend)
  jtagAddr : Word
  jtagReg : BitVec 128
  jtagBypass : Bool
  /-- Messages that have left the complex, newest first. -/
  out : List Msg
  deriving DecidableEq, Repr

/-- An endpoint after power-on (R348-R350, R372). -/
def Endpoint.reset : Endpoint :=
  { cfg := [], decoders := [], biIdSet := false, doeBusy := false, doeIn := [], doeOut := [], doeErr := false, spdm := 0, d3hot := false, linkUp := true,
    cfgReady := false, flr := false, held := [], msiArm := false, msiPend := false, inta := false,
    priBlocked := false, aerStatus := 0, aerCorr := 0, headers := [], ioSent := [], flushWait := [], flushed := [] }

/-- Power after power-on: rails nominal, clocks not yet locked (R372, R428). -/
def Power.reset : Power :=
  { railMv := [], okSince := none, computeOn := false, wakeq := [], grants := [], hourAt := 0,
    capOkSince := none, railLow := [], watts := [], tj := [], measAt := [], stackTemp := [], refreshRow := [], plls := false }

/-- The complex right after power-on reset: PHASE INIT, every block disabled, every array empty (R48, R368,
R369, R372). -/
def State.reset : State :=
  { pending := [], freeCtr := 0, stc := 0, stcRun := false, cclk := 0, cclkLost := [], qedge := none, harvest := [], regs := [], work := [], held := [],
    mem := [], poison := [], keys := [], keyPend := [], cores := [], clusters := [], txns := [], dir := [],
    filt := [], devc := [], hreqs := [], bis := [], refused := [], snps := [], posts := [], undo := [], faults := [], migs := [], nextPrg := 0, atsCpl := [], inv := [], atsInv := [], atsStale := [], lookups := [],
    copyBacks := [], slotRels := [], shares := [], epochAt := 0, tasks := [], nextTask := 0, gctx := [], turn := 0,
    recs := [], lines := [], ep := Endpoint.reset, mcImage := none, dtOut := [], nextTag := 0,
    chans := [], served := [], ackDue := [], peers := [], heldFmts := [], lastBeacon := 0, beaconHeard := false, slew := 0, slews := [], offset := none, fmpCmd := [], farBad := [], power := Power.reset, wstart := [], inject := [],
    conds := [], heldReacts := [], raised := [], fifos := [], watchPend := [], jtagAddr := 0, jtagReg := 0,
    jtagBypass := false, out := [] }

end Sys2Proof.Machine
end

