-- ==== Sys2Proof/Machine/RegTab.lean ====
section
/-! DEFINITION. The register tables: where each block's window lies (R29, R49), which fields each register has, their
type codes (R17), stickiness (R48) and reset values. A register with no field here is no defined register (R30). -/

namespace Sys2Proof.Machine

/-- Type codes of R17 (STK is a flag of its own). -/
inductive FTy where
  | ro | rw | rwd | wo | sqc
  deriving DecidableEq, Repr

/-- One field of a register map: bits [hi:lo], type, sticky, reset. -/
structure FieldDef where
  hi : Nat
  lo : Nat
  ty : FTy
  stk : Bool
  rst : Nat
  deriving DecidableEq, Repr

def fRo (hi lo : Nat) (rst : Nat := 0) : FieldDef := ⟨hi, lo, .ro, false, rst⟩
def fRoS (hi lo : Nat) (rst : Nat := 0) : FieldDef := ⟨hi, lo, .ro, true, rst⟩
def fRw (hi lo : Nat) (rst : Nat := 0) : FieldDef := ⟨hi, lo, .rw, false, rst⟩
def fRwS (hi lo : Nat) (rst : Nat := 0) : FieldDef := ⟨hi, lo, .rw, true, rst⟩
def fRwd (hi lo : Nat) : FieldDef := ⟨hi, lo, .rwd, false, 0⟩
def fWo (hi lo : Nat) : FieldDef := ⟨hi, lo, .wo, false, 0⟩
def fSq (hi lo : Nat) : FieldDef := ⟨hi, lo, .sqc, false, 0⟩
def fSqS (hi lo : Nat) : FieldDef := ⟨hi, lo, .sqc, true, 0⟩

/-- Base of a block's window in the register key space: BAR0 offsets (R29), and context page c at
0x1000_0000 + c * 0x1_0000. -/
def blkBase : Blk → Nat
  | .gfe => 0
  | .ep => 0x100000
  | .pwr => 0x200000
  | .dbg => 0x300000
  | .fmp n => 0x400000 + n.val * 0x40000
  | .dt => 0x500000
  | .cluster n => 0x1000000 + n.val * 0x40000
  | .core n => 0x2000000 + n.val * 0x10000
  | .stack n => 0x3800000 + n.val * 0x10000
  | .drawer n => 0x3900000 + n.val * 0x10000
  | .ctx c => 0x10000000 + c.toNat * 0x10000

/-- Size of a block's window (R29, R49). -/
def blkSize : Blk → Nat
  | .gfe | .ep | .pwr | .dbg | .dt => 0x100000
  | .fmp _ | .cluster _ => 0x40000
  | .core _ | .stack _ | .drawer _ | .ctx _ => 0x10000

/-- Offset of the block header in its window (R36, R49). -/
def hdrOff : Blk → Nat
  | .ctx _ => 0x8000
  | _ => 0

/-- The block and window offset of a register key (R29, R30). -/
def locate (k : Nat) : Option (Blk × Nat) :=
  if k < 0x100000 then some (.gfe, k)
  else if k < 0x200000 then some (.ep, k - 0x100000)
  else if k < 0x300000 then some (.pwr, k - 0x200000)
  else if k < 0x400000 then some (.dbg, k - 0x300000)
  else if k < 0x500000 then some (.fmp (Fin.ofNat 4 ((k - 0x400000) / 0x40000)), (k - 0x400000) % 0x40000)
  else if k < 0x600000 then some (.dt, k - 0x500000)
  else if k < 0x1000000 then none
  else if k < 0x1C00000 then
    some (.cluster (Fin.ofNat 48 ((k - 0x1000000) / 0x40000)), (k - 0x1000000) % 0x40000)
  else if k < 0x2000000 then none
  else if k < 0x3800000 then
    some (.core (Fin.ofNat 384 ((k - 0x2000000) / 0x10000)), (k - 0x2000000) % 0x10000)
  else if k < 0x38C0000 then
    some (.stack (Fin.ofNat 12 ((k - 0x3800000) / 0x10000)), (k - 0x3800000) % 0x10000)
  else if k < 0x3900000 then none
  else if k < 0x3980000 then
    some (.drawer (Fin.ofNat 8 ((k - 0x3900000) / 0x10000)), (k - 0x3900000) % 0x10000)
  else if k < 0x10000000 then none
  else if k < 0x20000000 then
    some (.ctx (BitVec.ofNat 12 ((k - 0x10000000) / 0x10000)), (k - 0x10000000) % 0x10000)
  else none

/-- Does `o` lie in the array of `n` registers at `b` with stride `st`? Its index. -/
def arr (o b st n : Nat) : Option Nat :=
  if b ≤ o ∧ (o - b) % st = 0 ∧ (o - b) / st < n then some ((o - b) / st) else none

/-- Sequence and clear registers of a triple (R43). -/
def seqReg : List FieldDef := [fRo 15 0]
def clrReg : List FieldDef := [fWo 15 0]

/-- One source of a block (R411): base level, reset of FTHRESH, names a core, injectable, condition source. -/
structure SrcDef where
  base : Nat
  thr : Nat
  core : Bool
  inj : Bool
  cond : Bool
  deriving DecidableEq, Repr

/-- The sources of each block kind (R411). -/
def sources : Blk → List SrcDef
  | .core _ => [⟨1, 256, true, true, false⟩, ⟨2, 4, true, true, false⟩, ⟨1, 16, true, true, false⟩,
      ⟨1, 256, true, true, false⟩, ⟨1, 16, true, true, false⟩, ⟨3, 0, true, true, false⟩,
      ⟨3, 0, true, true, false⟩, ⟨3, 0, true, true, false⟩]
  | .cluster _ => [⟨1, 1024, false, true, false⟩, ⟨2, 8, false, true, false⟩, ⟨1, 1024, false, false, false⟩,
      ⟨3, 0, false, false, false⟩, ⟨3, 0, false, true, false⟩, ⟨1, 64, false, true, false⟩,
      ⟨3, 0, false, true, false⟩]
  | .drawer _ => [⟨1, 4096, true, true, false⟩, ⟨2, 4, true, true, false⟩, ⟨1, 1024, false, true, false⟩,
      ⟨4, 0, false, true, false⟩, ⟨1, 1024, false, false, false⟩, ⟨4, 0, false, false, true⟩]
  | .stack _ => [⟨1, 65535, false, true, false⟩, ⟨2, 64, false, true, false⟩, ⟨3, 0, false, false, false⟩,
      ⟨1, 8, false, false, false⟩, ⟨4, 0, false, false, true⟩, ⟨2, 16, false, true, false⟩,
      ⟨4, 0, false, true, false⟩]
  | .gfe => [⟨1, 1024, false, true, false⟩, ⟨2, 8, false, true, false⟩, ⟨1, 1024, false, false, false⟩,
      ⟨4, 0, false, false, true⟩, ⟨4, 0, false, true, false⟩, ⟨4, 0, false, true, false⟩,
      ⟨4, 0, false, true, false⟩]
  | .ep => [⟨1, 1024, false, false, false⟩, ⟨4, 0, false, false, true⟩, ⟨2, 16, false, false, false⟩]
  | .pwr => [⟨0, 0, false, false, false⟩, ⟨0, 0, false, false, false⟩, ⟨2, 0, false, false, true⟩,
      ⟨4, 0, false, false, true⟩, ⟨4, 0, false, false, false⟩]
  | .fmp _ => [⟨1, 1024, false, false, false⟩, ⟨2, 0, false, false, false⟩]
  | .dt => [⟨1, 1024, false, false, false⟩, ⟨0, 0, false, false, false⟩, ⟨3, 0, false, false, false⟩]
  | .dbg => [⟨1, 64, false, true, false⟩]
  | .ctx _ => []

/-- The common header (R36), at window offset `o` past its start. -/
def hdrFields : Nat → List FieldDef
  | 0x00 => [fRw 0 0]
  | 0x08 => [fSq 63 63, fSq 62 62, fSq 51 32, fSq 31 24, fRo 0 0 1]
  | 0x10 => seqReg
  | 0x18 => clrReg
  | _ => []

/-- The fault registers (R409) and FTOTALs (R442). -/
def faultFields (b : Blk) (o : Nat) : List FieldDef :=
  match o with
  | 0x40 => [fSqS 63 61, fSqS 60 60, fSqS 31 0]
  | 0x48 => [fRoS 15 0]
  | 0x50 => clrReg
  | 0x58 => [fRwS 18 16 1, fRwS 9 8 3, fRwS 7 6 1, fRwS 5 4, fRwS 3 2, fRwS 1 0]
  | 0x60 => [fSqS 63 63, fSqS 62 60, fSqS 59 58, fSqS 57 53, fSqS 52 44, fSqS 43 0]
  | 0x68 => [fSqS 63 63, fSqS 51 0]
  | 0x70 => [fWo 63 63, fRo 62 62, fWo 4 0]
  | _ =>
    if (arr o 0x800 8 32).isSome then [fRo 31 0]
    else if (arr o 0x900 8 32).isSome then [fRwS 31 0 1000000]
    else match arr o 0xA00 8 32 with
      | some n => [fRwS 15 0 (((sources b)[n]?.map SrcDef.thr).getD 0)]
      | none => if (arr o 0xB00 8 32).isSome then [fRoS 63 0] else []

/-- The identity and GFE block (R143, R302, R320, R358, R374, R415). -/
def gfeFields (o : Nat) : List FieldDef :=
  match o with
  | 0x100 => [fRo 9 0]
  | 0x108 => [fRw 9 0 0x3FF]
  | 0x110 => [fWo 0 0]
  | 0x2000 => [fRo 47 0 1]
  | 0x2008 => [fRo 47 0]
  | 0x2010 => [fRw 15 0 1000]
  | 0x2018 => [fRoS 7 0]
  | 0x2100 => [fRw 0 0]
  | 0x2200 => [fWo 63 63, fWo 11 0]
  | 0x2208 => [fRo 38 32, fRo 31 0]
  | 0x3000 => [fRo 9 8, fRo 3 0 1]
  | 0x3008 => [fWo 63 63, fWo 15 0]
  | 0x3010 => [fRo 15 0]
  | 0x3100 => [fRw 51 12]
  | 0x3108 => [fWo 63 63]
  | 0x3110 => [fRo 63 32, fRo 31 16, fRo 8 8, fRo 7 0]
  | 0x3120 => [fSq 2 2, fSq 1 1, fSq 0 0]
  | 0x3128 => seqReg
  | 0x3130 => clrReg
  | _ =>
    if (arr o 0x200 8 8).isSome || (arr o 0x1000 8 64).isSome then [fRo 63 0] else []

/-- The component registers of R350, from 0x0011_0000: the capability headers, CXL RAS, the four HDM decoders and the BI Decoder, at the
offsets of the CXL standard (log entry 222). -/
def componentFields (o : Nat) : List FieldDef :=
  if o = 0x11000 ∨ o = 0x11008 ∨ o = 0x11200 ∨ (arr o 0x11210 8 16).isSome then [fRo 63 0]
  else if o = 0x11100 then [fRw 63 32 0x1CFFF, fRo 31 0]
  else if o = 0x11108 then [fRo 63 32, fRw 31 0 0x1CFFF]
  else if o = 0x11110 then [fRo 63 32, fRw 31 0 0x7F]
  else if o = 0x11300 then [fRw 33 33, fRo 31 0]
  else []

/-- Endpoint extras and bank control (R242, R259, R364, R375). -/
def epFields (o : Nat) : List FieldDef :=
  match o with
  | 0x100 => [fSq 3 3, fSq 2 2, fSq 1 1, fSq 0 0]
  | 0x108 => seqReg
  | 0x110 => clrReg
  | 0x120 => [fRo 31 0]
  | 0x20000 => [fRwS 3 3, fRwS 2 2, fRwS 1 1, fRwS 0 0]
  | 0x20008 => [fWo 63 63, fWo 62 62]
  | 0x20010 => [fRoS 63 32, fRoS 3 0]
  | 0x20018 => [fRwS 51 12]
  | 0x20020 => [fRwS 63 0]
  | 0x20040 => [fSqS 2 2, fSqS 1 1, fSqS 0 0]
  | 0x20048 => [fRoS 15 0]
  | 0x20050 => clrReg
  | _ =>
    if (arr o 0x1000 16 16).isSome then [fRw 63 63, fRw 51 16]
    else if (arr o 0x1008 16 16).isSome then [fRw 63 54, fRw 53 53, fRw 52 52, fRw 32 16]
    else if (arr o 0x8000 8 4096).isSome then [fRw 26 16, fRw 9 0]
    else componentFields o

/-- The kind of temper monitor `m` (R435). -/
def monKind (m : Nat) : Nat := if m % 64 < 54 then 1 else if m % 64 < 58 then 2 else 3

/-- Power, clock and temper (R437). -/
def pwrFields (o : Nat) : List FieldDef :=
  match o with
  | 0x100 => [fRo 63 48, fRo 47 32, fRo 31 24, fRo 23 15]
  | 0x108 => [fRo 63 48, fRo 47 32, fRo 3 3, fRo 2 2, fRo 1 1, fRo 0 0]
  | 0x110 => [fRw 63 63, fRw 31 16 3000, fRw 15 0 2600]
  | 0x118 => [fRw 63 48 100, fRw 47 32 10, fRw 31 16 4096, fRw 0 0 1]
  | 0x120 | 0x128 => [fRo 63 32, fRo 15 8, fRw 3 0 8]
  | 0x140 => [fSq 5 5, fSq 4 4, fSq 3 3, fSq 2 2, fSq 1 1, fSq 0 0]
  | 0x148 => seqReg
  | 0x150 => clrReg
  | 0x200 => [fRwS 63 56 12, fRwS 55 48 105, fRo 47 40 120, fRw 31 0 3600]
  | 0x208 => [fRo 63 48 65535, fRo 47 41]
  | 0x210 => [fRw 31 0]
  | _ =>
    match arr o 0x400 8 128 with
    | some m => [fRo 63 48 65535, fRo 47 40 (monKind m), fRo 39 24]
    | none => []

/-- Which global counters exist (R441). -/
def isGlobalCounter (i : Nat) : Bool :=
  i < 12 || (16 ≤ i && i < 28) || (32 ≤ i && i < 44) || (48 ≤ i && i < 56) || (64 ≤ i && i < 68)
    || (72 ≤ i && i < 78) || (80 ≤ i && i < 122)

/-- Debug, counters and quench (R438, R441, R447-R449, R454, R455). -/
def dbgFields (o : Nat) : List FieldDef :=
  match o with
  | 0x100 => [fSq 3 3, fSq 2 2, fSq 1 1, fSq 0 0]
  | 0x108 => seqReg
  | 0x110 => clrReg
  | 0x200 => [fWo 63 63, fWo 62 62, fRwS 61 61, fRw 60 60, fRo 59 58, fRo 57 56]
  | 0x208 => [fRw 63 0]
  | 0x210 => [fRo 63 0]
  | 0x218 => [fRw 63 56, fRw 55 44, fRw 19 0]
  | 0x220 => [fRo 15 0]
  | 0x300 => [fRw 63 63, fRwd 62 62, fRwd 61 61, fRwd 47 32, fRwd 11 0]
  | 0x308 => [fRwd 63 59, fRwd 51 12]
  | 0x310 => [fRo 63 32, fRo 31 0]
  | 0x318 => [fRw 0 0]
  | 0x3400 => [fRoS 63 0]
  | _ =>
    if (arr o 0x400 32 8).isSome then
      [fRw 63 63, fRw 62 62, fRw 61 61, fRw 60 60, fRo 59 59, fRw 58 50, fRw 43 32, fRw 31 0]
    else if (arr o 0x408 32 8).isSome then [fRw 63 48, fRw 47 32, fRo 31 0]
    else if (arr o 0x410 32 8).isSome then [fRw 63 53, fRw 21 6]
    else if (arr o 0x418 32 8).isSome then [fRw 51 6]
    else if (arr o 0x3000 8 128).isSome then [fRoS 63 0]
    else match arr o 0x10000 8 122 with
      | some i => if isGlobalCounter i then [fRoS 63 0] else []
      | none => []

/-- Far-memory port n (R387). -/
def fmpFields (n o : Nat) : List FieldDef :=
  match o with
  | 0x100 => [fRo 31 19 n, fRo 8 8, fRo 7 7, fRo 6 6 1, fRo 5 5 1, fRo 4 4 1, fRo 3 3 1, fRo 2 2, fRo 1 1 1,
      fRo 0 0 1]
  | 0x108 => [fRw 12 12, fRwS 10 10 1, fRwS 9 8 3, fRwS 7 6 3, fRw 5 5, fRw 4 4, fRw 3 3, fRw 1 1, fRw 0 0]
  | 0x110 => [fRo 63 56, fRo 55 43, fRo 42 38, fRo 37 34, fRo 7 5, fRo 2 2, fRo 1 1, fRo 0 0]
  | 0x120 => [fSq 6 6, fSq 5 5, fSq 4 4, fSq 3 3, fSq 2 2, fSq 1 1, fSq 0 0]
  | 0x128 => seqReg
  | 0x130 => clrReg
  | _ => []

/-- Dovetail (R408). PRESENT follows the cut list's DOVETAIL_MASK 0xFFFF (R357). -/
def dtFields (o : Nat) : List FieldDef :=
  match o with
  | 0x100 => [fRoS 31 24, fRwd 9 9, fRwd 8 8, fRwd 7 0]
  | 0x120 => [fSq 5 5, fSq 4 4, fSq 3 3, fSq 2 2, fSq 1 1, fSq 0 0]
  | 0x128 => seqReg
  | 0x130 => clrReg
  | 0x140 => [fRo 63 63, fRo 62 62, fRo 31 0]
  | 0x150 => [fWo 63 63, fWo 62 8, fWo 7 0]
  | _ =>
    if (arr o 0x200 8 4).isSome then [fRo 63 0]
    else if (arr o 0x400 8 16).isSome then [fRo 63 32, fRo 1 1, fRo 0 0 1]
    else if (arr o 0x1000 8 256).isSome then [fRwd 15 0]
    else if (arr o 0x2000 16 16).isSome then [fRwd 63 63, fRwd 51 16]
    else if (arr o 0x2008 16 16).isSome then
      [fRwd 63 54, fRwd 53 53, fRwd 52 52, fRwd 51 51, fRwd 47 40, fRwd 39 32, fRwd 31 0]
    else if (arr o 0x3000 32 16).isSome then [fRw 63 63, fRw 19 12, fRw 11 0]
    else if (arr o 0x3008 32 16).isSome then [fRw 63 59, fRw 51 6]
    else if (arr o 0x3010 32 16).isSome then [fRw 63 63, fRw 59 52, fRw 51 3]
    else if (arr o 0x3018 32 16).isSome then [fRo 31 0]
    else []

/-- A cluster window (R254, R321, R383, R419, R440, R449). -/
def clusterFields (o : Nat) : List FieldDef :=
  match o with
  | 0x400 => [fRwd 3 0]
  | 0x500 => [fSq 3 3, fSq 2 2, fSq 1 1, fSq 0 0]
  | 0x508 => seqReg
  | 0x510 => clrReg
  | 0x600 => [fRo 63 48, fRo 16 16, fRo 15 0]
  | 0x608 => [fWo 63 63, fWo 8 8, fWo 7 0]
  | 0x610 => [fRo 9 9, fRwS 8 8, fRwS 7 0]
  | 0x2400 => [fRoS 63 0]
  | _ => if (arr o 0x1000 8 10).isSome || (arr o 0x2000 8 128).isSome then [fRoS 63 0] else []

/-- A core window (R55, R78, R144, R159, R225, R383, R440, R449). -/
def coreFields (o : Nat) : List FieldDef :=
  match o with
  | 0x200 | 0x220 | 0x240 | 0x260 =>
    [fSq 7 7, fSq 6 6, fSq 5 5, fSq 4 4, fSq 3 3, fSq 2 2, fSq 1 1, fSq 0 0]
  | 0x280 => [fSq 3 3, fSq 2 2, fSq 1 1, fSq 0 0]
  | 0x208 | 0x228 | 0x248 | 0x268 | 0x288 => seqReg
  | 0x210 | 0x230 | 0x250 | 0x270 | 0x290 => clrReg
  | 0x2C0 => [fRo 63 40, fRo 39 32, fRo 31 0]
  | 0x600 => [fRo 17 17, fRo 16 16, fRo 15 0]
  | 0x2400 => [fRoS 63 0]
  | _ =>
    if (arr o 0x400 8 32).isSome then [fRo 63 0]
    else if (arr o 0x1000 8 20).isSome || (arr o 0x2000 8 128).isSome then [fRoS 63 0]
    else []

/-- A context page (R322). -/
def ctxFields (o : Nat) : List FieldDef :=
  match o with
  | 0x0000 => [fRo 31 0]
  | 0x0008 => [fRo 63 0]
  | 0x0010 => [fRo 63 63, fRo 62 62, fRo 61 61, fRo 60 59, fRo 58 57, fRo 56 45, fRo 44 33, fRo 32 19]
  | 0x8020 => [fSq 4 4, fSq 3 3, fSq 2 2, fSq 1 1, fSq 0 0]
  | 0x8028 => seqReg
  | 0x8030 => clrReg
  | 0x8040 => [fRwd 56 6]
  | 0x8048 => [fRwd 63 59, fRwd 56 12]
  | 0x8050 => [fRwd 63 59, fRwd 56 12]
  | 0x8058 => [fRwd 63 52, fRwd 51 3]
  | 0x8060 => [fRwd 51 12]
  | 0x8068 => [fRoS 31 0]
  | 0x8070 => [fRw 31 0]
  | 0x8078 => [fWo 63 63]
  | 0x8080 => [fWo 63 0]
  | 0x8088 => [fWo 63 63, fWo 11 0]
  | 0x8100 => [fRwd 63 63, fRwd 51 3]
  | 0x8108 => [fRwd 19 0]
  | 0x8110 => [fRwd 63 56, fRwd 51 20]
  | 0x8440 => [fWo 63 63, fWo 62 62, fWo 61 10, fWo 9 0]
  | _ =>
    if (arr o 0x1000 8 13).isSome then [fRo 63 0]
    else if (arr o 0x8200 16 16).isSome then [fRwd 63 63, fRwd 51 12]
    else if (arr o 0x8208 16 16).isSome then
      [fRwd 63 54, fRwd 53 53, fRwd 52 52, fRwd 51 51, fRwd 50 50, fRwd 49 49, fRwd 48 48, fRwd 39 0]
    else if (arr o 0x8400 8 8).isSome then [fWo 63 0]
    else []

/-- The fields of the register at offset `o` of a block's window; [] for no defined register. -/
def regFields (b : Blk) (o : Nat) : List FieldDef :=
  match (if o < hdrOff b then [] else hdrFields (o - hdrOff b)) with
  | f :: fs => f :: fs
  | [] =>
    match b with
    | .ctx _ => ctxFields o
    | _ =>
      match faultFields b o with
      | f :: fs => f :: fs
      | [] =>
        match b with
        | .gfe => gfeFields o
        | .ep => epFields o
        | .pwr => pwrFields o
        | .dbg => dbgFields o
        | .fmp n => fmpFields n.val o
        | .dt => dtFields o
        | .cluster _ => clusterFields o
        | .core _ => coreFields o
        | _ => []

/-- The reset value that a list of fields gives; reserved bits are 0 (R37 leaves them open). -/
def fieldsReset (fs : List FieldDef) : Word := fs.foldl (fun w f => w ||| place f.hi f.lo f.rst) 0

/-- What a register that nothing has written holds. -/
def regDefault (k : Nat) : Word :=
  match locate k with
  | some (b, o) => fieldsReset (regFields b o)
  | none => 0

/-- The mask of the fields for which `p` holds. -/
def fieldsMask (fs : List FieldDef) (p : FieldDef → Bool) : Word :=
  fs.foldl (fun w f => if p f then w ||| fieldMask f.hi f.lo else w) 0

/-- The mask of a register's defined bits. -/
def definedMask (fs : List FieldDef) : Word := fieldsMask fs fun _ => true

/-- Status and clear registers of the triples (R43): for each clear register its status and sequence
offsets and the registers that clear with it. -/
def tripleOfClear (b : Blk) (o : Nat) : Option (List Nat × Nat) :=
  if o = hdrOff b + 0x18 then some ([hdrOff b + 0x08], hdrOff b + 0x10)
  else match b with
    | .ctx _ => if o = 0x8030 then some ([0x8020], 0x8028) else none
    | _ =>
      if o = 0x50 then some ([0x40, 0x60, 0x68], 0x48)
      else match b, o with
        | .gfe, 0x3130 => some ([0x3120], 0x3128)
        | .ep, 0x110 => some ([0x100], 0x108)
        | .ep, 0x20050 => some ([0x20040], 0x20048)
        | .pwr, 0x150 => some ([0x140], 0x148)
        | .dbg, 0x110 => some ([0x100], 0x108)
        | .fmp _, 0x130 => some ([0x120], 0x128)
        | .dt, 0x130 => some ([0x120], 0x128)
        | .cluster _, 0x510 => some ([0x500], 0x508)
        | .core _, 0x210 => some ([0x200], 0x208)
        | .core _, 0x230 => some ([0x220], 0x228)
        | .core _, 0x250 => some ([0x240], 0x248)
        | .core _, 0x270 => some ([0x260], 0x268)
        | .core _, 0x290 => some ([0x280], 0x288)
        | _, _ => none

end Sys2Proof.Machine
end

