-- ==== Sys2Proof/Machine/Ops.lean ====
section
/-! DEFINITION. The named operations over the state that every family uses: unit paths (R6-R8), registers and
their working copies, event triples (R43-R46), counters (R439-R443), event rings (R449), trace FIFOs (R445),
messages out, free values, memory bytes and poison marks, cores and their tasks. -/

namespace Sys2Proof.Machine

abbrev Out := Host.Outcome State Fault Refusal

/-! Unit paths (R6, R7). -/

def clusterOf (core : Nat) : Nat := core / 8
def regionOfCluster (cl : Nat) : Nat := cl / 6
def regionOf (core : Nat) : Nat := core / 48
def dieOf (core : Nat) : Nat := core / 192

/-- R20, R21: harvesting disables cores only. -/
def coreEnabled (s : State) (core : Nat) : Bool := decide (core < Config.coreCount) && !s.harvest.contains core

def cores8 (cl : Nat) : List Nat := (List.range 8).map fun i => cl * 8 + i

def bCore (c : Nat) : Blk := .core (Fin.ofNat 384 c)
def bCluster (c : Nat) : Blk := .cluster (Fin.ofNat 48 c)
def bStack (c : Nat) : Blk := .stack (Fin.ofNat 12 c)
def bDrawer (c : Nat) : Blk := .drawer (Fin.ofNat 8 c)
def bFmp (c : Nat) : Blk := .fmp (Fin.ofNat 4 c)

/-! Registers: the stored word of a register, and its fields. -/

def rk (b : Blk) (o : Nat) : Nat := blkBase b + o

def reg (s : State) (b : Blk) (o : Nat) : Word := mapGet regDefault s.regs (rk b o)

def setReg (s : State) (b : Blk) (o : Nat) (w : Word) : State :=
  { s with regs := mapSet regDefault s.regs (rk b o) w }

def rf (s : State) (b : Blk) (o hi lo : Nat) : Nat := fld (reg s b o) hi lo

def rbit (s : State) (b : Blk) (o i : Nat) : Bool := flag (reg s b o) i

def setRf (s : State) (b : Blk) (o hi lo v : Nat) : State := setReg s b o (setFld (reg s b o) hi lo v)

/-- A register's working copy, taken at the latest enable (R41); 0 before any. -/
def wk (s : State) (b : Blk) (o : Nat) : Word := mapGet (fun _ => 0) s.work (rk b o)

def wkf (s : State) (b : Blk) (o hi lo : Nat) : Nat := fld (wk s b o) hi lo

def setWk (s : State) (b : Blk) (o : Nat) (w : Word) : State :=
  { s with work := mapSet (fun _ => 0) s.work (rk b o) w }

def blkEn (s : State) (b : Blk) : Bool := rbit s b (hdrOff b) 0

/-- R44: the events `mask` of the triple at `st` occur in one KCLK cycle: their bits are set and the sequence
register at `sq` adds 1. -/
def raiseAt (s : State) (b : Blk) (st sq : Nat) (mask : Word) : State :=
  let s := setReg s b st (reg s b st ||| mask)
  setRf s b sq 15 0 (rf s b sq 15 0 + 1)

/-- An event of a triple whose sequence register follows its status register. -/
def raise (s : State) (b : Blk) (st bit : Nat) : State := raiseAt s b st (st + 8) (place bit bit 1)

/-- A counter adds `n`, modulo 2^64 (R439). -/
def addReg (s : State) (b : Blk) (o n : Nat) : State := setReg s b o (reg s b o + BitVec.ofNat 64 n)

def coreCtr (s : State) (core i n : Nat) : State := addReg s (bCore core) (0x1000 + 8 * i) n
def clusterCtr (s : State) (cl i n : Nat) : State := addReg s (bCluster cl) (0x1000 + 8 * i) n
def globalCtr (s : State) (i n : Nat) : State := addReg s .dbg (0x10000 + 8 * i) n
def ctxCtr (s : State) (c : BitVec 12) (i n : Nat) : State := addReg s (.ctx c) (0x1000 + 8 * i) n

/-! The phase of the complex (R374), quench (R450) and the root (R426). -/

def phase (s : State) : Nat := rf s .gfe 0x3000 9 8
def setPhase (s : State) (p : Nat) : State := setRf s .gfe 0x3000 9 8 p

/-- The working clocks are stopped from the stop edge to the restart edge (R451, R453). -/
def stopped (s : State) : Bool := decide (2 ≤ rf s .dbg 0x200 59 58)

/-- The compute dies run: PHASE RUN and the clocks running. -/
def running (s : State) : Bool := decide (phase s = 2) && !stopped s

/-- R426: the root is at HALF while any of the three requests is active. -/
def rootHalf (s : State) : Bool := decide (rf s .pwr 0x108 2 0 ≠ 0)

/-! Messages that leave the complex, and free values. -/

def send (s : State) (m : Msg) : State := { s with out := m :: s.out }

def sendAll (s : State) (ms : List Msg) : State := ms.foldl send s

/-- A fresh free value (log entry 2). -/
def freeNat (s : State) : Nat × State := (Config.freeValue s.freeCtr, { s with freeCtr := s.freeCtr + 1 })

/-! Event rings (R449): entry n mod 64 and the position register. -/

def ringAt (s : State) (b : Blk) (base pos code ctx : Nat) (detail : Word) : State :=
  if stopped s || rbit s .dbg 0x318 0 then s else
    let n := (reg s b pos).toNat
    let e := base + 16 * (n % 64)
    let s := setReg s b e (place 63 56 code ||| place 55 44 ctx ||| place 43 0 s.stc.toNat)
    let s := setReg s b (e + 8) detail
    setReg s b pos (reg s b pos + 1)

def coreRing (s : State) (core code ctx : Nat) (detail : Word) : State :=
  ringAt s (bCore core) 0x2000 0x2400 code ctx detail

def clusterRing (s : State) (cl code ctx : Nat) (detail : Word) : State :=
  ringAt s (bCluster cl) 0x2000 0x2400 code ctx detail

def gfeRing (s : State) (code ctx : Nat) (detail : Word) : State := ringAt s .dbg 0x3000 0x3400 code ctx detail

/-! Trace FIFOs (R444-R446): key = linear cluster index, 48 for the GFE. -/

def fifoEmpty : Fifo := { recs := [], drops := 0, first := 0, last := 0 }

def fifo (s : State) (k : Nat) : Fifo := mapGet (fun _ => fifoEmpty) s.fifos k
def setFifo (s : State) (k : Nat) (f : Fifo) : State :=
  { s with fifos := mapSet (fun _ => fifoEmpty) s.fifos k f }

/-- Tracing is on: EN is 1 and LOG2 is 10-30 (R447). -/
def traceOn (s : State) : Bool :=
  rbit s .dbg 0x300 63 && decide (10 ≤ wkf s .dbg 0x308 63 59) && decide (wkf s .dbg 0x308 63 59 ≤ 30)

/-- A trace record of TYPE `ty` for context `ctx` passes the filters (R444). -/
def tracePass (s : State) (ty : Nat) (ctx : Nat) : Bool :=
  traceOn s && (wkf s .dbg 0x300 47 32).testBit ty
    && (decide (wkf s .dbg 0x300 61 61 = 1) || decide (wkf s .dbg 0x300 11 0 = ctx))

/-- R445: a record enters a FIFO of 64, or is dropped. -/
def fifoPush (s : State) (k : Nat) (r : List Word) : State :=
  let f := fifo s k
  if f.recs.length < 64 then setFifo s k { f with recs := f.recs ++ [r] }
  else setFifo s k { f with drops := f.drops + 1, first := if f.drops = 0 then s.stc else f.first, last := s.stc }

/-- R444, R446: a core's trace record; none carries TVER (log entry 210). -/
def traceRec (s : State) (core ty ctx : Nat) (w2 w3 : Word) : State :=
  if tracePass s ty ctx then
    fifoPush s (clusterOf core) [place 63 60 ty ||| place 59 51 core ||| place 50 39 ctx, s.stc, w2, w3]
  else s

/-! Memory bytes by canonical CA (R236, R237), in one canonical form (log entry 3). -/

/-- What an address that nothing has written reads as. -/
def memDefault (_ : Nat) : Byte := 0

/-- One byte of the complex's memories. -/
def memByte (s : State) (a : Nat) : Byte := mapGet memDefault s.mem a

def setByte (s : State) (a : Nat) (v : Byte) : State := { s with mem := mapSet memDefault s.mem a v }

def memBytes (s : State) (a : Nat) : Nat → List Byte
  | 0 => []
  | n + 1 => memByte s a :: memBytes s (a + 1) n

def setBytes (s : State) (a : Nat) : List Byte → State
  | [] => s
  | b :: t => setBytes (setByte s a b) (a + 1) t

/-- The memory's canonical form. -/
def Memory.wf (m : List Host.Cell) : Bool := mapWf memDefault m

/-- The poison mark of the 64-byte chunk number `k` (CA div 64): R245, R254, R255, R257. -/
def chunkPoison (s : State) (k : Nat) : Bool := mapGet (fun _ => false) s.poison k

def setChunkPoison (s : State) (k : Nat) (p : Bool) : State :=
  { s with poison := mapSet (fun _ => false) s.poison k p }

/-! Cores, clusters and tasks. -/

/-- A core after power-on: C2, every engine OFF, caches invalid (R430, log entry 12). -/
def coreInit : Core :=
  { power := .c2, waking := false, wakeAt := 0, engOn := 0, engReq := 0, engAt := [], idleAt := 0, freeAt := 0, prog := none, bundle := [], dcache := [], stamp := 0, wb := none,
    fills := [], sbuf := [], ncLine := none, accepted := [], icache := [], rb := [], parkedSeq := false }

def clusterInit : Cluster := { ccache := [], rb2 := [], trk := [], excursion := false, pause := 0, pauseFrame := none }

/-- The state of a task at a core at task start (R162, R163); s1-s8 are loaded by the CSQ. -/
def progInit (task : Nat) (ctx : BitVec 12) (taskId : BitVec 32) (entry : BitVec 52) : Prog :=
  { task, ctx, taskId, s := [], p := [], c := [], pc := entry, inexc := false, injig := false, armed := false,
    engf := false, covf := false, sigdrop := false, deadrd := false, lost := false, numsum := 0, poisonCnt := 0,
    missCnt := 0, ehnd := 0, epc := 0, ecode := 0, einfo := 0, eaddr := 0, jid := 0, jcode := 0, jorig := 0,
    slips := 0, mark := 0, lockMask := 0, fmt := [], cb := [], curves := [], rules := [], banks := [],
    streams := [], queues := [], issued := [], faultedEng := [], pend := [], jig := none, blocked := false,
    granted := false, reply := none, yielding := false, waitTo := none, leaving := none }

def core (s : State) (c : Nat) : Core := mapGet (fun _ => coreInit) s.cores c
def setCore (s : State) (c : Nat) (k : Core) : State :=
  { s with cores := mapSet (fun _ => coreInit) s.cores c k }

def cluster (s : State) (c : Nat) : Cluster := mapGet (fun _ => clusterInit) s.clusters c
def setCluster (s : State) (c : Nat) (k : Cluster) : State :=
  { s with clusters := mapSet (fun _ => clusterInit) s.clusters c k }

def prog? (s : State) (c : Nat) : Option Prog := (core s c).prog

def setProg (s : State) (c : Nat) (p : Prog) : State := setCore s c { core s c with prog := some p }

/-- The far-memory accesses of a core's sequencer that were accepted are over (R390, R391). -/
def dropAccepted (s : State) (c : Nat) : State := setCore s c { core s c with accepted := [] }

/-- Change the task that runs on a core, if one does. -/
def updProg (s : State) (c : Nat) (f : Prog → Prog) : State :=
  match prog? s c with
  | some p => setProg s c (f p)
  | none => s

/-- The context of the task that runs on a core. -/
def ctxOf (s : State) (c : Nat) : BitVec 12 := ((prog? s c).map Prog.ctx).getD 0

/-- Scalar registers: s0 reads 0 and discards writes (R161). -/
def sreg (p : Prog) (n : BitVec 6) : Word := if n = 0 then 0 else mapGet (fun _ => 0) p.s n.toNat

def setSreg (p : Prog) (n : BitVec 6) (w : Word) : Prog :=
  if n = 0 then p else { p with s := mapSet (fun _ => 0) p.s n.toNat w }

/-- Predicates: p0 reads true and discards writes (R161). -/
def preg (p : Prog) (n : BitVec 4) : Bool := if n = 0 then true else mapGet (fun _ => false) p.p n.toNat

def setPreg (p : Prog) (n : BitVec 4) (v : Bool) : Prog :=
  if n = 0 then p else { p with p := mapSet (fun _ => false) p.p n.toNat v }

/-- Credit counters (R161). -/
def credit (p : Prog) (n : Nat) : BitVec 32 := mapGet (fun _ => 0) p.c n
def setCredit (p : Prog) (n : Nat) (v : BitVec 32) : Prog := { p with c := mapSet (fun _ => 0) p.c n v }

/-- A credit counter adds `n`; a sum past 2^32 - 1 saturates and sets COVF (R191). -/
def addCredit (p : Prog) (i n : Nat) : Prog :=
  let t := (credit p i).toNat + n
  if t < 2 ^ 32 then setCredit p i (BitVec.ofNat 32 t)
  else { setCredit p i (BitVec.ofNat 32 (2 ^ 32 - 1)) with covf := true }

/-- The queue of engine `e` (R183). -/
def queue (p : Prog) (e : Nat) : List EngOp := mapGet (fun _ => []) p.queues e
def setQueue (p : Prog) (e : Nat) (q : List EngOp) : Prog := { p with queues := mapSet (fun _ => []) p.queues e q }

/-- The GFE's state of a context before its first enable. -/
def gctxInit : Gctx :=
  { watch := false, seen := false, header := 0, prod := 0, call := none, capd := none, waitOn := none, recheck := false, nrec := 0, after := [], lastProgress := 0, stalled := false,
    enabled := false, orphan := false, front := none, slot := none }

def gctx (s : State) (c : BitVec 12) : Gctx := mapGet (fun _ => gctxInit) s.gctx c.toNat
def setGctx (s : State) (c : BitVec 12) (g : Gctx) : State :=
  { s with gctx := mapSet (fun _ => gctxInit) s.gctx c.toNat g }

/-- Tasks by number. -/
def taskOf (s : State) (id : Nat) : Option Task := s.tasks.find? fun t => t.id == id
def updTask (s : State) (id : Nat) (f : Task → Task) : State :=
  { s with tasks := s.tasks.map fun t => if t.id = id then f t else t }

def linesInit : StrikeLine := { task := none, armed := [], strikers := [] }
def strikeLine (s : State) (l : Nat) : StrikeLine := mapGet (fun _ => linesInit) s.lines l
def setStrikeLine (s : State) (l : Nat) (x : StrikeLine) : State :=
  { s with lines := mapSet (fun _ => linesInit) s.lines l x }

/-- A task's own count of the kinds its record reports, saturating words (R105, R116). -/
def satAdd64 (w : Word) (n : Nat) : Word := BitVec.ofNat 64 (min (w.toNat + n) (2 ^ 64 - 1))

/-- A context's progress count adds 1 (R344); STALL returns to 0 (R345). -/
def progress (s : State) (c : BitVec 12) : State :=
  let s := setGctx (addReg s (.ctx c) 0x08 1) c { gctx s c with lastProgress := s.stc, stalled := false }
  setRf (setRf s (.ctx c) 0x10 60 59 0) (.ctx c) 0x10 56 33 0

/-- The cluster of a core is in a thermal clock pause (R434). -/
def clockPaused (s : State) (c : Nat) : Bool := decide ((cluster s (clusterOf c)).pause ≠ 0)

/-- A cluster that holds nothing; its junction and clock are what they are (R434). -/
def clusterEmpty (k : Cluster) : Cluster := { clusterInit with excursion := k.excursion, pause := k.pause, pauseFrame := k.pauseFrame }

/-- Fence state of a core or its cluster (R419). -/
def coreFenced (s : State) (c : Nat) : Bool :=
  rbit s (bCluster (clusterOf c)) 0x610 (c % 8) || rbit s (bCluster (clusterOf c)) 0x610 8

def clusterFenced (s : State) (cl : Nat) : Bool := rbit s (bCluster cl) 0x610 8

/-- Staleness of a core or its cluster (R381, R383). -/
def coreStale (s : State) (c : Nat) : Bool := rbit s (bCore c) 0x600 16
def clusterStale (s : State) (cl : Nat) : Bool := rbit s (bCluster cl) 0x600 16

end Sys2Proof.Machine
end

