-- ==== Sys2Proof/Machine/HostLink.lean ====
section
/-! DEFINITION. The host link as every family sees it: configuration fields (R348-R351), upstream requests under
Bus Master Enable and D3hot (R362, R363), AER signals (R365, R416), and the interrupt condition (R358-R360, R415). -/

namespace Sys2Proof.Machine

/-- Reset values of configuration dwords (R348-R351, R356); offsets within a capability and values the manual
leaves to the standard follow the standard (log entry 6). -/
def cfgDefault (o : Nat) : BitVec 32 :=
  match o with
  | 0x00 => 0x9A901F6A
  | 0x04 => 0x00100000
  | 0x08 => 0x12000000 ||| (Config.stepping.setWidth 8).setWidth 32
  | 0x10 => 0x00000004
  | 0x18 => 0x00000004
  | 0x20 => 0x0000000C
  | 0x2C => 0x74091F6A
  | 0x34 => 0x40
  | 0x3C => 0x0100
  | 0x40 => 0x00035001
  | 0x44 => 0x8
  | 0x50 => 0x01807005
  | 0x70 => 0x00020010
  | 0x74 => 0x10008022
  | 0x78 => 0x2810
  | 0x7C => 0x00000106
  | 0x94 => 0x30016
  | 0x100 => 0x15020001
  | 0x108 => 0x00400000
  | 0x10C => 0x00462030
  | 0x114 => 0x0000E000
  | 0x118 => 0x000002A0
  | 0x150 => 0x1A010023
  | 0x154 => 0x03C31E98
  | 0x158 => 0x00170000
  | 0x15C => 0x00000002
  | 0x164 => 0x40020000
  | 0x168 => 0x00000090
  | 0x16C => 0x00000001
  | 0x1A0 => 0x1C010023
  | 0x1A4 => 0x01401E98
  | 0x1A8 => 0x00000008
  | 0x1AC => 0x00110100
  | 0x1C0 => 0x1E01002E
  | 0x1E0 => 0x1F01000F
  | 0x1E4 => 0x00000020
  | 0x1F0 => 0x2001001B
  | 0x1F4 => 0x00001400
  | 0x200 => 0x22010013
  | 0x204 => 0x81000000
  | 0x208 => 2048
  | 0x220 => 0x4001000B
  | 0x224 => 0x01810A01
  | 0x228 => Config.cutOff.setWidth 32
  | 0x22C => 256
  | 0x230 => Config.romVer
  | _ => 0

/-- A configuration dword of the function. -/
def cfgWord (s : State) (o : Nat) : BitVec 32 := mapGet cfgDefault s.ep.cfg o

def setCfg (s : State) (o : Nat) (w : BitVec 32) : State :=
  { s with ep := { s.ep with cfg := mapSet cfgDefault s.ep.cfg o w } }

def cfgBit (s : State) (o i : Nat) : Bool := (cfgWord s o).getLsbD i

def memSpaceEn (s : State) : Bool := cfgBit s 0x04 1
def busMaster (s : State) : Bool := cfgBit s 0x04 2
def intDisable (s : State) : Bool := cfgBit s 0x04 10
def msiEn (s : State) : Bool := cfgBit s 0x50 16
def msiMasked (s : State) : Bool := cfgBit s 0x60 0
def atsEn (s : State) : Bool := cfgBit s 0x1E4 31
def pasidEn (s : State) : Bool := cfgBit s 0x1F4 16
def priEn (s : State) : Bool := cfgBit s 0x204 0

/-- Host ranges are translated (R351). -/
def atsOn (s : State) : Bool := atsEn s && pasidEn s

/-- The address of a translation request for a host page: aligned to the Smallest Translation Unit that the host has set (R308, R350). -/
def atsAddr (s : State) (page : Nat) : Nat :=
  let n := 2 ^ ((cfgWord s 0x1E4).toNat / 2 ^ 16 % 32)
  page / n * n * 4096
def ctoDisable (s : State) : Bool := cfgBit s 0x98 4

/-- The host can reach the function's windows (R354, R361, R363). -/
def claims (s : State) : Bool := memSpaceEn s && !s.ep.d3hot && s.ep.linkUp && !s.ep.flr

/-- A request with poisoned data leaves the function: Master Data Parity Error, where Parity Error Response is set (R348; log entry 6). -/
def noteSent (s : State) (m : Msg) : State :=
  match m with
  | .ioWrite _ _ true => if cfgBit s 0x04 6 then setCfg s 0x04 (cfgWord s 0x04 ||| 0x1000000) else s
  | _ => s

/-- R362, R363: an upstream request is sent, or held in order while Bus Master Enable is 0 or in D3hot. -/
def upstream (s : State) (m : Msg) : State :=
  if busMaster s && !s.ep.d3hot && s.ep.held.isEmpty then send (noteSent s m) m
  else raise { s with ep := { s.ep with held := s.ep.held ++ [m] } } .ep 0x100 2

/-- R362: the held requests are issued in their original order. -/
def releaseHeld (s : State) : State :=
  if busMaster s && !s.ep.d3hot then sendAll (s.ep.held.foldl noteSent { s with ep := { s.ep with held := [] } }) s.ep.held else s

/-- COH_CTL.IOFLUSH (R295). -/
def flushOn (s : State) : Bool := rbit s .gfe 0x2100 0

/-- A flush read follows every CXL.io write so far (R301). -/
def issueFlush (s : State) (task : Option Nat) : State :=
  upstream { s with ep := { s.ep with ioSent := [], flushWait := s.ep.flushWait ++ [{ task, cores := s.ep.ioSent }] } } .flushRead

/-- Core `c` has written by CXL.io and no flush read has been issued since. -/
def flushDue (s : State) (c : Nat) : Bool := flushOn s && s.ep.ioSent.contains c

/-- A flush read that follows CXL.io writes of core `c` has not completed. -/
def flushOpen (s : State) (c : Nat) : Bool := flushOn s && s.ep.flushWait.any fun f => f.cores.contains c

/-- A CXL.io write has not been transmitted yet. -/
def ioHeld (s : State) : Bool := s.ep.held.any fun m => match m with
  | .ioWrite _ _ _ => true
  | _ => false

/-- Host writes of core `c` are performed at PACKAGE, but for a flush read (R295). -/
def hostWritesDone (s : State) (c : Nat) : Bool :=
  !(s.hreqs.any fun h => h.core = c && (h.kind = 3 || h.kind = 4)) && !(s.bis.any fun b => b.inv && !b.answered) && !ioHeld s

/-- The oldest outstanding flush read has been transmitted. -/
def flushSent (s : State) : Bool :=
  decide ((s.ep.held.filter fun m => match m with
    | .flushRead => true
    | _ => false).length < s.ep.flushWait.length)

/-- A CXL.cache request of the complex (R293) that waits for its GO. Kinds: 0 RdShared, 1 RdOwn, 2 RdCurr,
3 ItoMWr, 4 WOWrInv, 5 DirtyEvict, 6 CleanEvictNoData, 7 RdShared that arms a watch entry. Evictions are not held. -/
def cxlRequest (s : State) (agent kind line off : Nat) (data : List Byte) (poison : Bool) : State :=
  let m := Msg.cxlReq kind line off data poison
  let s := { s with hreqs := s.hreqs ++ [{ line, kind, core := agent, off, data, poison }] }
  let s := globalCtr s 75 data.length
  if kind = 5 ∨ kind = 6 then send s m else upstream s m

/-! AER (R365). What the manual leaves to the standard follows it (log entry 6). -/

def orCfg (s : State) (o : Nat) (bits : BitVec 32) : State := setCfg s o (cfgWord s o ||| bits)

/-- Device Status and, for a correctable error, its AER status bit. -/
def markCorr (s : State) (bit : Nat) : State :=
  orCfg { s with ep := { s.ep with aerCorr := s.ep.aerCorr ||| BitVec.ofNat 32 (2 ^ bit) } } 0x78 0x10000

/-- An Unsupported Request is reported only with its own enable (Device Control). -/
def urEnabled (s : State) (bit : Nat) : Bool := decide (bit ≠ 20) || cfgBit s 0x78 3

/-- A correctable error: its status bit is set, and ERR_COR sent where unmasked and enabled (R365, R416). -/
def signalCorr (s : State) (bit : Nat) : State :=
  let s := markCorr s bit
  if !cfgBit s 0x114 bit && cfgBit s 0x78 0 then send s .errCor else s

/-- First Error Pointer names an uncorrectable error. -/
def firstError (s : State) (bit : Nat) : State := setCfg s 0x118 ((cfgWord s 0x118 &&& 0xFFFFFFE0) ||| BitVec.ofNat 32 (bit % 32))

/-- Errors whose header is logged (R365): Poisoned TLP Received, Completion Timeout, Completer Abort, Unexpected Completion, Malformed
TLP, ECRC Error and Unsupported Request. -/
def logsHeader (bit : Nat) : Bool := [12, 14, 15, 16, 18, 19, 20].contains bit

/-- Headers that the log has room for: four while Multiple Header Recording is enabled, else one. -/
def headerRoom (s : State) : Nat := if cfgBit s 0x118 10 then 4 else 1

/-- The header of the TLP at an unmasked error is logged; its words are no operand of a row and so a free value. With no room left,
Header Log Overflow is signalled (R365). -/
def logHeader (s : State) (bit : Nat) : State :=
  if cfgBit s 0x108 bit || !logsHeader bit then s
  else if s.ep.headers.length < headerRoom s then
    let f := freeNat s
    { f.2 with ep := { f.2.ep with headers := f.2.ep.headers ++ [(bit, BitVec.ofNat 128 f.1)] } }
  else signalCorr s 15

/-- The AER status bit of an uncorrectable error, its header, and First Error Pointer where it names no error still set. -/
def markUncorr (s : State) (bit : Nat) : State :=
  let first := !cfgBit s 0x108 bit && !s.ep.aerStatus.getLsbD ((cfgWord s 0x118).toNat % 32)
  let s := logHeader (if first then firstError s bit else s) bit
  { s with ep := { s.ep with aerStatus := s.ep.aerStatus ||| BitVec.ofNat 32 (2 ^ bit) } }

/-- Uncorrectable status bits are cleared by a write of `m`. Where the error that First Error Pointer names is among them, the next header
becomes the first, and the errors of the headers left stay set. -/
def clearUncorr (s : State) (m : BitVec 32) : State :=
  let left := match s.ep.headers with
    | (b, h) :: t => if m.getLsbD b then t else (b, h) :: t
    | [] => []
  let st := left.foldl (fun (w : BitVec 32) e => w ||| BitVec.ofNat 32 (2 ^ e.1)) (s.ep.aerStatus &&& ~~~m)
  let s := { s with ep := { s.ep with aerStatus := st, headers := left } }
  match left with
  | e :: _ => firstError s e.1
  | [] => s

/-- An uncorrectable error: its status bit is set, and its message sent where unmasked and enabled (R365, R416). -/
def signalUncorr (s : State) (bit : Nat) : State :=
  let fatal := cfgBit s 0x10C bit
  let s := orCfg (markUncorr s bit) 0x78 (if fatal then 0x40000 else 0x20000)
  if cfgBit s 0x108 bit then s
  else
    let serr := cfgBit s 0x04 8
    let s := if serr then orCfg s 0x04 0x40000000 else s
    if serr || (cfgBit s 0x78 (if fatal then 2 else 1) && urEnabled s bit) then send s (if fatal then .errFatal else .errNonfatal) else s

/-- An error that the standard treats as advisory while its severity is Non-fatal (R365). -/
def signalAdvisory (s : State) (bit : Nat) : State :=
  if cfgBit s 0x10C bit then signalUncorr s bit
  else
    let s := markCorr s 13
    if cfgBit s 0x114 13 then s
    else
      let s := markUncorr s bit
      if !cfgBit s 0x108 bit && cfgBit s 0x78 0 && urEnabled s bit then send s .errCor else s

/-- A request that the function does not take is Unsupported (R354, R365); the FLR of R361 logs nothing. -/
def logUnsupported (s : State) (posted : Bool) : State :=
  if !s.ep.linkUp || s.ep.flr then s
  else
    let s := orCfg s 0x78 0x80000
    if posted then signalUncorr s 20 else signalAdvisory s 20

/-- A read that completes with Unsupported Request (R243, R354). -/
def refuseRead (s : State) : State := send (logUnsupported s false) .unsupported

/-- A poisoned TLP arrives (R367). -/
def poisonedTlp (s : State) : State := signalAdvisory (orCfg s 0x04 0x80000000) 12


def headerLine (s : State) (c : BitVec 12) : Nat := wkf s (.ctx c) 0x8040 56 6

/-! The interrupt condition. -/

/-- Block numbers (R415). -/
def blkNo : Blk → Nat
  | .gfe => 0
  | .ep => 1
  | .pwr => 2
  | .dbg => 3
  | .fmp n => 4 + n.val
  | .dt => 8
  | .cluster n => 16 + n.val
  | .core n => 64 + n.val
  | .stack n => 448 + n.val
  | .drawer n => 460 + n.val
  | .ctx c => 512 + c.toNat

/-- R415: a block has a pending fault interrupt. -/
def faultPending (s : State) (b : Blk) : Bool :=
  decide (rf s b 0x40 31 0 ≠ 0) && decide (rf s b 0x58 18 16 ≤ rf s b 0x40 63 61)

/-- Some stored register at offset `o` of a block satisfies `p` (a register not stored holds its reset value). -/
def anyReg (s : State) (p : Blk → Nat → Bool) : Bool :=
  s.regs.any fun e => match locate e.1 with
    | some (b, o) => p b o
    | none => false

def isCtxBlk : Blk → Bool
  | .ctx _ => true
  | _ => false

/-- R387: a far-memory port asks for an interrupt. -/
def fmpIrq (s : State) (n : Nat) : Bool :=
  let e := (reg s (bFmp n) 0x120).toNat
  let c := (reg s (bFmp n) 0x108).toNat
  c.testBit 5 &&
    (e.testBit 6 || e.testBit 2 || (e.testBit 5 && c.testBit 12) || (e.testBit 4 && c.testBit 4)
      || (e.testBit 3 && c.testBit 3) || (e.testBit 1 && c.testBit 1) || (e.testBit 0 && c.testBit 0))

/-- INT_SUMMARY (R358), bit 0 first. -/
def intSummary (s : State) : List Bool :=
  [ anyReg s fun b o => isCtxBlk b && decide (o = 0x8020) && decide (rf s b 0x8020 4 0 ≠ 0),
    anyReg s fun b o => match b with
      | .cluster _ => decide (o = 0x500) && decide (rf s b 0x500 3 0 ≠ 0)
      | _ => false,
    anyReg s fun b o => !isCtxBlk b && decide (o = 0x40) && faultPending s b,
    decide (rf s .ep 0x20040 2 0 ≠ 0),
    decide (rf s .pwr 0x140 5 0 ≠ 0),
    decide (rf s .dbg 0x100 3 0 ≠ 0),
    (List.range 4).any (fmpIrq s),
    decide (rf s .dt 0x120 5 0 ≠ 0),
    decide (rf s .gfe 0x3120 2 0 ≠ 0),
    decide (rf s .ep 0x100 3 0 ≠ 0) ]

def boolsNat : List Bool → Nat
  | [] => 0
  | b :: t => boolNat b + 2 * boolsNat t

/-- A configuration dword as a read returns it: status that the complex keeps elsewhere is filled in (R350, R359, R365). -/
def cfgRead (s : State) (o : Nat) : BitVec 32 :=
  let w := cfgWord s o
  match o with
  | 0x04 => w ||| (if decide (boolsNat (intSummary s) &&& (1023 - rf s .gfe 0x108 9 0) ≠ 0) then 0x80000 else 0)
  | 0x64 => if s.ep.msiPend then 1 else 0
  | 0x104 => s.ep.aerStatus
  | 0x110 => s.ep.aerCorr
  | 0x11C | 0x120 | 0x124 | 0x128 =>
    (s.ep.headers.head?.map fun e => BitVec.ofNat 32 (e.2.toNat >>> (32 * ((o - 0x11C) / 4)))).getD 0
  | 0x1CC => BitVec.ofNat 32 (boolNat s.ep.doeBusy + 4 * boolNat s.ep.doeErr + 2 ^ 31 * boolNat (!s.ep.doeOut.isEmpty))
  | 0x1D4 => s.ep.doeOut.headD 0
  | 0x204 => (w &&& 0xFEFFFFFF) ||| (if priEn s || s.faults.any fun f => f.prg.isSome then 0 else 0x01000000)
  | _ => w

/-- IRQ (R358). -/
def irq (s : State) : Bool := decide (boolsNat (intSummary s) &&& (1023 - rf s .gfe 0x108 9 0) ≠ 0)

/-- The level of the INTA virtual wire (R359). -/
def intaLevel (s : State) : Bool := !msiEn s && irq s && !intDisable s && !s.ep.flr

def setInta (s : State) (v : Bool) : State := { s with ep := { s.ep with inta := v } }

/-- R359: the INTA virtual wire follows its level, with a message for each change while the link is up. -/
def settleInta (s : State) : State :=
  if intaLevel s = s.ep.inta then s
  else
    let s' := setInta s (intaLevel s)
    if s.ep.linkUp then send s' (if intaLevel s then .assertInta else .deassertInta) else s'

/-- R360: an armed MSI is sent while IRQ is 1, or becomes pending while its vector is masked. -/
def settleMsi (s : State) : State :=
  if msiEn s && s.ep.msiArm && irq s then
    let s' := { s with ep := { s.ep with msiArm := false } }
    if msiMasked s then { s' with ep := { s'.ep with msiPend := true } }
    else upstream s' (.msi ((cfgWord s 0x54).toNat + 2 ^ 32 * (cfgWord s 0x58).toNat) ((cfgWord s 0x5C).setWidth 16))
  else s

/-- The interrupts after a command. -/
def settleIrq (s : State) : State := settleMsi (settleInta s)

end Sys2Proof.Machine
end

