-- ==== Sys2Proof/Machine/Address.lean ====
section
/-! DEFINITION. The CA map (R236), aliased views (R237), holes (R21, R238, R386, R418), and segment checks (R239-R241). -/

namespace Sys2Proof.Machine

/-- What a canonical CA names (R236): unit and offset in it. -/
inductive CaKind where
  | stack (n off : Nat)
  | drawer (c off : Nat)
  | spad (c off : Nat)
  | win (cl off : Nat)
  | mirror (off : Nat)
  | far (port off : Nat)
  | nowhere
  deriving DecidableEq, Repr

def stackSize : Nat := 0xC00000000
def spadSize : Nat := 0x400000
def drawerSize : Nat := 0x8000000
def spadBase (c : Nat) : Nat := 0x11000000000 + c * spadSize
def drawerBase (c : Nat) : Nat := 0x10000000000 + c * drawerSize
def winBase (cl : Nat) : Nat := 0x11800000000 + cl * 0x1000000
def farBase (p : Nat) : Nat := 0x80000000000 + p * 0x10000000000

/-- R237: the stack-contiguous CA of an offset in a view over `S` stacks from stack `first`. -/
def viewCa (first S o : Nat) : Nat :=
  let g := o / 4096
  (first + g % S) * stackSize + g / S * 4096 + o % 4096

/-- The CA that identifies the byte everywhere: an interleaved view's CA becomes stack-contiguous (R237). -/
def canon (a : Nat) : Nat :=
  if 0x40000000000 ≤ a ∧ a < 0x40000000000 + 12 * stackSize then viewCa 0 12 (a - 0x40000000000)
  else if 0x50000000000 ≤ a ∧ a < 0x50000000000 + 6 * stackSize then viewCa 0 6 (a - 0x50000000000)
  else if 0x60000000000 ≤ a ∧ a < 0x60000000000 + 6 * stackSize then viewCa 6 6 (a - 0x60000000000)
  else a

/-- R236, of a canonical CA. -/
def caKind (a : Nat) : CaKind :=
  if a < 12 * stackSize then .stack (a / stackSize) (a % stackSize)
  else if 0x10000000000 ≤ a ∧ a < 0x10000000000 + 384 * drawerSize then
    .drawer ((a - 0x10000000000) / drawerSize) (a % drawerSize)
  else if 0x11000000000 ≤ a ∧ a < 0x11000000000 + 384 * spadSize then
    .spad ((a - 0x11000000000) / spadSize) (a % spadSize)
  else if 0x11800000000 ≤ a ∧ a < 0x11800000000 + 48 * 0x1000000 then
    .win ((a - 0x11800000000) / 0x1000000) (a % 0x1000000)
  else if 0x30000000000 ≤ a ∧ a < 0x30000000000 + 0x4000000 then .mirror (a - 0x30000000000)
  else if 0x80000000000 ≤ a ∧ a < 0xC0000000000 then
    .far ((a - 0x80000000000) / 0x10000000000) (a % 0x10000000000)
  else .nowhere

/-- CC_WIN.WAYS in force: values above 8 act as 8 (R254). -/
def winWays (s : State) (cl : Nat) : Nat := min 8 (wkf s (bCluster cl) 0x400 3 0)

/-- R386: far-memory accesses are served only in ONLINE with the port block enabled. -/
def farOnline (s : State) (p : Nat) : Bool :=
  decide (rf s (bFmp p) 0x110 7 5 = 5) && blkEn s (bFmp p)

/-- R385: the mapped capacity in bytes. -/
def farCap (s : State) (p : Nat) : Nat := rf s (bFmp p) 0x110 55 43 * 0x10000000

/-- A far-memory port that drains still completes the accesses it accepted (R390). -/
def portDrains (s : State) (a : Nat) : Bool :=
  match caKind a with
  | .far p o => decide (rf s (bFmp p) 0x110 7 5 = 6) && decide (o < farCap s p)
  | _ => false

/-- R21, R238, R385, R386, R418: does a canonical CA fall on a hole? -/
def isHole (s : State) (a : Nat) : Bool :=
  match caKind a with
  | .stack _ _ => false
  | .drawer c _ => !coreEnabled s c
  | .spad c _ => !coreEnabled s c || clusterFenced s (clusterOf c)
  | .win cl o => decide (winWays s cl * 0x100000 ≤ o) || clusterFenced s cl
  | .mirror _ => false
  | .far p o => !farOnline s p || decide (farCap s p ≤ o)
  | .nowhere => true

/-- R258: encryption applies to stack, drawer and far-memory data. -/
def encApplies (a : Nat) : Bool :=
  match caKind a with
  | .stack _ _ | .drawer _ _ | .far _ _ => true
  | _ => false

/-- R247, R281: lines that a data cache allocates. -/
def dcacheable (a : Nat) : Bool := encApplies a

/-- R253: lines that a cluster cache may hold. -/
def ccacheable (a : Nat) : Bool :=
  match caKind a with
  | .stack _ _ | .far _ _ => true
  | _ => false

/-- The permissions an access needs (R239). -/
inductive Perm where
  | r | w | x | a
  deriving DecidableEq, Repr

/-- The permission's bit in SEGn_ATTR (R240). -/
def Perm.bit : Perm → Nat
  | .r => 51
  | .w => 50
  | .x => 49
  | .a => 48

def keyAt (s : State) (slot : Nat) : Option (BitVec 512) := mapGet (fun _ => none) s.keys slot

/-- Key slot `k` lies in context `c`'s range (R259). -/
def keyInRange (s : State) (c : BitVec 12) (k : Nat) : Bool :=
  let w := reg s .ep (0x8000 + 8 * c.toNat)
  decide (fld w 9 0 ≤ k) && decide (k < fld w 9 0 + fld w 26 16)

/-- R241: is segment `n` of a context taken as valid at the enable? -/
def segTaken (s : State) (c : BitVec 12) (n : Nat) : Bool :=
  let b := reg s (.ctx c) (0x8200 + 16 * n)
  let a := reg s (.ctx c) (0x8208 + 16 * n)
  flag b 63 && !flag b 51
    && decide (fld b 51 12 * 4096 + fld a 39 0 * 4096 ≤ 2 ^ 51)
    && (!flag a 48 || (flag a 51 && flag a 50))
    && (!flag a 53 || keyInRange s c (fld a 63 54))

/-- The attributes of the segment that governs a CA: the lowest-numbered valid one that contains it (R239). The
working copy's VALID holds the outcome of R241. -/
def govSeg (s : State) (c : BitVec 12) (a : Nat) : Option (Nat × Nat × Word) :=
  (List.range 16).findSome? fun n =>
    let b := wk s (.ctx c) (0x8200 + 16 * n)
    let t := wk s (.ctx c) (0x8208 + 16 * n)
    let lo := fld b 51 12 * 4096
    let len := fld t 39 0 * 4096
    if flag b 63 && decide (lo ≤ a) && decide (a < lo + len) then some (lo, len, t) else none

/-- R239, R261, R238: the check of an access of `n` bytes at `a` with CA bit 51 at 0. The SUB code of the failure,
or the segment's attributes. A hole is not a failed check; see `isHole`. -/
def segCheck (s : State) (c : BitVec 12) (a n : Nat) (p : Perm) : Except Nat Word :=
  match govSeg s c a with
  | none => .error 1
  | some (lo, len, t) =>
    if lo + len < a + n then .error 2
    else if !flag t p.bit then .error 3
    else if flag t 53 && encApplies (canon a) && (keyAt s (fld t 63 54)).isNone then .error 3
    else .ok t

/-- The target of a checked local access (R239). -/
def segTarget (a : Nat) (t : Word) : Target :=
  { host := false, io := false, addr := canon a, cc := flag t 52,
    key := if flag t 53 && encApplies (canon a) then some (fld t 63 54) else none }

end Sys2Proof.Machine
end

