-- ==== Sys2Proof/Machine/Crypt.lean ====
section
/-! DEFINITION. AES-256 in XTS mode over one 64-byte chunk (R258), written from the definitions of the two
standards the manual names; bytes as numbers below 256. -/

namespace Sys2Proof.Machine

/-- Multiplication by x in GF(2^8) modulo 0x11B. -/
def xtime (a : Nat) : Nat := (if a < 128 then a * 2 else (a * 2) ^^^ 0x11B) % 256

def gmul (a b : Nat) : Nat :=
  ((List.range 8).foldl (fun (r : Nat × Nat) i => (if b.testBit i then r.1 ^^^ r.2 else r.1, xtime r.2)) (0, a)).1

/-- The inverse in GF(2^8), 0 for 0. -/
def ginv (a : Nat) : Nat :=
  ((List.range 7).foldl (fun (r : Nat × Nat) _ => let p := gmul r.2 r.2; (gmul r.1 p, p)) (1, a)).1

def rotl8 (a n : Nat) : Nat := (a <<< n ||| a >>> (8 - n)) % 256

def sbox (a : Nat) : Nat :=
  let b := ginv a
  b ^^^ rotl8 b 1 ^^^ rotl8 b 2 ^^^ rotl8 b 3 ^^^ rotl8 b 4 ^^^ 0x63

def invSbox (a : Nat) : Nat := ginv (rotl8 a 1 ^^^ rotl8 a 3 ^^^ rotl8 a 6 ^^^ 0x05)

def xorL (a b : List Nat) : List Nat := List.zipWith (· ^^^ ·) a b

/-- The 60 words of the AES-256 key schedule, latest first. -/
def keySched (key : List Nat) : List (List Nat) :=
  let w0 := (List.range 8).map fun i => (key.drop (4 * i)).take 4
  ((List.range 52).foldl (fun (st : List (List Nat) × Nat) j =>
    let ws := st.1
    let prev := ws.headD []
    let old := ws.getD 7 []
    let t :=
      if j % 8 = 0 then
        match prev.map sbox with
        | [a, b, c, d] => [b ^^^ st.2, c, d, a]
        | l => l
      else if j % 8 = 4 then prev.map sbox else prev
    (xorL old t :: ws, if j % 8 = 0 then xtime st.2 else st.2)) (w0.reverse, 1)).1

/-- The fifteen round keys, first first. -/
def roundKeys (key : List Nat) : List (List Nat) :=
  let ws := (keySched key).reverse
  (List.range 15).map fun r => ((ws.drop (4 * r)).take 4).flatten

/-- ShiftRows and its inverse on 16 column-major bytes. -/
def shiftRows (s : List Nat) : List Nat := (List.range 16).map fun i => s.getD ((i + 4 * (i % 4)) % 16) 0
def invShiftRows (s : List Nat) : List Nat := (List.range 16).map fun i => s.getD ((i + 12 * (i % 4)) % 16) 0

def mixWith (m0 m1 m2 m3 : Nat) (s : List Nat) : List Nat :=
  (List.range 16).map fun i =>
    let c := 4 * (i / 4)
    let r := i % 4
    let g := fun k => s.getD (c + (r + k) % 4) 0
    gmul m0 (g 0) ^^^ gmul m1 (g 1) ^^^ gmul m2 (g 2) ^^^ gmul m3 (g 3)

def aesEnc (rks : List (List Nat)) (blk : List Nat) : List Nat :=
  let s := xorL blk (rks.headD [])
  let s := ((rks.drop 1).take 13).foldl (fun s k => xorL (mixWith 2 3 1 1 (shiftRows (s.map sbox))) k) s
  xorL (shiftRows (s.map sbox)) (rks.getD 14 [])

def aesDec (rks : List (List Nat)) (blk : List Nat) : List Nat :=
  let s := xorL blk (rks.getD 14 [])
  let s := ((rks.drop 1).take 13).reverse.foldl
    (fun s k => mixWith 14 11 13 9 (xorL ((invShiftRows s).map invSbox) k)) s
  xorL ((invShiftRows s).map invSbox) (rks.headD [])

/-- Multiplication of a tweak by the primitive element, little-endian. -/
def tweakNext (t : List Nat) : List Nat :=
  let v := t.foldr (fun b a => b + 256 * a) 0
  let w := v * 2
  let w := if w < 2 ^ 128 then w else (w % 2 ^ 128) ^^^ 0x87
  (List.range 16).map fun i => (w >>> (8 * i)) % 256

/-- Four 16-byte blocks of a chunk under XTS, block by block. -/
def xtsBlocks (f : List Nat → List Nat) : Nat → List Nat → List Nat → List Nat
  | 0, _, _ => []
  | n + 1, t, d => xorL (f (xorL (d.take 16) t)) t ++ xtsBlocks f n (tweakNext t) (d.drop 16)

/-- One 64-byte data unit; `unit` is the chunk's CA divided by 64, `key` K1 then K2 (R258). -/
def xtsChunk (enc : Bool) (key : BitVec 512) (unit : Nat) (d : List Byte) : List Byte :=
  let kb := (toBytes 64 key.toNat).map BitVec.toNat
  let k1 := roundKeys (kb.take 32)
  let k2 := roundKeys (kb.drop 32)
  let t := aesEnc k2 ((toBytes 16 unit).map BitVec.toNat)
  (xtsBlocks (if enc then aesEnc k1 else aesDec k1) 4 t (d.map BitVec.toNat)).map (BitVec.ofNat 8)

end Sys2Proof.Machine
end

