-- ==== Sys2Proof/Machine/Mem.lean ====
section
/-! DEFINITION. Chunks at their location: check bits and injection (R245, R255-R257, R425), poison marks, inline
encryption (R258), slips of a region access (R220-R222), and the bytes counted (R440, R441, R443). -/

namespace Sys2Proof.Machine

/-- Why an operation stops before its end: it waits for something outstanding, its agent parks on a translation
(R312), it faults (R200), or its region aborts (R201). -/
inductive Stop where
  | wait
  | park
  | exc (ecode sub ea detail : Nat)
  | abort (code : Nat)
  deriving DecidableEq, Repr

/-- Operations over the state that may stop. The state at the stop is kept. -/
abbrev M := EStateM Stop State

/-- Who accesses: the core, its cluster, the context whose counters count it, whether the access belongs to a jig region of the
core, and the region's participants. -/
structure Who where
  core : Option Nat
  cl : Option Nat
  ctx : Option (BitVec 12)
  jig : Bool
  parts : List Nat
  deriving DecidableEq, Repr

/-- An agent in no cluster (GFE, peers, endpoint). -/
def whoNone : Who := { core := none, cl := none, ctx := none, jig := false, parts := [] }

def whoCtx (c : BitVec 12) : Who := { whoNone with ctx := some c }

def whoCore (s : State) (c : Nat) : Who :=
  { core := some c, cl := some (clusterOf c), ctx := (prog? s c).map Prog.ctx,
    jig := ((prog? s c).map Prog.injig).getD false, parts := (((prog? s c).bind Prog.jig).map Jig.parts).getD [] }

/-- A fault event raised by the command being performed (R412). -/
def raiseFault (s : State) (b : Blk) (src : Nat) (unit addr : Option Nat) : State :=
  { s with raised := s.raised ++ [{ block := b, src, unit, addr, tested := false }] }

/-- The cores that still take part in the region of core `c`: a sealed participant takes no part in slips (R202, R223). -/
def regionCores (s : State) (c : Nat) : List Nat :=
  match prog? s c with
  | none => []
  | some p => match p.jig with
    | none => []
    | some j => j.parts.filter fun k => match prog? s k with
        | some q => q.injig && decide (q.jid = p.jid) && q.jig.isSome
        | none => false

/-- A cause that begins at `now` with its stall, joined to a slip in progress, whose stall lasts until every cause has ended; the cause
that ended last is kept, the later one of two that end together (R222; log entry 20). -/
def joinSlip (old : Option Slip) (cause : Nat) (now : Word) (stall : Nat) : Slip :=
  let e := now + BitVec.ofNat 64 stall
  match old with
  | none => { cause := BitVec.ofNat 8 cause, start := now, stop := e }
  | some x => if x.stop.toNat ≤ e.toNat then { x with cause := BitVec.ofNat 8 cause, stop := e } else x

/-- CCLK cycles that a slip stalls. -/
def Slip.stall (x : Slip) : Nat := (x.stop - x.start).toNat

/-- The slip in progress at a participant. -/
def slipOf (s : State) (k : Nat) : Option Slip := ((prog? s k).bind Prog.jig).bind Jig.slip

/-- A slip in progress at a participant ends: SLIPS, JIG_RUN and the counters (R222, R225, R440, R443), and its stall leaves the count
of region cycles (R202). -/
def slipEnd (s : State) (k : Nat) : State :=
  match slipOf s k with
  | none => s
  | some x =>
    let s := setRf s (bCore k) 0x2C0 63 40 (min (2 ^ 24 - 1) (rf s (bCore k) 0x2C0 63 40 + x.stall))
    let s := setRf s (bCore k) 0x2C0 39 32 x.cause.toNat
    let s := ctxCtr (coreCtr (coreCtr s k 14 x.stall) k 15 1) (ctxOf s k) 9 1
    updProg s k fun q => { q with slips := BitVec.ofNat 32 (min (2 ^ 32 - 1) (q.slips.toNat + 1)),
                                  jig := q.jig.map fun j => { j with slip := none, cycle := j.cycle - x.stall } }

/-- Every cause of the slip in progress at core `k` has ended by now; `past`: before now. -/
def slipOver (s : State) (k : Nat) (past : Bool) : Bool :=
  match slipOf s k with
  | some x => decide (x.stall + boolNat past ≤ (s.cclk - x.start).toNat)
  | none => false

/-- A slip cause stalls every participant of the region of core `c` (R220, R221). A slip whose causes have all ended before is another
(R222). -/
def slipStart (s : State) (c cause stall : Nat) : State :=
  (regionCores s c).foldl (fun s k =>
    updProg (if slipOver s k true then slipEnd s k else s) k fun p =>
      { p with jig := p.jig.map fun j => { j with slip := some (joinSlip j.slip cause s.cclk stall) } }) s

/-- A slip cause of a region access by `w`. -/
def slipFor (s : State) (w : Who) (cause stall : Nat) : State :=
  if w.jig then match w.core with
    | some c => slipStart s c cause stall
    | none => s
  else s

/-- R425: an armed injection on the block's source fires at the source's next check. -/
def fireInjection (s : State) (b : Blk) (src : Nat) (unit addr : Option Nat) : Bool × State :=
  if mapGet (fun _ => 0) s.inject (blkNo b) = src + 1 then
    let s := { s with inject := mapSet (fun _ => 0) s.inject (blkNo b) 0 }
    let s := setRf s b 0x70 62 62 0
    (true, { s with raised := s.raised ++ [{ block := b, src, unit, addr, tested := true }] })
  else (false, s)

/-- Poisoned chunks of a stack's map (R257). -/
def stackPoisonCount (s : State) (n : Nat) : Nat :=
  (s.poison.filter fun e => decide (n * (stackSize / 64) ≤ e.1) && decide (e.1 < (n + 1) * (stackSize / 64))).length

def poisonMapRoom (s : State) (n : Nat) : Bool := decide (stackPoisonCount s n < 65536)

/-- Mark a chunk poisoned after an uncorrectable read (R245, R255, R257). -/
def markUncorrectable (s : State) (k : Nat) : State :=
  match caKind (k * 64) with
  | .stack n _ =>
    if chunkPoison s k || poisonMapRoom s n then setChunkPoison s k true
    else raiseFault s (bStack n) 2 none none
  | _ => setChunkPoison s k true

/-- The block and unit that check a chunk, with the sources of its corrected and double-bit errors, and the slip
cause and stall of a correction. -/
def chunkChecker (k : Nat) : Option (Blk × Option Nat × Nat × Nat) :=
  match caKind (k * 64) with
  | .spad c _ => some (bCore c, some c, 1, 6)
  | .drawer c _ => some (bDrawer (regionOf c), some c, 2, 10)
  | .stack n _ => some (bStack n, none, 0, 0)
  | .win cl _ => some (bCluster cl, none, 9, 8)
  | _ => none

/-- The check of a chunk as it is read at its location: armed injections fire here. True: double-bit error, or poison that an expander
returns (R385). -/
def chunkCheck (s : State) (w : Who) (k : Nat) : Bool × State :=
  match chunkChecker k with
  | none => if mapGet (fun _ => false) s.farBad k then (true, setChunkPoison s k true) else (false, s)
  | some (b, unit, cause, stall) =>
    let r := fireInjection s b 0 unit (some (k * 64))
    let s := if r.1 && cause ≠ 0 then slipFor r.2 w cause stall else r.2
    let r1 := match caKind (k * 64) with
      | .spad _ _ => (fireInjection s b 2 unit (some (k * 64))).2
      | _ => s
    let r2 := fireInjection r1 b 1 unit (some (k * 64))
    if r2.1 then (true, markUncorrectable r2.2 k) else (false, r2.2)

/-- What the check bits of a word show when it is read by a scrubber or a refresh: a corrected word keeps its
data; a double-bit error marks the chunk (R245, R255). -/
def eccEvent (s : State) (b : Blk) (c ca : Nat) (found : EccFound) : State :=
  match found with
  | .clean => s
  | .single => raiseFault s b 0 (some c) (some ca)
  | .double => raiseFault (markUncorrectable s (ca / 64)) b 1 (some c) (some ca)

def refreshRowOf (s : State) (c bank : Nat) : Nat := mapGet (fun _ => 0) s.power.refreshRow (c * 16 + bank)

/-- One row of a drawer bank is refreshed: the next of its 16,384 rows; `word` is the row's word where an error
was found (R209, R255). -/
def refreshRow (s : State) (core : CoreIx) (bank : Nat) (found : EccFound) (word : Nat) : State :=
  let c := core.val
  let r := refreshRowOf s c bank
  let ca := drawerBase c + (r * 16 + bank) * 512 + 8 * (word % 64)
  let s := { s with power := { s.power with refreshRow := mapSet (fun _ => 0) s.power.refreshRow (c * 16 + bank) ((r + 1) % 16384) } }
  eccEvent (chunkCheck s whoNone (ca / 64)).2 (bDrawer (regionOf c)) c ca found

/-- The bytes of a chunk at its location as an access with key slot `key` sees them (R258). -/
def chunkPlain (s : State) (k : Nat) (key : Option Nat) : List Byte :=
  let raw := memBytes s (k * 64) 64
  match key.bind (keyAt s) with
  | some kv => xtsChunk false kv k raw
  | none => raw

/-- The die that a location is attached to (R27). -/
def dieOfCa (k : Nat) : Nat :=
  match caKind (k * 64) with
  | .stack n _ => n / 6
  | .drawer c _ | .spad c _ => dieOf c
  | .win cl _ => cl / 24
  | .far _ _ => 1
  | _ => 0

/-- Data between a cluster and a location of the other die crosses the seam once (R27, R441). -/
def countSeam (s : State) (w : Who) (k n : Nat) (write : Bool) : State :=
  match w.cl with
  | some cl => if cl / 24 = dieOfCa k then s else globalCtr s (if (cl / 24 = 0) = write then 64 else 65) n
  | none => s

/-- Count bytes read or written at a location. -/
def countBytes (s : State) (w : Who) (k n : Nat) (write : Bool) : State :=
  let s := countSeam s w k n write
  match caKind (k * 64) with
  | .stack i _ =>
    let s := globalCtr s (if write then 16 + i else i) n
    match w.ctx with
    | some c => ctxCtr s c (if write then 5 else 4) n
    | none => s
  | .drawer c _ => coreCtr s c (if write then 10 else 9) n
  | .spad c _ => coreCtr s c 8 n
  | .far p _ => globalCtr s (if write then 52 + p else 48 + p) n
  | _ => s

/-- Read `n` bytes at offset `off` of chunk `k` at its location: the data and whether it is poisoned. -/
def chunkRead (s : State) (w : Who) (k off n : Nat) (key : Option Nat) : (List Byte × Bool) × State :=
  let r := chunkCheck s w k
  let s := countBytes r.2 w k n false
  ((((chunkPlain s k key).drop off).take n, chunkPoison s k || r.1), s)

/-- R227: remember a chunk as it was before a region of the core first wrote it. -/
def noteUndo (s : State) (w : Who) (k : Nat) : State :=
  match w.jig, w.core with
  | true, some c =>
    if s.undo.any fun u => decide (u.core = c) && decide (u.chunk = k) then s
    else { s with undo := s.undo ++ [{ core := c, chunk := k, data := memBytes s (k * 64) 64, poison := chunkPoison s k }] }
  | _, _ => s

/-- Splice `d` into `base` at `off`. -/
def splice (base : List Byte) (off : Nat) (d : List Byte) : List Byte :=
  base.take off ++ d ++ base.drop (off + d.length)

/-- The stored form of a whole chunk's plaintext (R258). -/
def chunkCipher (s : State) (k : Nat) (key : Option Nat) (d : List Byte) : List Byte :=
  match key.bind (keyAt s) with
  | some kv => xtsChunk true kv k d
  | none => d

/-- R245: `n` bytes at chunk offset `off` cover some word in part, so that word is read and checked first. -/
def partialWord (off n : Nat) : Bool := decide (off % 8 ≠ 0) || decide ((off + n) % 8 ≠ 0)

/-- Write bytes at offset `off` of chunk `k` at its location. A whole clean write clears the chunk's mark, a poisoned
write sets it, a partial clean write keeps it (R105, R245, R255, R257). With an encrypted access a partial write
is a read and a write of the whole chunk (R258). A poisoned write that finds the stack's map full writes zeros. -/
def chunkWrite (s : State) (w : Who) (k off : Nat) (d : List Byte) (p : Bool) (key : Option Nat) : State :=
  let s := noteUndo s w k
  let whole := decide (d.length = 64)
  let s := if whole && !s.farBad.isEmpty then { s with farBad := mapSet (fun _ => false) s.farBad k false } else s
  let s := if whole then s else if partialWord off d.length || key.isSome then (chunkCheck s w k).2 else s
  let s := countBytes s w k d.length true
  let newP := p || (!whole && chunkPoison s k)
  let put (s : State) : State :=
    match key with
    | none => setBytes s (k * 64 + off) d
    | some _ => setBytes s (k * 64) (chunkCipher s k key (splice (chunkPlain s k key) off d))
  match caKind (k * 64) with
  | .stack n _ =>
    if p && !chunkPoison s k && !poisonMapRoom s n then
      raiseFault (setBytes s (k * 64) (List.replicate 64 0)) (bStack n) 2 none none
    else setChunkPoison (put s) k newP
  | _ => setChunkPoison (put s) k newP

/-- Zero a range of whole chunks with poison 0 (R245, R254, R255, R369): nothing is listed in it any more. -/
def zeroRange (s : State) (base size : Nat) : State :=
  { s with mem := s.mem.filter fun e => !(decide (base ≤ e.1) && decide (e.1 < base + size)),
           poison := s.poison.filter fun e => !(decide (base ≤ e.1 * 64) && decide (e.1 * 64 < base + size)) }

/-- Split `n` bytes at `a` into parts of chunks: chunk number, offset, length. -/
def chunkParts : Nat → Nat → Nat → List (Nat × Nat × Nat)
  | 0, _, _ => []
  | fuel + 1, a, n =>
    if n = 0 then [] else
      let l := min n (64 - a % 64)
      (a / 64, a % 64, l) :: chunkParts fuel (a + l) (n - l)

/-- The parts of an access of `n` bytes. -/
def parts (a n : Nat) : List (Nat × Nat × Nat) := chunkParts (n / 64 + 2) a n

end Sys2Proof.Machine
end

