-- ==== Sys2Proof/Machine/Coh.lean ====
section
/-! DEFINITION. Copies of lines: data caches, cluster caches, directories and filters, the device cache (R281-R296),
and coherent accesses of engines, volatile and NC accesses (R290), performed in one indivisible command. -/

namespace Sys2Proof.Machine

/-! Caches as sparse maps of held lines. -/

def findLine (m : SMap CLine) (host : Bool) (k : Nat) : Option (Nat × CLine) :=
  m.find? fun e => decide (e.2.line = k) && decide (e.2.host = host)

def setDcache (s : State) (c : Nat) (m : SMap CLine) : State := setCore s c { core s c with dcache := m }

def setCcache (s : State) (cl : Nat) (m : SMap CLine) : State := setCluster s cl { cluster s cl with ccache := m }

/-- Cores whose ring stop is snooped: enabled, not fenced (R282). -/
def snooped (s : State) (c : Nat) : Bool := coreEnabled s c && !coreFenced s c

/-- Where a copy of a line stands. -/
inductive Holder where
  | dc (core : Nat)
  | cc (cl : Nat)
  deriving DecidableEq, Repr

def holderLine (s : State) (host : Bool) (k : Nat) : Holder → Option (Nat × CLine)
  | .dc c => if snooped s c then findLine (core s c).dcache host k else none
  | .cc cl => findLine (cluster s cl).ccache host k

def setHolderLine (s : State) (h : Holder) (slot : Nat) (l : CLine) : State :=
  match h with
  | .dc c => setDcache s c (mapPut (core s c).dcache slot l)
  | .cc cl => setCcache s cl (mapPut (cluster s cl).ccache slot l)

def dropHolderLine (s : State) (h : Holder) (slot : Nat) : State :=
  match h with
  | .dc c => setDcache s c (mapDel (core s c).dcache slot)
  | .cc cl => setCcache s cl (mapDel (cluster s cl).ccache slot)

/-- The stops of one cluster's ring: its data caches and its cluster cache. -/
def clusterHolders (cl : Nat) : List Holder := (cores8 cl).map .dc ++ [.cc cl]

/-- Every cache that holds some line (the state lists only cores and clusters that have left their initial value). -/
def allHolders (s : State) : List Holder :=
  (s.cores.map fun e => Holder.dc e.1) ++ (s.clusters.map fun e => Holder.cc e.1)

def isDirty (x : Moesi) : Bool := x = .m || x = .o

/-- What a snoop of some holders found: the data of an M, O or E copy, whether it is dirty, and whether any copy
(in any state) was there. -/
structure SnoopRes where
  data : Option (List Byte × Bool × Option Nat × Bool)
  dirty : Bool
  found : Bool
  /-- The copy was an engine write that a cluster cache held and its controller had not accepted (R264). -/
  eng : Bool
  deriving DecidableEq, Repr

def snoopNone : SnoopRes := { data := none, dirty := false, found := false, eng := false }

/-- The data of a cluster-cache line is checked as it is read (R253, R425): a double-bit error marks the line. -/
def ccCheck (s : State) (cl : Nat) (l : CLine) : CLine × State :=
  let r := fireInjection s (bCluster cl) 0 none (some (l.line * 64))
  let q := fireInjection r.2 (bCluster cl) 1 none (some (l.line * 64))
  ({ l with poison := l.poison || q.1 }, q.2)

/-- The data of a device-cache line is checked as it is read (R411, R425). -/
def devCheck (s : State) (l : CLine) : CLine × State :=
  let r := fireInjection s .gfe 0 none none
  let q := fireInjection r.2 .gfe 1 none none
  ({ l with poison := l.poison || q.1 }, q.2)

/-- The check of a line that a holder supplies. -/
def holderCheck (s : State) (h : Holder) (l : CLine) : CLine × State :=
  match h with
  | .cc cl => ccCheck s cl l
  | .dc _ => (l, s)

/-- One holder answers a read (own false) or an ownership request or write (own true) of another agent (R284). -/
def snoopOne (host : Bool) (k : Nat) (own : Bool) (st : State × SnoopRes) (h : Holder) : State × SnoopRes :=
  let s := st.1
  let r := st.2
  match holderLine s host k h with
  | none => st
  | some (slot, l0) =>
    let sup := l0.st ≠ .s
    let c := if sup then holderCheck s h l0 else (l0, s)
    let l := c.1
    let s := c.2
    let r' : SnoopRes :=
      { data := if sup then some (l.data, l.poison, l.key, l.cc) else r.data,
        dirty := r.dirty || isDirty l.st, found := true, eng := r.eng || (decide (l.pres = 1) && isDirty l.st && !host) }
    if own then (dropHolderLine s h slot, r')
    else
      let st' := match l.st with
        | .m => Moesi.o
        | .o => .o
        | .e => .s
        | .s => .s
      (setHolderLine s h slot { l with st := st' }, r')

/-- A copy of a line exists in some cache. -/
def anyCopy (s : State) (host : Bool) (k : Nat) : Bool :=
  (allHolders s).any fun h => (holderLine s host k h).isSome

/-! Directories and filters (R286-R288): region bits and the host bit of a line's filter, presence bits of a
line in a region's directory. -/

def filter (s : State) (k : Nat) : Nat := mapGet (fun _ => 0) s.filt k
def setFilter (s : State) (k v : Nat) : State := { s with filt := mapSet (fun _ => 0) s.filt k v }
def dirBits (s : State) (rg k : Nat) : Nat := mapGet (fun _ => 0) s.dir (k * 8 + rg)
def setDirBits (s : State) (rg k v : Nat) : State := { s with dir := mapSet (fun _ => 0) s.dir (k * 8 + rg) v }

def hostBit (s : State) (k : Nat) : Bool := (filter s k).testBit 8
def setHostBit (s : State) (k : Nat) (v : Bool) : State :=
  setFilter s k (if v then filter s k ||| 256 else filter s k &&& 255)

/-- The device cache's line of a host physical line number. -/
def devLine (s : State) (k : Nat) : Option (Nat × CLine) := findLine s.devc true k

def putDev (s : State) (slot : Nat) (l : CLine) : State := { s with devc := mapPut s.devc slot l }
def dropDev (s : State) (slot : Nat) : State := { s with devc := mapDel s.devc slot }

/-- A cluster obtains a copy: its bits are set (R288); for a host line, its presence bit (R292). -/
def notePresence (s : State) (host : Bool) (k cl : Nat) : State :=
  let rg := regionOfCluster cl
  let s := setDirBits s rg (if host then 2 ^ 52 + k else k) (dirBits s rg (if host then 2 ^ 52 + k else k) ||| 2 ^ (cl % 6))
  if host then
    match devLine s k with
    | some (slot, l) => putDev s slot { l with pres := l.pres ||| 2 ^ cl }
    | none => s
  else setFilter s k (filter s k ||| 2 ^ rg)

/-- A snoop of a region's flagged clusters found no copy, or invalidated every copy: its bits are cleared (R288). -/
def clearPresence (s : State) (host : Bool) (k rg : Nat) : State :=
  let key := if host then 2 ^ 52 + k else k
  let s := setDirBits s rg key 0
  if host then s else setFilter s k ((filter s k) &&& (511 - 2 ^ rg))

/-! Eviction and write-back. -/

/-- A dirty line of a cluster cache is written to its location controller (R285). -/
def ccWriteBack (s : State) (cl : Nat) (l0 : CLine) : State :=
  let v := ccCheck s cl l0
  clusterCtr (chunkWrite v.2 whoNone v.1.line 0 v.1.data v.1.poison v.1.key) cl 2 1

/-- The window of a cluster changes from `old` to `new` ways: ways newly reserved are written back and zeroed, and
the contents of released ones are lost (R254). -/
def resizeWindow (s : State) (cl old new : Nat) : State :=
  let lo := min old new
  let hi := max old new
  let isIn := fun e : Nat × CLine => decide (lo ≤ e.1 % 16) && decide (e.1 % 16 < hi)
  let s := ((cluster s cl).ccache.filter fun e => isIn e && isDirty e.2.st).foldl (fun s e => ccWriteBack s cl e.2) s
  let s := setCcache s cl ((cluster s cl).ccache.filter fun e => !isIn e)
  zeroRange s (winBase cl + lo * 0x100000) ((hi - lo) * 0x100000)

/-- Update or allocate a line in a cluster cache (R253): the way is one that is empty, else a free value chooses
among the unreserved ways; a dirty victim is written to its controller (R285). -/
def ccInsert (s : State) (cl : Nat) (l : CLine) : State :=
  let m := (cluster s cl).ccache
  match findLine m l.host l.line with
  | some (slot, _) => setCcache s cl (mapPut m slot l)
  | none =>
    let base := l.line % 16384 * 16
    let w0 := winWays s cl
    let ways := (List.range (16 - w0)).map (· + w0)
    match ways.find? fun w => (mapFind? m (base + w)).isNone with
    | some w => notePresence (setCcache s cl (mapPut m (base + w) l)) l.host l.line cl
    | none =>
      let f := freeNat s
      let slot := base + w0 + f.1 % (16 - w0)
      let s := f.2
      let s := match mapFind? m slot with
        | some v => if isDirty v.st then ccWriteBack s cl v else s
        | none => s
      notePresence (setCcache s cl (mapPut (cluster s cl).ccache slot l)) l.host l.line cl

/-- A dirty host line returns to the device cache, which holds the line (R292). -/
def devWriteBack (s : State) (k : Nat) (d : List Byte) (p : Bool) : State :=
  match devLine s k with
  | some (slot, l) => putDev s slot { l with data := d, poison := p, st := .m }
  | none => s

/-- R285: a dirty line leaves a data cache. -/
def evictDirty (s : State) (c : Nat) (l : CLine) : State :=
  let cl := clusterOf c
  if l.host then devWriteBack s l.line l.data l.poison
  else if ccacheable (l.line * 64) && !clusterFenced s cl
      && (l.cc || (findLine (cluster s cl).ccache false l.line).isSome) then
    ccInsert s cl { l with stamp := 0, pres := 0 }
  else chunkWrite s { whoNone with ctx := none } l.line 0 l.data l.poison l.key

/-- A dirty line that waits in a core's write-back buffer (R248) leaves it. -/
def flushWbOf (s : State) (c : Nat) : State :=
  match (core s c).wb with
  | some l => evictDirty (setCore s c { core s c with wb := none }) c l
  | none => s

/-- Write-back buffers that hold a line give it up before the line is looked for. -/
def flushWb (s : State) (host : Bool) (k : Nat) : State :=
  s.cores.foldl (fun s e => match e.2.wb with
    | some l => if l.line = k && l.host = host then flushWbOf s e.1 else s
    | none => s) s

def snoopHolders (s : State) (host : Bool) (k : Nat) (own : Bool) (hs : List Holder) : State × SnoopRes :=
  hs.foldl (snoopOne host k own) (flushWb s host k, snoopNone)

/-- The data that a request carries from a dirty copy, of which it may be the only one left: a host line's returns to the device cache, a
local line's to its controller (R284, R369). -/
def txnWriteBack (s : State) (t : Txn) : State :=
  if !t.dirty then s
  else if t.host then devWriteBack s t.line t.data t.poison
  else chunkWrite s whoNone t.line 0 t.data t.poison t.key

/-- Every cache of the package answers. -/
def snoopAll (s : State) (host : Bool) (k : Nat) (own : Bool) : State × SnoopRes :=
  let s := flushWb s host k
  snoopHolders s host k own (allHolders s)

/-- The dirty lines of a data cache, its write-back buffer first. -/
def dirtyLines (k : Core) : List CLine := (k.wb.toList ++ k.dcache.map Prod.snd).filter fun l => isDirty l.st

/-- The engine writes that cluster caches hold are accepted by their controllers, and dirty host lines merged into the device cache's
(R295): a release at PACKAGE, a notification there and a completion record follow (R264, R272, R284, R301). -/
def performPackage (s : State) : State :=
  let s := s.cores.foldl (fun s e => ((dirtyLines e.2).filter CLine.host).foldl (fun s l => devWriteBack s l.line l.data l.poison) s)
    ((s.txns.filter Txn.host).foldl txnWriteBack s)
  s.clusters.foldl (fun s e => (e.2.ccache.filter fun x => decide (x.2.pres = 1) && isDirty x.2.st).foldl (fun s x =>
    ccWriteBack (setCcache s e.1 (mapDel (cluster s e.1).ccache x.1)) e.1 x.2) s) s

/-- A region controller's recall of a line: every copy is invalidated, dirty data written to its controller (R289). -/
def recallLine (s : State) (host : Bool) (k : Nat) : State :=
  let r := snoopAll s host k true
  match r.2.data with
  | some (d, p, key, _) =>
    if r.2.dirty then (if host then devWriteBack r.1 k d p else chunkWrite r.1 whoNone k 0 d p key) else r.1
  | none => r.1

/-- A request for this line is between its grant and its fill (R282, R286, R287: later requests wait). -/
def lineBusy (s : State) (host : Bool) (k : Nat) : Bool :=
  s.txns.any fun t => decide (t.line = k) && decide (t.host = host) && t.stage ≠ .ring

/-- An engine access of the cluster waits for the requests that came to its arbiter before it, and for those between grant and fill
(R282). -/
def lineWaits (s : State) (w : Who) (host : Bool) (k : Nat) : Bool :=
  s.txns.any fun t => decide (t.line = k) && decide (t.host = host) && (t.stage ≠ .ring || w.cl = some t.cluster)

/-! Room in directories and filters: 16 ways a set (R286, R287). -/

def dirKey (host : Bool) (k : Nat) : Nat := if host then 2 ^ 52 + k else k

/-- The directory of region `rg` has an entry for the line, or room for one in its set (R286). -/
def dirRoom (s : State) (rg : Nat) (host : Bool) (k : Nat) : Bool :=
  decide (dirBits s rg (dirKey host k) ≠ 0)
    || decide ((s.dir.filter fun e => decide (e.1 % 8 = rg) && decide (Config.dirIndex (e.1 / 8) % 131072 = Config.dirIndex (dirKey host k) % 131072)).length < 16)

/-- The sets of the filter of the line's location controller (R287). -/
def filterSets (k : Nat) : Nat :=
  match caKind (k * 64) with
  | .stack _ _ => 65536
  | _ => 16384

/-- The location controller that a line belongs to: the stack, the drawer controller of a region, or the far-memory port. -/
def locationOf (k : Nat) : Option (Nat × Nat) :=
  match caKind (k * 64) with
  | .stack n _ => some (0, n)
  | .drawer c _ => some (1, regionOf c)
  | .far p _ => some (2, p)
  | _ => none

/-- The filter of the line's location controller has an entry for it, or room for one in its set (R287). -/
def filterRoom (s : State) (k : Nat) : Bool :=
  decide (filter s k ≠ 0)
    || decide ((s.filt.filter fun e => decide (locationOf e.1 = locationOf k) && decide (Config.dirIndex e.1 % filterSets k = Config.dirIndex k % filterSets k)).length < 16)

/-- A cluster cache may take a line in: its region's directory and the line's filter have room (R286, R287, R289). -/
def fillRoom (s : State) (cl k : Nat) : Bool := dirRoom s (regionOfCluster cl) false k && filterRoom s k

/-! Far-memory ports (R386, R390). -/

def lineOfPort (n : Nat) (host : Bool) (k : Nat) : Bool :=
  !host && (match caKind (k * 64) with
    | .far p _ => decide (p = n)
    | _ => false)

/-- Accesses to the port that were accepted and have not completed. -/
def portBusy (s : State) (n : Nat) : Bool :=
  (s.txns.any fun t => lineOfPort n t.host t.line)
    || s.cores.any fun e => (e.2.sbuf.any fun b => lineOfPort n b.tgt.host (b.tgt.addr / 64)) || e.2.accepted.any (lineOfPort n false)

/-! Back-invalidation (R299). -/

/-- May an access of the complex proceed on a line whose host bit is set? A read needs an answered BISnp, a write or
ownership needs the host bit clear. -/
def hostSnoopOk (s : State) (k : Nat) (own : Bool) : Bool :=
  !hostBit s k || (!own && s.bis.any fun b => decide (b.line = k) && b.answered)

/-- Send the back-invalidation that an access needs, once. -/
def sendBis (s : State) (k : Nat) (own : Bool) : State :=
  if s.bis.any fun b => decide (b.line = k) && !b.answered && (b.inv || !own) then s
  else
    let s := { s with bis := (s.bis.filter fun b => !(decide (b.line = k) && b.answered)) ++ [{ line := k, inv := own, answered := false, spent := false }] }
    globalCtr (send s (.biSnp own (k * 64))) 114 1

/-- The answer of a BISnp that an access uses is used up. -/
def useBis (s : State) (k : Nat) : State :=
  { s with bis := s.bis.filter fun b => !(decide (b.line = k) && b.answered) }

/-- A walk uses the answer, and keeps it until it ends (R306). -/
def spendBis (s : State) (k : Nat) : State :=
  { s with bis := s.bis.map fun b => if b.line = k ∧ b.answered then { b with spent := true } else b }

/-- The answers that a walk has used are used up. -/
def dropSpent (s : State) : State := { s with bis := s.bis.filter fun b => !b.spent }

/-! Coherent accesses to memory of the complex (R290): whole or partial chunks. -/

/-- Is the access one that no cache sees: scratchpads and windows (R281), or inside a region a participant's drawer (R291)? -/
def uncached (w : Who) (k : Nat) : Bool :=
  match caKind (k * 64) with
  | .stack _ _ | .far _ _ => false
  | .drawer c _ => w.jig && w.parts.contains c
  | _ => true

/-- Read a part of a chunk, the latest copy in the package (R290). -/
def cohRead (w : Who) (t : Target) (k off n : Nat) : M (List Byte × Bool) := do
  let s ← get
  if uncached w k then
    let r := chunkRead s w k off n t.key
    set r.2
    return r.1
  else
    if lineWaits s w false k then throw .wait
    if !hostSnoopOk s k false then
      set (sendBis s k false)
      throw .wait
    let inCl := match w.cl with
      | some cl => (findLine (cluster s cl).ccache false k).isSome
      | none => false
    if (w.cl.map fun cl => t.cc && ccacheable (k * 64) && !clusterFenced s cl && !inCl && !fillRoom s cl k).getD false then throw .wait
    let s := useBis s k
    let r := snoopAll s false k false
    let s := match w.cl with
      | some cl => if ccacheable (k * 64) then clusterCtr r.1 cl (if inCl then 0 else 1) 1 else r.1
      | none => r.1
    match r.2.data with
    | some (d, p, key, _) =>
      set (match w.cl with
        | some cl =>
          if t.cc && ccacheable (k * 64) && !clusterFenced s cl && !inCl then
            ccInsert s cl { line := k, host := false, st := .s, data := d, poison := p, cc := true, key, stamp := 0, pres := 0 }
          else s
        | none => s)
      return ((d.drop off).take n, p)
    | none =>
      let held : Option CLine := match w.cl with
        | some cl => (findLine (cluster s cl).ccache false k).map Prod.snd
        | none => none
      match held with
      | some l0 =>
        let v := match w.cl with
          | some cl => ccCheck s cl l0
          | none => (l0, s)
        let slot := match w.cl with
          | some cl => (findLine (cluster s cl).ccache false k).map fun e => (cl, e.1)
          | none => none
        set (match slot with
          | some (cl, i) => setCcache v.2 cl (mapPut (cluster v.2 cl).ccache i v.1)
          | none => v.2)
        return ((v.1.data.drop off).take n, v.1.poison)
      | none =>
        match w.cl with
        | some cl =>
          if t.cc && ccacheable (k * 64) && !clusterFenced s cl then
            let f := chunkRead s w k 0 64 t.key
            let st := if anyCopy f.2 false k || hostBit f.2 k then Moesi.s else .e
            let l : CLine := { line := k, host := false, st, data := f.1.1, poison := f.1.2, cc := true, key := t.key, stamp := 0, pres := 0 }
            set (ccInsert f.2 cl l)
            return ((f.1.1.drop off).take n, f.1.2)
          else
            let f := chunkRead s w k off n t.key
            set f.2
            return f.1
        | none =>
          let f := chunkRead s w k off n t.key
          set f.2
          return f.1

/-- Write a part of a chunk (R290): every other copy is invalidated, a partial write first merges the current data,
and the cluster cache takes the line where R253 allocates it. -/
def cohWrite (w : Who) (t : Target) (k off : Nat) (d : List Byte) (p : Bool) : M Unit := do
  let s ← get
  if uncached w k then
    set (chunkWrite s w k off d p t.key)
  else
    if lineWaits s w false k then throw .wait
    if !hostSnoopOk s k true then
      set (sendBis s k true)
      throw .wait
    let inCl := match w.cl with
      | some cl => (findLine (cluster s cl).ccache false k).isSome
      | none => false
    if (w.cl.map fun cl => t.cc && ccacheable (k * 64) && !clusterFenced s cl && !inCl && !fillRoom s cl k).getD false then throw .wait
    let s := useBis s k
    let whole := decide (d.length = 64)
    let r := snoopAll s false k true
    let s := r.1
    let alloc := match w.cl with
      | some cl => ccacheable (k * 64) && (t.cc || inCl) && !clusterFenced s cl
      | none => false
    match w.cl, alloc with
    | some cl, true =>
      let s := clusterCtr s cl (if inCl then 0 else 1) 1
      let cur : (List Byte × Bool) × State :=
        if whole then ((d, false), s)
        else match r.2.data with
          | some (d0, p0, _, _) => ((d0, p0), s)
          | none => chunkRead s w k 0 64 t.key
      let l : CLine := { line := k, host := false, st := .m, data := splice cur.1.1 off d,
                         poison := p || (!whole && cur.1.2), cc := true, key := t.key, stamp := 0, pres := 1 }
      set (ccInsert cur.2 cl l)
    | _, _ =>
      let s := match r.2.data with
        | some (d0, p0, key0, _) => if r.2.dirty && !whole then chunkWrite s whoNone k 0 d0 p0 key0 else s
        | none => s
      set (chunkWrite s w k off d p t.key)

/-! Host memory (R292-R296). -/

/-- First slot of a host line's set: the slice of R292, then the set. -/
def devSet (k : Nat) : Nat := (if (k.testBit 6) ≠ (k.testBit 14) then 1 else 0) * 0x80000 + k % 32768 * 16

/-- The device-cache slot for a host line: an empty way, else the least recently used whose line no request is bringing to a data
cache. -/
def devSlot (s : State) (k : Nat) : Nat :=
  let base := devSet k
  match (List.range 16).find? fun w => (mapFind? s.devc (base + w)).isNone with
  | some w => base + w
  | none =>
    ((List.range 16).foldl (fun (b : Nat × Nat) w =>
      match mapFind? s.devc (base + w) with
      | some l => if decide (l.stamp < b.2) && !lineBusy s true l.line then (base + w, l.stamp) else b
      | none => b) (base, 2 ^ 64)).1

/-- The device cache has a way for a host line: its own, an empty one, or one that may be evicted. -/
def devRoom (s : State) (k : Nat) : Bool :=
  (devLine s k).isSome || (List.range 16).any fun w => match mapFind? s.devc (devSet k + w) with
    | some l => !lineBusy s true l.line
    | none => true

/-- Evict a device-cache line: the inner copies are recalled first (R292), then the host is told (R293). -/
def devEvict (s : State) (slot : Nat) : State :=
  match mapFind? s.devc slot with
  | none => s
  | some l0 =>
    let s := recallLine s true l0.line
    match mapFind? s.devc slot with
    | none => s
    | some l =>
      let s := dropDev s slot
      if l.st = .m then
        let v := devCheck s l
        cxlRequest v.2 384 5 l.line 0 v.1.data v.1.poison
      else cxlRequest s 384 6 l.line 0 [] false

def devStamp (s : State) : Nat := s.devc.foldl (fun m e => max m (e.2.stamp + 1)) 0

/-- Install a host line after its GO (R293). -/
def devInstall (s : State) (k : Nat) (st : Moesi) (d : List Byte) (p : Bool) : State :=
  match devLine s k with
  | some (slot, l) => putDev s slot { l with st, data := d, poison := p, cc := false, stamp := devStamp s }
  | none =>
    let slot := devSlot s k
    let s := devEvict s slot
    putDev s slot { line := k, host := true, st, data := d, poison := p, cc := false, key := none, stamp := devStamp s, pres := 0 }

/-- A CXL.cache request for the line waits for its GO. -/
def hostPending (s : State) (k : Nat) : Bool := s.hreqs.any fun h => decide (h.line = k)

/-- Read part of a host line for an engine: from the latest inner copy or the device cache; otherwise RdShared is sent
and the access waits (R293). The answer to a request that failed is used once. -/
def hostRead (w : Who) (k off n : Nat) : M (List Byte × Bool) := do
  let s ← get
  let me := k * 512 + w.core.getD 384
  match mapFind? s.refused me with
  | some z =>
    set { s with refused := mapDel s.refused me }
    return ((z.drop off).take n, true)
  | none =>
  if lineWaits s w true k then throw .wait
  match devLine s k with
  | none =>
    if hostPending s k then throw .wait
    set (globalCtr (cxlRequest s (w.core.getD 384) 0 k 0 [] false) 113 1)
    throw .wait
  | some (slot, l0) =>
    let r := snoopAll s true k false
    let v := devCheck r.1 (((devLine r.1 k).map Prod.snd).getD l0)
    let l := v.1
    let s := globalCtr (putDev v.2 slot { l with stamp := devStamp s }) 112 1
    let s := match w.ctx with
      | some c => ctxCtr s c 6 n
      | none => s
    set s
    match r.2.data with
    | some (d, p, _, _) => return ((d.drop off).take n, p)
    | none => return ((l.data.drop off).take n, l.poison)

/-- Write part of a host line for an engine: in the device cache where it is held in M or E, otherwise posted by
ItoMWr or WOWrInv (R293, R295). -/
def hostWrite (w : Who) (k off : Nat) (d : List Byte) (p : Bool) : M Unit := do
  let s ← get
  if lineWaits s w true k || hostPending s k then throw .wait
  let whole := decide (d.length = 64)
  let r := snoopAll s true k true
  let s := match w.ctx with
    | some c => ctxCtr r.1 c 6 d.length
    | none => r.1
  match devLine s k with
  | some (slot, l) =>
    let cur := match r.2.data with
      | some (d0, p0, _, _) => (d0, p0)
      | none => (l.data, l.poison)
    if l.st = .m || l.st = .e then
      set (putDev s slot { l with st := .m, data := splice cur.1 off d, poison := p || (!whole && cur.2), stamp := devStamp s })
    else
      set (cxlRequest (dropDev s slot) (w.core.getD 384) (if whole then 3 else 4) k off d p)
  | none => set (cxlRequest s (w.core.getD 384) (if whole then 3 else 4) k off d p)

end Sys2Proof.Machine
end

