-- ==== Sys2Proof/Machine/Except.lean ====
section
/-! DEFINITION. Exceptions (R199, R200), engine faults (R186), the end of a task's part (R198, R199, R337-R339),
credits and notifications (R189-R191), and jig aborts (R201, R226, R227). -/

namespace Sys2Proof.Machine

/-- Opcode field of an engine operation. -/
def opcodeOf (op : EngOp) : Nat := fld (wordAt op.desc 0) 63 56

/-- EINFO of a synchronous exception (R200). -/
def einfoSync (sub slot detail : Nat) : Word := place 51 48 sub ||| place 47 32 slot ||| place 31 0 detail

/-- EINFO of an asynchronous one (R200). -/
def einfoAsync (f : EngFault) : Word :=
  place 63 63 1 ||| place 62 60 f.eng ||| place 59 52 f.opcode ||| place 51 48 f.sub ||| place 31 0 f.detail

/-! Credits. -/

def updSaved (s : State) (id c : Nat) (f : Prog → Prog) : State :=
  updTask s id fun t => match mapFind? t.saved c with
    | some (slot, p) => { t with saved := mapPut t.saved c (slot, f p) }
    | none => t

/-- A task has a part at a core that has not ended there. -/
def placedAt (t : Task) (c : Nat) : Bool := t.cores.contains c && !t.ended.contains c && !t.finished

/-- The task of a context that a signal to a core goes to: the earliest dispatched one that is placed there (R191). -/
def signalTask (s : State) (ctx : BitVec 12) (c : Nat) : Option Task := s.tasks.find? fun t => decide (t.ctx = ctx) && placedAt t c

/-- Deliver `n` credits to counter `q` of a core (R191): false where the signal is discarded. The CSQ holds them for a part that
does not run now. -/
def signalCore (s : State) (ctx : BitVec 12) (c q n : Nat) : Bool × State :=
  if coreEnabled s c && !coreFenced s c then
    match signalTask s ctx c with
    | some t =>
      if ((prog? s c).map Prog.task) = some t.id then (true, updProg s c fun p => addCredit p q n)
      else if (mapFind? t.saved c).isSome then (true, updSaved s t.id c fun p => addCredit p q n)
      else (true, updTask s t.id fun t => { t with early := t.early ++ [(c, q, n)] })
    | none => (false, s)
  else (false, s)

/-- Engine `e` of core `c` has done some work; from now on it may be idle (R431). -/
def engineIdles (c : Nat) (s : State) (e : Nat) : State :=
  setCore s c { core s c with engAt := mapSet (fun _ => 0) (core s c).engAt e s.cclk }

/-- What follows the writes of a completed operation: its completion credit (R185), its notification (R189, for
XFR), and the progress of its context (R344). -/
def completeOp (s : State) (c e : Nat) (op : EngOp) : State :=
  let ctx := ctxOf s c
  let s := engineIdles c s e
  let s := match op.credit with
    | some q => updProg s c fun p => addCredit p q 1
    | none => s
  let w0 := wordAt op.desc 0
  let s :=
    if 4 ≤ e && flag w0 55 then
      let s := if fld w0 54 52 < 4 then s else performPackage s
      let r := signalCore s ctx (fld w0 51 43) (fld w0 42 39) 1
      if r.1 then r.2 else updProg r.2 c fun p => { p with sigdrop := true }
    else s
  ctxCtr (progress s ctx) ctx 1 1

/-- The operation's completion is a release at PACKAGE (R189). -/
def notifiesPackage (e : Nat) (op : EngOp) : Bool :=
  decide (4 ≤ e) && flag (wordAt op.desc 0) 55 && decide (4 ≤ fld (wordAt op.desc 0) 54 52)

/-- A notification at PACKAGE waits for the core's posted host writes (R189, R295). -/
def notifyReady (s : State) (c e : Nat) (op : EngOp) : Bool :=
  !notifiesPackage e op || (hostWritesDone s c && !flushDue s c && !flushOpen s c)

/-- An operation that has run can complete: its peers have answered, and its notification need not wait (R187, R189). -/
def opFinished (s : State) (c e : Nat) (op : EngOp) : Bool := op.ran && op.tags.isEmpty && notifyReady s c e op

/-- The operation has begun. -/
def opStarted (o : EngOp) : Bool :=
  o.ran || decide (o.progress ≠ 0) || o.sent || o.locked || !o.tags.isEmpty || !o.rows.isEmpty

def isParked : TrkStage → Bool
  | .page | .migrate => true
  | _ => false

/-- An agent of the core's task waits for a page or a migration (R312). -/
def agentParked (s : State) (c task ag : Nat) : Bool :=
  (cluster s (clusterOf c)).trk.any fun t => isParked t.stage && t.waiters.any fun w => decide (w.core = c) && decide (w.task = task) && decide (w.agent = ag)

/-- The agent of an engine that translates (R304, R312). -/
def engAgent (e : Nat) : Option Nat :=
  match e with
  | 2 => some 1
  | 4 => some 2
  | 5 => some 3
  | _ => none

/-- The operations at the front of a queue that can complete. -/
def endsNow (s : State) (c : Nat) (p : Prog) (e : Nat) : List EngOp := (queue p e).takeWhile (opFinished s c e)

/-- Operations of engine `e` that go on when its core's task leaves: those that have started and cannot complete yet, unless their
agent is parked, which drops those that have not run (R199, R227). -/
def goesOn (s : State) (c : Nat) (p : Prog) (e : Nat) : List EngOp :=
  let l := ((queue p e).dropWhile (opFinished s c e)).filter opStarted
  match (engAgent e).map (agentParked s c p.task) with
  | some true => l.filter EngOp.ran
  | _ => l

/-- The operations of a core's engines that have run complete and add their credits, those under way or with notifications that wait
go on; the others are discarded (R189, R199, R227). -/
def flushEngines (s : State) (c : Nat) : State :=
  match prog? s c with
  | none => s
  | some p =>
    let rest := (List.range 6).map fun e => (e, goesOn s c p e)
    let s := (List.range 6).foldl (fun t e => (endsNow s c p e).foldl (fun t op => completeOp t c e op) t) s
    let s := ((List.range 6).filter fun e => !(queue p e).isEmpty).foldl (engineIdles c) s
    updProg s c fun q => rest.foldl (fun q e => setQueue q e.1 e.2) q

/-! The end of a task. -/

/-- A task has ended at every core (R337): its lines are free, its progress counted; its captures are released before its record. -/
def taskFinish (s : State) (id : Nat) : State :=
  match taskOf s id with
  | none => s
  | some t =>
    let s := updTask s id fun t => { t with finished := true, tEnd := s.stc }
    let s := t.lines.foldl (fun s l => setStrikeLine s l linesInit) s
    globalCtr (ctxCtr (progress s t.ctx) t.ctx 0 1) 119 1

def sat32 (n : Nat) : Nat := min n (2 ^ 32 - 1)

/-- The tracker entries of the core's cluster let go of a task of the core: nothing of it waits for a translation any more (R310). -/
def dropWaiters (s : State) (c task : Nat) : State :=
  let cl := cluster s (clusterOf c)
  setCluster s (clusterOf c)
    { cl with trk := cl.trk.map fun t => { t with waiters := t.waiters.filter fun w => !(decide (w.core = c) && decide (w.task = task)) } }

/-- A task's part at a core ends: its sums join the task's (R339), TASK_END is traced (R444), and the last part
ends the task. -/
def partEnd (s : State) (c : Nat) (p : Prog) (code : Nat) : State :=
  let t0 := taskOf s p.task
  let w2 := match t0 with
    | some t => place 63 48 (fld (wordAt t.words 1) 63 48) ||| place 47 32 (fld (wordAt t.words 1) 47 32) ||| place 31 0 p.taskId.toNat
    | none => place 31 0 p.taskId.toNat
  let s := if (t0.any fun t => !t.started.contains c) then s
    else coreRing (traceRec s c 2 p.ctx.toNat w2 (place 7 0 code)) c 0x02 p.ctx.toNat (place 31 0 p.taskId.toNat)
  let s := dropWaiters s c p.task
  let s := updTask s p.task fun t =>
    { t with ended := t.ended ++ [c], faulted := t.faulted || code ≠ 0, numsum := t.numsum ||| p.numsum,
             poisonCnt := sat32 (t.poisonCnt + p.poisonCnt.toNat), missCnt := sat32 (t.missCnt + p.missCnt.toNat),
             saved := mapDel t.saved c }
  let s := { s with lines := s.lines.map fun e =>
    (e.1, { e.2 with armed := e.2.armed.filter (· ≠ c), strikers := e.2.strikers.filter fun k => k.1 ≠ c }) }
  let s := setCore s c { core s c with freeAt := s.stc }
  match taskOf s p.task with
  | some t => if t.cores.all (t.ended.contains ·) then taskFinish s p.task else s
  | none => s

/-- The core gives up its task at once: what runs there ends (R198, R199). -/
def leaveNow (s : State) (c code : Nat) : State :=
  let s := flushEngines s c
  match prog? s c with
  | none => s
  | some p =>
    let k := core s c
    let s := setCore s c { k with prog := none, bundle := [], parkedSeq := false, idleAt := s.stc, fills := k.fills.filter Fill.prefetch,
                                   ncLine := none, accepted := [] }
    let s := { s with undo := s.undo.filter (fun u => u.core ≠ c), refused := s.refused.filter fun e => e.1 % 512 ≠ c }
    partEnd s c p code

/-- No operation of the core's engines is left. -/
def queuesEmpty (p : Prog) : Bool := (List.range 6).all fun e => (queue p e).isEmpty

/-- The task's part at a core ends (R198, R199): it issues no further bundle, and leaves once the engine operations in its queues
have completed. -/
def leaveRest (s : State) (c code : Nat) : State :=
  match prog? s c with
  | none => s
  | some p =>
    if queuesEmpty p then leaveNow s c code
    else
      let k := core s c
      let cl := cluster s (clusterOf c)
      let s := setCluster s (clusterOf c) { cl with trk := cl.trk.map fun t =>
        { t with waiters := t.waiters.filter fun w => !(decide (w.core = c) && decide (w.task = p.task) && (decide (w.agent = 0) || isParked t.stage)) } }
      let s := { s with lines := s.lines.map fun e =>
        (e.1, { e.2 with armed := e.2.armed.filter (· ≠ c), strikers := e.2.strikers.filter fun x => x.1 ≠ c }) }
      setCore s c { k with
        prog := some { p with leaving := some (p.leaving.getD code), injig := false, armed := false, jig := none, yielding := false, waitTo := none }
        bundle := [], parkedSeq := false, ncLine := none, accepted := [] }

/-- The task's part at a core ends with an exception (R199): operations that have not started are discarded. -/
def leaveCore (s : State) (c code : Nat) : State := leaveRest (flushEngines s c) c code

/-- A task's part that waits only for its engines leaves its core; a fault that one of them has met since an END is taken first (R198). -/
def leaveDone (s : State) (c : Nat) : State :=
  match prog? s c with
  | some p => match p.leaving with
    | some code => if queuesEmpty p && (code ≠ 0 || p.pend.isEmpty) then leaveNow s c code else s
    | none => s
  | none => s

/-- R339: an exception of a task's part is its first, or it is of the same STC as that and of a lower core. -/
def firstExc (t : Task) (x : TaskExc) : Task :=
  match t.exc with
  | some y => if y.stc = x.stc && decide (x.core < y.core) then { t with exc := some x } else t
  | none => { t with exc := some x }

/-- R339: the task's first exception. -/
def noteException (s : State) (c code : Nat) (einfo : Word) (jig : Nat) : State :=
  match prog? s c with
  | none => s
  | some p => updTask s p.task fun t => firstExc t { ecode := code, jigcode := jig, core := c, einfo, stc := s.stc }

/-- The reply to a displaced PLD is awaited by nobody (R179, R199). -/
def dropPld (r : DtReq) : DtReq :=
  match r.kind with
  | .pld _ _ => { r with kind := .dropped }
  | _ => r

/-- Taking an exception (R199): the handler runs at EHND with EPC, ECODE, EINFO and EADDR as the exception defines;
with no handler, or while it runs, the task ends at the core. -/
def takeException (s : State) (c code : Nat) (einfo : Word) (eaddr epc : BitVec 52) : State :=
  match prog? s c with
  | none => s
  | some p =>
    let s := coreRing s c 0x03 p.ctx.toNat (place 7 0 code ||| (place 51 0 epc.toNat &&& fieldMask 51 8))
    let s := noteException s c code einfo p.jcode.toNat
    let s := setCore s c { core s c with bundle := [], parkedSeq := false, accepted := [] }
    let s := { s with lines := s.lines.map fun e => (e.1, { e.2 with strikers := e.2.strikers.filter fun k => k.1 ≠ c }),
                      dtOut := s.dtOut.map fun r => if r.core = c ∧ r.task = p.task then dropPld r else r }
    if p.ehnd = 0 || p.inexc then leaveCore s c code
    else
      setProg s c { p with
        epc := epc, ecode := BitVec.ofNat 8 code, einfo := einfo, eaddr := eaddr, inexc := true, pc := p.ehnd,
        blocked := false, granted := false, reply := none, yielding := false, waitTo := none }

/-- EADDR is the CA that caused an ALIGN, ACCESS, POISON or TRANS; other exceptions leave it (R163). -/
def newEaddr (p : Prog) (code ea : Nat) : BitVec 52 := if code = 3 ∨ code = 4 ∨ code = 5 ∨ code = 8 then BitVec.ofNat 52 ea else p.eaddr

/-- R199: the return from the handler. -/
def exceptionReturn (p : Prog) : Prog := { p with pc := p.epc, inexc := false }

/-! Jig regions: the end and the abort. -/

/-- Each slot that the region loaded holds its old or its new content (R227): a free value chooses. -/
def mixSlots {α : Type} [DecidableEq α] (old new : SMap α) : Nat → State × SMap α → State × SMap α
  | 0, st => st
  | k + 1, st =>
    let st := mixSlots old new k st
    if mapFind? old k = mapFind? new k then st
    else
      let f := freeNat st.1
      if f.1 % 2 = 0 then (f.2, st.2)
      else (f.2, match mapFind? old k with
        | some v => mapPut st.2 k v
        | none => mapDel st.2 k)

/-- Each chunk the region wrote holds its old or its new content (R227). -/
def mixChunk (s : State) (u : Undo) : State :=
  let f := freeNat s
  if f.1 % 2 = 0 then f.2 else setChunkPoison (setBytes f.2 (u.chunk * 64) u.data) u.chunk u.poison

/-- Where the instruction cache keeps the line of CA `a`: by its CA, in the stack-contiguous form (R237), and by context where the CA is translated (R246). -/
def icKey (ctx : BitVec 12) (a : Nat) : Nat := if a < 2 ^ 51 then canon a / 64 else a / 64 + 2 ^ 46 * ctx.toNat

/-- The instruction word at CA `a` as the core's instruction cache holds it (R164, R246). -/
def icWord (k : Core) (ctx : BitVec 12) (a : Nat) : Option Nat :=
  (mapFind? k.icache (icKey ctx a)).map fun l => ofBytes ((l.drop (a % 64)).take 8)

/-- Where a participant resumes after an abort (R200): behind the first JIG.SEAL of the pinned code, or behind the
pinned range; a free place behind where a line of the code has left the pin. -/
def sealEpc (s : State) (c : Nat) (p : Prog) (j : Jig) : BitVec 52 × State :=
  let cas := (List.range ((j.hi - j.lo) / 8)).map fun i => j.lo + 8 * i
  let isSeal := fun a => match icWord (core s c) p.ctx a with
    | some w => decide (bitsN w 58 52 = 0x6D)
    | none => true
  match cas.find? isSeal with
  | some a =>
    if (icWord (core s c) p.ctx a).isSome then (BitVec.ofNat 52 (a + 8), s)
    else
      let f := freeNat s
      (BitVec.ofNat 52 (a + 8 + 8 * (f.1 % ((j.hi - a) / 8))), f.2)
  | none => (BitVec.ofNat 52 j.hi, s)

/-- What an abort leaves of a participant's region beside its program state: each chunk it wrote old or new, a slip under way counted,
and in JIG_RUN.STOP the cycle of its last region bundle (R222, R225, R227; log entry 220). -/
def abortTrace (s : State) (c : Nat) (j : Jig) : State :=
  let s := (s.undo.filter fun u => u.core = c).foldl mixChunk s
  let s := slipEnd { s with undo := s.undo.filter fun u => u.core ≠ c } c
  match j.last with
  | some n => setRf s (bCore c) 0x2C0 31 0 n
  | none => s

/-- The JIG_END trace record and the ring event of a participant whose region ends (R444, R446, R449). -/
def jigEndRecs (s : State) (c : Nat) (p : Prog) (code : Nat) : State :=
  let w2 := place 63 48 p.jid.toNat ||| place 47 40 code ||| place 31 0 p.taskId.toNat
  coreRing (traceRec s c 5 p.ctx.toNat w2 (place 31 0 p.slips.toNat)) c 0x0C p.ctx.toNat (place 31 16 p.jid.toNat ||| place 7 0 code)

/-- One participant after an abort (R226, R227), with the code it records. -/
def abortAt (s : State) (c code orig : Nat) (einfo : Word) (eaddr : Nat) : State :=
  let s := flushEngines s c
  match prog? s c with
  | none => s
  | some p =>
    match p.jig with
    | none => s
    | some j =>
      let e := sealEpc s c p j
      let epc := e.1
      let m1 := mixSlots j.fmt0 p.fmt 32 (e.2, p.fmt)
      let m2 := mixSlots j.cb0 p.cb 16 (m1.1, p.cb)
      let m3 := mixSlots j.curves0 p.curves 8 (m2.1, p.curves)
      let m4 := mixSlots j.rules0 p.rules 16 (m3.1, p.rules)
      let s := abortTrace m4.1 c j
      let p := (prog? s c).getD p
      let p' := { p with fmt := m1.2, cb := m2.2, curves := m3.2, rules := m4.2, banks := [],
                         streams := p.streams.filter fun e => !e.2.inJig,
                         queues := p.queues.map fun e => (e.1, e.2.map fun o => { o with orphaned := o.inJig || o.orphaned }),
                         injig := false, armed := false, jig := none, jcode := BitVec.ofNat 8 code, jorig := BitVec.ofNat 8 orig,
                         blocked := false, granted := false }
      let s := setProg s c p'
      let s := jigEndRecs s c p code
      takeException s c 0x09 einfo (newEaddr p orig eaddr) epc

/-- R201, R226: the region of core `c` aborts with `code` there and PEER at the other participants. -/
def abortRegion (s : State) (c code orig : Nat) (einfo : Word) (eaddr : Nat) : State :=
  let others := (regionCores s c).filter (· ≠ c)
  let s := abortAt s c code orig einfo eaddr
  others.foldl (fun s k => abortAt s k 0x09 0 0 0) s

/-- Operation `op` of engine `e` breaks the contract with `code` (R201, R204): it is performed no further. Its region aborts; behind the
core's JIG.SEAL the participants that are left abort, and JIGABORT is taken at the next bundle; of a region that has aborted nothing is
left to abort (log entry 221). -/
def regionBreak (s : State) (c e : Nat) (op : EngOp) (code : Nat) : State :=
  let s := engineIdles c (updProg s c fun p => setQueue p e ((queue p e).filter fun o => o.ord ≠ op.ord)) e
  match prog? s c with
  | none => s
  | some p =>
    if op.orphaned then leaveDone s c
    else if p.injig then abortRegion s c code 0 0 0
    else
      let others := op.pins.filter fun k => k ≠ c && match prog? s k with
        | some q => q.injig && decide ((q.jig.map Jig.parts) = some op.pins)
        | none => false
      let s := updProg s c fun p => { p with
        jcode := BitVec.ofNat 8 code, jorig := 0,
        pend := p.pend ++ [{ eng := e, opcode := opcodeOf op, ecode := 9, sub := 0, eaddr := 0, detail := op.ord % 2 ^ 32 }] }
      leaveDone (others.foldl (fun s k => abortAt s k 0x09 0 0 0) s) c

/-- A synchronous exception of a bundle (R199), or inside a region its abort with EXCEPT (R201). -/
def syncException (s : State) (c code sub slot detail ea : Nat) (epc : BitVec 52) : State :=
  match prog? s c with
  | none => s
  | some p =>
    if p.injig then abortRegion s c 0x08 code (einfoSync sub slot detail) ea
    else takeException s c code (einfoSync sub slot detail) (newEaddr p code ea) epc

/-- An engine records a fault (R186): CSTAT.ENGF is set, its queue is discarded and it takes no more operations until
ENGF is cleared; the fault is held in arrival order. Inside a region the region aborts with EXCEPT (R201). -/
def engineFault (s : State) (c : Nat) (f : EngFault) : State :=
  match prog? s c with
  | none => s
  | some p =>
    let keep := fun (q : List EngOp) => q.filter EngOp.ran
    let s := setProg s c { p with engf := true, faultedEng := if p.faultedEng.contains f.eng then p.faultedEng else p.faultedEng ++ [f.eng],
                                  pend := if p.injig then p.pend else p.pend ++ [f],
                                  queues := mapSet (fun _ => []) p.queues f.eng (keep (queue p f.eng)) }
    let s := engineIdles c s f.eng
    if p.injig then abortRegion s c 0x08 f.ecode (einfoAsync f) f.eaddr else leaveDone s c

end Sys2Proof.Machine
end

