-- ==== Sys2Proof/Machine/Snoop.lean ====
section
/-! DEFINITION. Snoops of the host (R294, R297): what they recall and answer, and when. -/

namespace Sys2Proof.Machine

/-- A snoop of the host can be answered: no request of the complex for the line is outstanding at the host, and none is bringing its
data to a data cache (R294, R452). -/
def snpServes (s : State) (k : Nat) : Bool :=
  s.ep.linkUp && !stopped s && !hostPending s k
    && !(s.txns.any fun t => t.host && decide (t.line = k) && (t.dirty || t.stage = .data))

/-- R297: SnpInv and SnpData of a header line invalidate its watch entries and wake the GFE. -/
def wakeWatch (s : State) (k : Nat) : State :=
  s.gctx.foldl (fun s e =>
    let c := BitVec.ofNat 12 e.1
    if e.2.watch && decide (headerLine s c = k) then globalCtr (setGctx s c { gctx s c with watch := false }) 115 1 else s) s

def watched (s : State) (k : Nat) : Bool := s.gctx.any fun e => e.2.watch && decide (headerLine s (BitVec.ofNat 12 e.1) = k)

/-- The response to a snoop that hits line `l`, with its data or without (R294, R441). -/
def snpHit (s : State) (l : CLine) (data : Bool) : State :=
  send (globalCtr s 75 (if data then 64 else 0)) (.snpRsp l.line true (if data then some l.data else none) l.poison)

/-- SNPINV (R294): every copy is recalled, the device cache's line leaves. -/
def snpInv (s0 : State) (k : Nat) : State :=
  let s := wakeWatch (recallLine s0 true k) k
  match devLine s k with
  | some (slot, l0) =>
    let v := devCheck s l0
    let l := v.1
    snpHit (dropDev v.2 slot) l (l.st = .m)
  | none => send s (.snpRsp k (watched s0 k) none false)

/-- M and O copies of a host line are recalled, an E copy becomes S, S copies stay (R294). -/
def snoopData (s : State) (k : Nat) : State :=
  (allHolders s).foldl (fun s h => match holderLine s true k h with
    | some (slot, l) =>
      if isDirty l.st then devWriteBack (dropHolderLine s h slot) k l.data l.poison
      else setHolderLine s h slot { l with st := .s }
    | none => s) (flushWb s true k)

/-- SNPDATA (R294): the device cache's line becomes S. -/
def snpData (s0 : State) (k : Nat) : State :=
  let s := wakeWatch (snoopData s0 k) k
  match devLine s k with
  | some (slot, l0) =>
    let v := devCheck s l0
    let l := v.1
    snpHit (putDev v.2 slot { l with st := .s }) l (l.st = .m)
  | none => send s (.snpRsp k (watched s0 k) none false)

/-- SNPCUR (R294): nothing is recalled. -/
def snpCur (s : State) (k : Nat) : State :=
  match devLine s k with
  | some (slot, l) =>
    let v := devCheck s l
    snpHit (putDev v.2 slot v.1) v.1 true
  | none => send s (.snpRsp k (watched s k) none false)

def snpAnswer (s : State) (x : SnpWait) : State :=
  match x.kind with
  | 0 => snpInv s x.line
  | 1 => snpData s x.line
  | _ => snpCur s x.line

/-- Waiting snoops of a line are answered in order, once they can be. -/
def serveSnoops (s : State) (k : Nat) : State :=
  if snpServes s k then
    (s.snps.filter fun x => decide (x.line = k)).foldl snpAnswer { s with snps := s.snps.filter fun x => decide (x.line ≠ k) }
  else s

/-- The clocks run again: every line's snoops that waited are answered (R452). -/
def serveAllSnoops (s : State) : State := s.snps.foldl (fun s x => serveSnoops s x.line) s

end Sys2Proof.Machine
end

