-- ==== Sys2Proof/Machine/Records.lean ====
section
/-! DEFINITION. Completion records (R339), the offcut log (R341), GFE writes to local memory, and what every way of
stopping the compute dies shares (R369, R371, R376, R377, R422). -/

namespace Sys2Proof.Machine

/-- R263, R290: a GFE access to a range may proceed: no request is in flight and no host bit stands in the way. -/
def gfeReady (s : State) (a n : Nat) : Bool :=
  (parts a n).all fun q => !lineBusy s false q.1 && hostSnoopOk s q.1 true

/-- The back-invalidations that a GFE access to a range needs (R299). -/
def gfeSnoop (s : State) (a n : Nat) : State :=
  (parts a n).foldl (fun s q => if hostSnoopOk s q.1 true then s else sendBis s q.1 true) s

/-- A GFE write to local memory, performed at PACKAGE: copies are recalled, then the controller is written. -/
def gfePut (s : State) (a : Nat) (d : List Byte) : State :=
  ((parts a d.length).foldl (fun (st : State × List Byte) q =>
    let s := recallLine st.1 false q.1
    (chunkWrite s whoNone q.1 q.2.1 (st.2.take q.2.2) false none, st.2.drop q.2.2)) (s, d)).1

/-- A GFE access is posted until its lines may be accessed; `n` bytes at `a` are asked for. -/
def gfePost (s : State) (a n : Nat) (x : GfePost) : State := { gfeSnoop s a n with posts := s.posts ++ [x] }

/-- A write of the GFE is not yet performed at PACKAGE: it waits for its line, or for its GO (R295, R328). -/
def gfeWrites (s : State) : Bool :=
  !s.posts.isEmpty || s.hreqs.any fun h => decide (h.core = 384) && (decide (h.kind = 3) || decide (h.kind = 4))

/-- A GFE write, performed at once where its lines may be written, else as soon as they may (R299). -/
def gfeWrite (s : State) (a : Nat) (d : List Byte) : State :=
  if gfeReady s a d.length then gfePut s a d else gfePost s a d.length (.write a d)

/-- The lines of a GFE read that a request in flight or the host's copy holds up. -/
def gfeLines (s : State) (a n : Nat) : List Nat :=
  ((parts a n).map Prod.fst).filter fun k => lineBusy s false k || !hostSnoopOk s k false

/-- The back-invalidations that a GFE read of some lines needs (R299). -/
def gfeAsk (s : State) (ls : List Nat) : State := ls.foldl (fun s k => if hostSnoopOk s k false then s else sendBis s k false) s

/-- A GFE read of local memory: the latest copy in the package, and whether a chunk of it is poisoned. -/
def gfeRead (s : State) (w : Who) (a n : Nat) (key : Option Nat) : (List Byte × Bool) × State :=
  (parts a n).foldl (fun (st : (List Byte × Bool) × State) q =>
    let r := snoopAll (useBis st.2 q.1) false q.1 false
    match r.2.data with
    | some (d, p, _, _) => ((st.1.1 ++ (d.drop q.2.1).take q.2.2, st.1.2 || p), r.1)
    | none =>
      let f := chunkRead r.1 w q.1 q.2.1 q.2.2 key
      ((st.1.1 ++ f.1.1, st.1.2 || f.1.2), f.2)) (([], false), s)

def statusCode : TaskStatus → Nat
  | .ok => 0
  | .aborted => 2
  | .tblerr => 3
  | .placeerr => 4

/-- STATUS of an ended task (R339). -/
def taskStatus (t : Task) : Nat :=
  match t.status with
  | .ok => if t.faulted then 1 else 0
  | x => statusCode x

/-- The completion record numbered `n` (R339). -/
def recordWords (t : Task) (n status : Nat) (tEnd : Word) : List Word :=
  let x := t.exc
  [ BitVec.ofNat 64 (n + 1),
    place 63 32 (fld (wordAt t.words 0) 31 0) ||| place 31 16 (fld (wordAt t.words 1) 63 48) ||| place 15 0 (fld (wordAt t.words 1) 47 32),
    place 63 56 status ||| place 55 48 ((x.map TaskExc.ecode).getD 0) ||| place 47 40 ((x.map TaskExc.jigcode).getD 0)
      ||| place 39 32 t.numsum.toNat ||| place 31 16 ((x.map TaskExc.core).getD 0xFFFF),
    (x.map TaskExc.einfo).getD 0,
    place 63 32 t.poisonCnt ||| place 31 0 t.missCnt,
    t.tStart, tEnd, place 63 48 t.cores.length ]

/-- R340: a context is faulted with a cause. -/
def ctxFault (s : State) (c : BitVec 12) (cause : Nat) : State :=
  if rbit s (.ctx c) 0x10 63 then s else setRf (setRf s (.ctx c) 0x10 63 63 1) (.ctx c) 0x10 58 57 cause

/-- R341: a record goes to the offcut log of its context. -/
def offcutWrite (s : State) (c : BitVec 12) (ws : List Word) : State :=
  let base := wkf s (.ctx c) 0x8060 51 12 * 4096
  let k := rf s (.ctx c) 0x8068 31 0
  let s := gfeRing s 0x25 c.toNat (wordAt ws 0)
  setRf (gfeWrite s (base + 64 * (k % 64)) (bytesOfWords ws)) (.ctx c) 0x8068 31 0 (k + 1)

/-- R340: a record is undeliverable. -/
def offcutRecord (s : State) (c : BitVec 12) (ws : List Word) : State :=
  let k := rf s (.ctx c) 0x8068 31 0
  let ovf := decide (64 ≤ k)
  let s := offcutWrite s c ws
  let s := ctxFault s c 1
  raiseAt s (.ctx c) 0x8020 0x8028 (place 0 0 1 ||| (if ovf then place 1 1 1 else 0))

/-- Forget a task whose record has been delivered or logged. -/
def dropTask (s : State) (id : Nat) : State :=
  { s with tasks := s.tasks.filter fun t => t.id ≠ id, recs := s.recs.filter fun r => r.task ≠ id }

/-- R377, R422: an offcut entry for every dispatched task whose record had not received its GO. -/
def indeterminate (s : State) : State :=
  (s.tasks.filter Task.placed).foldl (fun s t =>
    let g := gctx s t.ctx
    let n := match t.issuedRec with
      | some n => n
      | none => g.nrec
    let s := if t.issuedRec.isSome then s else setGctx s t.ctx { g with nrec := g.nrec + 1 }
    offcutWrite s t.ctx (recordWords t n 5 s.stc)) s

/-- Tasks that step 3 of R376 records for a context. -/
def indetCount (s : State) (c : BitVec 12) : Nat := (s.tasks.filter fun t => t.placed && t.ctx = c).length

/-- Write back the dirty local lines of every cache, and those that a request carries (R369). Dirty host lines go to the device cache. -/
def writeBackAll (s : State) : State :=
  let s := s.txns.foldl txnWriteBack s
  let s := s.cores.foldl (fun s e =>
    let wbl := match (core s e.1).wb with
      | some l => [l]
      | none => []
    let ls := wbl ++ ((core s e.1).dcache.map Prod.snd)
    ls.foldl (fun s l => if isDirty l.st then
      (if l.host then devWriteBack s l.line l.data l.poison else chunkWrite s whoNone l.line 0 l.data l.poison l.key) else s) s) s
  s.clusters.foldl (fun s e => (cluster s e.1).ccache.foldl (fun s m => if isDirty m.2.st then ccWriteBack s e.1 m.2 else s) s) s

/-- Write word 1 of a descriptor. -/
def writeDescWord1 (s : State) (a : Nat) (w : Word) : State := gfeWrite s (canon (a + 8)) (toBytes 8 w.toNat)

/-- REFCNT changes by `up` (add 1) or not (subtract 1) (R109). -/
def refStep (s : State) (a : Nat) (up : Bool) : State :=
  if !gfeReady s (canon (a + 8)) 8 then gfePost s (canon (a + 8)) 8 (.ref a up) else
  let r := gfeRead s whoNone (canon (a + 8)) 8 none
  let w := BitVec.ofNat 64 (ofBytes r.1.1)
  let n := fld w 31 0
  writeDescWord1 r.2 a (setFld w 31 0 (if up then n + 1 else n - 1))

/-- Captures are released (R109). -/
def releaseCaps (s : State) (caps : List Nat) : State := caps.foldl (fun s a => refStep s a false) s

/-- The captures held: those of tasks, and those of commands that wait for a placement (R109). -/
def heldCaps (s : State) : List Nat :=
  (s.tasks.flatMap Task.caps) ++ (s.gctx.flatMap fun e => match e.2.capd with
    | some w => w.caps
    | none => [])

/-- R361 step 2, R422 step 3: the device cache writes back its M lines and drops the rest, watch lines included. -/
def devFlush (s : State) : State :=
  let s := s.devc.foldl (fun s e =>
    if e.2.st = .m then
      let v := devCheck s e.2
      cxlRequest v.2 384 5 e.2.line 0 v.1.data v.1.poison
    else cxlRequest s 384 6 e.2.line 0 [] false) s
  let s := s.gctx.foldl (fun s e =>
    let c := BitVec.ofNat 12 e.1
    if e.2.watch then setGctx (cxlRequest s 384 6 (headerLine s c) 0 [] false) c { gctx s c with watch := false } else s) s
  { s with devc := [] }

/-- Whether a block's registers are live: in basic service mode those of blocks without power keep what they held (R423). -/
def regsLive (s : State) (b : Blk) : Bool :=
  decide (phase s ≠ 1) || match b with
    | .gfe | .ep | .pwr | .dbg => true
    | _ => false

/-- Posted GFE writes to local memory and releases of captures are performed once no request is in flight (R263, R422). -/
def performLocal (s : State) : State :=
  s.posts.foldl (fun s x => match x with
    | .write a d => gfeWrite s a d
    | .ref a up => refStep s a up
    | _ => s) { s with posts := [] }

/-- The compute dies stop: every core, cluster, queue, table and request of theirs is gone (R369, R371). Host bits of
the location filters stay. -/
def computeClear (s : State) : State :=
  { s with cores := [], clusters := s.clusters.filterMap fun e => if clusterEmpty e.2 = clusterInit then none else some (e.1, clusterEmpty e.2), txns := [], dir := [], devc := [],
           filt := s.filt.filterMap fun e => if e.2.testBit 8 then some (e.1, 256) else none,
           faults := [], migs := [], posts := s.posts.filter fun x => match x with
             | .write _ _ | .ref _ _ => true
             | _ => false,
           refused := [], nextPrg := 0, atsCpl := [], inv := [], atsInv := [], atsStale := [], lookups := [], copyBacks := [], slotRels := [],
           shares := [], tasks := [], gctx := [], turn := 0, recs := [], lines := [], dtOut := [], chans := [],
           undo := [], watchPend := [], fifos := s.fifos.filter fun e => e.1 = 48, power := { s.power with wakeq := [], grants := [] } }

/-- Every context is disabled (R361, R422). -/
def disableContexts (s : State) : State :=
  s.regs.foldl (fun s e =>
    match locate e.1 with
    | some (.ctx c, 0x8000) => setRf (setRf s (.ctx c) 0x8000 0 0 0) (.ctx c) 0x8008 0 0 1
    | _ => s) s

end Sys2Proof.Machine
end

