-- ==== Sys2Proof/Machine/Fault.lean ====
section
/-! DEFINITION. Fault events and their reactions (R409-R424), fencing, generation numbers (R381), basic service mode,
and the end of every command: its fault events are taken and the interrupt lines settled. -/

namespace Sys2Proof.Machine

/-! Departure of units (R381). -/

def coreInService (s : State) (c : Nat) : Bool :=
  coreEnabled s c && !coreFenced s c && !coreStale s c && !clusterStale s (clusterOf c)

def clusterInService (s : State) (cl : Nat) : Bool := !clusterFenced s cl && !clusterStale s cl

/-- A core departs: its cluster's generation moves and the other cores in service take it. `gated`: only its
scratchpad domain lost power. -/
def departCore (s : State) (c : Nat) (gated : Bool) : State :=
  let cl := clusterOf c
  let g := rf s (bCluster cl) 0x600 15 0 + 1
  let s1 := setRf s (bCluster cl) 0x600 15 0 g
  let s2 := (cores8 cl).foldl (fun s' k =>
    if k ≠ c && coreInService s k then setRf s' (bCore k) 0x600 15 0 g else s') s1
  setRf (setRf s2 (bCore c) 0x600 16 16 1) (bCore c) 0x600 17 17 (boolNat gated)

def departCluster (s : State) (cl : Nat) : State :=
  let g := rf s .gfe 0x3010 15 0 + 1
  let s1 := setRf s .gfe 0x3010 15 0 g
  let s2 := (List.range 48).foldl (fun s' k =>
    if k ≠ cl && clusterInService s k then setRf s' (bCluster k) 0x600 63 48 g else s') s1
  setRf s2 (bCluster cl) 0x600 16 16 1

/-! Fencing (R417, R418). -/

/-- A placed task loses its part at a core, with ECODE 0 and the reacting block's FFIRST (R417). -/
def endPartFenced (s : State) (c : Nat) (t : Task) (einfo : Word) (jig : Nat) : State :=
  let s := updTask s t.id fun t => { firstExc t { ecode := 0, jigcode := jig, core := c, einfo, stc := s.stc } with faulted := true }
  if ((prog? s c).map Prog.task) = some t.id then leaveNow s c 0
  else
    match mapFind? t.saved c with
    | some (_, p) => partEnd s c p 0
    | none => partEnd s c (progInit t.id t.ctx (BitVec.ofNat 32 (fld (wordAt t.words 0) 31 0)) 0) 0

/-- Write back a core's dirty lines; its caches hold nothing afterwards (R417). -/
def flushCore (s : State) (c : Nat) : State :=
  let k := core s c
  let wbl := match k.wb with
    | some l => [l]
    | none => []
  let s := (wbl ++ k.dcache.map Prod.snd).foldl (fun s l => if isDirty l.st then evictDirty s c l else s) s
  setCore s c { core s c with dcache := [], wb := none, fills := [], sbuf := [], icache := [] }

/-- A core that can be fenced now. -/
def fenceable (s : State) (c : Nat) : Bool := coreEnabled s c && !coreFenced s c

/-- A participant that is fenced records FENCED (R201, R230). -/
def fencedPart (s : State) (c : Nat) : State :=
  match prog? s c with
  | some p => match p.jig with
    | some j => updProg (jigEndRecs (abortTrace s c j) c ((prog? (abortTrace s c j) c).getD p) 7) c fun p => { p with jcode := 0x07, injig := false, armed := false, jig := none }
    | none => s
  | none => s

/-- The regions of cores `hit`, fenced together, abort: FENCED there, PEER at the other participants (R230). -/
def fenceRegions (s : State) (hit : List Nat) : State :=
  let part := hit.filter fun c => (regionCores s c).contains c
  let others := ((part.flatMap (regionCores s)).filter fun k => !hit.contains k).eraseDups
  part.foldl fencedPart (others.foldl (fun s k => abortAt s k 0x09 0 0 0) s)

/-- A core is fenced (R417), its region having aborted; `inRegion`: it was a participant. `mark`: its CL_FENCE.CORES bit is set. -/
def fenceOne (s : State) (c : Nat) (einfo : Word) (mark inRegion : Bool) : State :=
  if !fenceable s c then s
  else
    let s := updProg s c fun p => { p with armed := false, jig := none }
    let s := (s.tasks.filter fun t => placedAt t c).foldl (fun s t => endPartFenced s c t einfo (if inRegion then 7 else 0)) s
    let s := flushCore ((s.txns.filter fun t => t.core = c).foldl txnWriteBack s) c
    let s := setCore s c { core s c with power := .c3, waking := false, engOn := 0, engReq := 0 }
    let s := { s with txns := s.txns.filter (fun t => t.core ≠ c), power := { s.power with wakeq := s.power.wakeq.map fun e => (e.1, e.2.filter (· ≠ c)) },
                      copyBacks := s.copyBacks.filter (fun b => b.core ≠ c), slotRels := s.slotRels.filter (fun b => b.core ≠ c),
                      shares := s.shares.filter (fun b => b.core ≠ c) }
    let s := serveAllSnoops (departCore s c false)
    if mark then setRf s (bCluster (clusterOf c)) 0x610 7 0 (rf s (bCluster (clusterOf c)) 0x610 7 0 ||| 2 ^ (c % 8)) else s

/-- Cores are fenced together (R417, R230). -/
def fenceCores (s : State) (l : List Nat) (einfo : Word) (mark : Bool) : State :=
  let hit := l.filter (fenceable s)
  let part := hit.filter fun c => (regionCores s c).contains c
  hit.foldl (fun s c => fenceOne s c einfo mark (part.contains c)) (fenceRegions s hit)

/-- A core is fenced (R417). -/
def fenceCore (s : State) (c : Nat) (einfo : Word) (mark : Bool) : State := fenceCores s [c] einfo mark

/-- A cluster is fenced (R418). -/
def fenceCluster (s : State) (cl : Nat) (einfo : Word) : State :=
  if clusterFenced s cl then s
  else
    let s := fenceCores s (cores8 cl) einfo false
    let s := (cluster s cl).ccache.foldl (fun s m => if isDirty m.2.st then ccWriteBack s cl m.2 else s) s
    let s := setCluster s cl (clusterEmpty (cluster s cl))
    let s := departCluster s cl
    setRf s (bCluster cl) 0x610 8 8 1

/-! Basic service mode (R422). -/

def enterBsm (s : State) (fromGfe : Bool) : State :=
  let fmts := s.cores.filterMap fun e => e.2.prog.map fun p => (e.1, p.fmt)
  let s := releaseCaps (if fromGfe then s else indeterminate s) (heldCaps s)
  let s := devFlush (writeBackAll s)
  let s := serveAllSnoops (disableContexts (performLocal (computeClear s)))
  let s := { s with mcImage := none, power := { s.power with computeOn := false }, heldFmts := fmts }
  let s := setRf s .gfe 0x3110 63 32 0
  setPhase (raise s .gfe 0x3120 0) 1

/-! Events. -/

/-- R414: the reaction of a block's event. -/
def reactNow (s : State) (b : Blk) (code : Nat) (unit : Option Nat) (ff : Word) : State :=
  if phase s = 1 then s
  else match code, unit, b with
    | 1, some c, _ => fenceCore s c ff true
    | 1, none, .cluster n => fenceCluster s n.val ff
    | 2, some c, _ => fenceCluster s (clusterOf c) ff
    | 2, none, .cluster n => fenceCluster s n.val ff
    | 3, _, _ => enterBsm s (b = .gfe)
    | _, _, _ => s

/-- Reactions other than LOG are held while banked and during quench (R424). -/
def react (s : State) (b : Blk) (code : Nat) (unit : Option Nat) : State :=
  if code = 0 then s
  else if phase s = 3 || stopped s then { s with heldReacts := s.heldReacts ++ [{ block := b, code, unit }] }
  else reactNow s b code unit (reg s b 0x60)

/-- The held reactions are taken. -/
def takeHeldReacts (s : State) : State :=
  s.heldReacts.foldl (fun s h => reactNow s h.block h.code h.unit (reg s h.block 0x60)) { s with heldReacts := [] }

/-- FREACT's code for a level (R409). -/
def reactCode (s : State) (b : Blk) (lvl : Nat) : Nat := rf s b 0x58 (2 * lvl + 1) (2 * lvl)

/-- The level at which an event is taken, and the counting state after it (R412). -/
def eventLevel (s : State) (b : Blk) (src : Nat) (d : SrcDef) : Nat × State :=
  let lvl := d.base
  let lvl := if rbit s b 0x40 src && decide (1 ≤ lvl) then lvl + 1 else lvl
  let win := rf s b (0x900 + 8 * src) 31 0
  let thr := rf s b (0xA00 + 8 * src) 15 0
  if win = 0 ∨ thr = 0 then (min lvl 4, s)
  else
    let key := rk b (0x800 + 8 * src)
    let cnt := rf s b (0x800 + 8 * src) 31 0
    let st := mapGet (fun _ => 0) s.wstart key
    let fresh := decide (cnt = 0) || decide (1000 * win ≤ (s.stc - st).toNat)
    let s := if fresh then { s with wstart := mapSet (fun _ => 0) s.wstart key s.stc } else s
    let cnt := (if fresh then 0 else cnt) + 1
    if thr ≤ cnt then (min (max lvl 3) 4, setRf s b (0x800 + 8 * src) 31 0 0)
    else (min lvl 4, setRf s b (0x800 + 8 * src) 31 0 cnt)

/-- A block takes an event (R412, R413, R416, R442). -/
def takeEvent (s : State) (r : Raised) : State :=
  let b := r.block
  match (sources b)[r.src]? with
  | none => s
  | some d =>
    let unit := if d.core then r.unit else none
    let lv := eventLevel s b r.src d
    let lvl := lv.1
    let s := lv.2
    let code := reactCode s b lvl
    let s := setReg s b 0x40 (reg s b 0x40 ||| place r.src r.src 1 ||| (if r.tested then place 60 60 1 else 0))
    let s := setRf s b 0x40 63 61 (max (rf s b 0x40 63 61) lvl)
    let s := setRf s b 0x48 15 0 (rf s b 0x48 15 0 + 1)
    let s := setReg s b (0xB00 + 8 * r.src) (satAdd64 (reg s b (0xB00 + 8 * r.src)) 1)
    let s :=
      if rbit s b 0x60 63 then s
      else
        let s := setReg s b 0x60 (place 63 63 1 ||| place 62 60 lvl ||| place 59 58 code ||| place 57 53 r.src
          ||| place 52 44 (unit.getD 0x1FF) ||| place 43 0 s.stc.toNat)
        match r.addr with
        | some a => setReg s b 0x68 (place 63 63 1 ||| place 51 0 a)
        | none => s
    let s := if lvl = 0 then s else if lvl ≤ 2 then signalCorr s 14 else signalUncorr s 22
    react s b code unit

/-- Events of one step in increasing source number, those of one source in arrival order (R413). -/
def insertRaised (r : Raised) : List Raised → List Raised
  | [] => [r]
  | x :: xs => if x.src ≤ r.src then x :: insertRaised r xs else r :: x :: xs

def sortRaised (l : List Raised) : List Raised := l.foldl (fun m r => insertRaised r m) []

/-- The events that the command raised are taken one at a time, in R413's order. Write-backs of a reaction may raise
more; `n` bounds the rounds. -/
def takeRaised : Nat → State → State
  | 0, s => s
  | n + 1, s =>
    if s.raised.isEmpty then s else takeRaised n ((sortRaised s.raised).foldl takeEvent { s with raised := [] })

/-- A condition source begins to hold and takes its event (R411, R420). -/
def condKey (b : Blk) (src : Nat) : Nat := blkNo b * 32 + src

def condHolds (s : State) (b : Blk) (src : Nat) : Bool := mapGet (fun _ => false) s.conds (condKey b src)

def setCond (s : State) (b : Blk) (src : Nat) (v : Bool) : State :=
  { s with conds := mapSet (fun _ => false) s.conds (condKey b src) v }

def condStart (s : State) (b : Blk) (src : Nat) : State :=
  if condHolds s b src then s else raiseFault (setCond s b src true) b src none none

/-- The end of every command: its fault events are taken, then the interrupt lines settle. -/
def settle (s : State) : State := settleIrq (takeRaised 4 s)

/-- A command's next state. -/
def done (s : State) : Out := .next (settle s)

/-- A command whose conditions do not hold now: nothing happens (log entry 1). -/
def idle (s : State) : Out := .next (settleIrq s)

end Sys2Proof.Machine
end

