-- ==== Sys2Proof/Machine/Clock.lean ====
section
/-! DEFINITION. The passing of time (log entry 4): one step on an empty queue is 5 ns. STC counts nanoseconds
(R163), CCLK runs at 2.4 GHz, at half of it while the root is at HALF (R426), and not while quenched (R451). -/

namespace Sys2Proof.Machine

/-- CCLK cycles left to the stop edge of a triggered quench (R451). -/
def toStop (s : State) : Option Nat := if rf s .dbg 0x200 59 58 = 1 then s.qedge.map fun q => (q.edge - s.cclk).toNat else none

/-- CCLK cycles that pass in 5 ns; none pass the stop edge of a quench. -/
def tickCycles (s : State) : Nat :=
  let n := if stopped s then 0 else if rootHalf s then 6 else 12
  match toStop s with
  | some k => min n k
  | none => n

/-- Region cycles advance from the participant's first region bundle on; the cycles of a slip leave the count as it ends (R202,
`slipEnd`). -/
def jigCycles (n : Nat) (j : Jig) : Jig := if j.last.isSome then { j with cycle := j.cycle + n } else j

/-- The cycles of `n` in which the cluster's clock stands still (R434). -/
def pausedOf (s : State) (n cl : Nat) : Nat := min n (cluster s cl).pause

/-- A cluster's clock pause for `n` cycles: CYC stands still (R163, R434). -/
def pauseCluster (n : Nat) (s : State) (cl : Nat) : State :=
  let k := pausedOf s n cl
  if k = 0 then s
  else setCluster { s with cclkLost := mapSet (fun _ => 0) s.cclkLost cl (mapGet (fun _ => 0) s.cclkLost cl + BitVec.ofNat 64 k) } cl
    { cluster s cl with pause := (cluster s cl).pause - k }

/-- The activity counters of a core for `n` cycles of CCLK, for `k` of which its cluster's clock stands still (R434, R440, R443), and its
region cycles; a pause of the clock is a slip of the region (R220). -/
def countCore (m k : Nat) (s : State) (c : Nat) : State :=
  let n := m - k
  match prog? s c with
  | none => s
  | some p =>
    let s := ctxCtr (coreCtr s c 0 n) p.ctx 8 n
    let s := if (queue p 0).isEmpty then s else coreCtr s c 1 n
    let s := if (queue p 1).isEmpty then s else coreCtr s c 3 n
    if p.injig then coreCtr (updProg s c fun q => { q with jig := q.jig.map (jigCycles m) }) c 13 n else s

/-- DT_TIME.SYNC is 1 while STC is within 2 ns of the manager's time, as far as it is known (R405). -/
def noteSync (s : State) : State :=
  match s.offset with
  | some d => setRf s .dt 0x140 63 63 (boolNat (decide (d.natAbs ≤ 2)))
  | none => s

/-- STC and CCLK after 5 ns; a correction of STC is applied 1 ns at a time (R404). -/
def advanceTime (s : State) : State :=
  if s.stcRun then
    noteSync { s with offset := s.offset.map (fun d => d - s.slew.sign), slew := s.slew - s.slew.sign,
                      stc := s.stc + (if s.slew = 0 then 5 else if 0 < s.slew then 6 else 4),
                      cclk := s.cclk + BitVec.ofNat 64 (tickCycles s) }
  else { s with cclk := s.cclk + BitVec.ofNat 64 (tickCycles s) }

/-- What 5 ns change. -/
def tick (s : State) : State :=
  if tickCycles s = 0 then advanceTime s
  else
    let n := tickCycles s
    let t := (s.cores.map Prod.fst).foldl (fun t c => countCore n (pausedOf s n (clusterOf c)) t c) (advanceTime s)
    (s.clusters.map Prod.fst).foldl (pauseCluster n) t

/-- CYC of a core's cluster (R163). -/
def cycOf (s : State) (c : Nat) : Word := s.cclk - mapGet (fun _ => 0) s.cclkLost (clusterOf c)

end Sys2Proof.Machine
end

