-- ==== Sys2Proof/Machine/Power.lean ====
section
/-! DEFINITION. Power, clocks and ageing (R426-R437): wakes and ramp tokens, engine and core states, rejoin (R382),
the three requests for HALF, thermal pauses and trips, and temper monitors. -/

namespace Sys2Proof.Machine

/-! Wakes (R430-R432). -/

/-- Ask Bellows to wake a core: queued for a token on its die, once; a disabled block takes no request (R41). -/
def requestWake (s : State) (c : Nat) : State :=
  let k := core s c
  let q := mapGet (fun _ => []) s.power.wakeq (dieOf c)
  if k.power = .c0 || k.waking || q.contains c || !coreEnabled s c || coreFenced s c || !blkEn s .pwr then s
  else { s with power := { s.power with wakeq := mapSet (fun _ => []) s.power.wakeq (dieOf c) (q ++ [c]) } }

/-- Power-up of engines of a core is asked for; a core that is not in C0 wakes first (R192, R218). -/
def requestEngines (s : State) (c : Nat) (mask : BitVec 6) : State :=
  requestWake (setCore s c { core s c with engReq := (core s c).engReq ||| (mask &&& ~~~(core s c).engOn) }) c

def tokenRate (s : State) (d : Nat) : Nat :=
  let r := rf s .pwr (0x120 + 8 * d) 3 0
  if r = 0 then 1 else min 8 r

def recentGrants (s : State) (d : Nat) : List Word :=
  (mapGet (fun _ => []) s.power.grants d).filter fun t => decide ((s.stc - t).toNat < 1000)

def execRampTokenGrant (die : Fin 2) (s : State) : Out :=
  let d := die.val
  match mapGet (fun _ => []) s.power.wakeq d with
  | [] => idle s
  | c :: rest =>
    if (recentGrants s d).length < tokenRate s d then
      let s := { s with power := { s.power with wakeq := mapSet (fun _ => []) s.power.wakeq d rest,
                                                grants := mapSet (fun _ => []) s.power.grants d (recentGrants s d ++ [s.stc]) } }
      let s := setRf s .pwr (0x120 + 8 * d) 63 32 (rf s .pwr (0x120 + 8 * d) 63 32 + 1)
      done (setCore s c { core s c with waking := true, wakeAt := s.cclk })
    else idle s

/-- R382: a core rejoins. -/
def coreRejoin (s : State) (c : Nat) : State :=
  let cl := clusterOf c
  let s := zeroRange s (spadBase c) spadSize
  let k := core s c
  let s := (s.txns.filter fun t => t.core = c).foldl txnWriteBack s
  let s := setCore s c { k with dcache := [], wb := none, fills := [], sbuf := [], icache := [], rb := [], prog := none, bundle := [], ncLine := none, accepted := [] }
  let s := { s with copyBacks := s.copyBacks.filter (fun b => b.core ≠ c), slotRels := s.slotRels.filter (fun b => b.core ≠ c),
                    txns := s.txns.filter (fun t => t.core ≠ c) }
  let s := serveAllSnoops s
  let s := setRf s (bCore c) 0x600 15 0 (rf s (bCluster cl) 0x600 15 0)
  setRf s (bCore c) 0x600 17 16 0

/-- R382: a cluster rejoins, and then every one of its cores. -/
def clusterRejoin (s : State) (cl : Nat) : State :=
  let s := setCluster s cl (clusterEmpty (cluster s cl))
  let s := zeroRange s (winBase cl) 0x1000000
  let s := setRf s (bCluster cl) 0x600 63 48 (rf s .gfe 0x3010 15 0)
  let s := setRf s (bCluster cl) 0x600 16 16 0
  ((cores8 cl).filter fun c => coreEnabled s c && !rbit s (bCluster cl) 0x610 (c % 8)).foldl coreRejoin s

/-- R430: a core reaches C0 2,400 CCLK cycles after its grant, rejoining first where it was in C3. -/
def execCoreWakeDone (core : CoreIx) (s : State) : Out :=
  let c := core.val
  let k := Sys2Proof.Machine.core s c
  if k.waking && coreEnabled s c && !coreFenced s c && decide (2400 ≤ (s.cclk - k.wakeAt).toNat) && running s then
    let s1 := if k.power = .c3 && rbit s (bCore c) 0x600 17 then coreRejoin s c
              else if k.power = .c3 then zeroRange s (spadBase c) spadSize else s
    done (setCore s1 c { Sys2Proof.Machine.core s1 c with power := .c0, waking := false, idleAt := s.stc })
  else idle s

/-! Engine and core states (R431). -/

def autoOn (s : State) : Bool := rbit s .pwr 0x118 0

def injigAt (s : State) (c : Nat) : Bool :=
  match prog? s c with
  | some p => p.injig || p.armed
  | none => false

def queueEmpty (s : State) (c e : Nat) : Bool :=
  match prog? s c with
  | some p => (queue p e).isEmpty
  | none => true

def execEnginePowerOn (core : CoreIx) (eng : Fin 6) (s : State) : Out :=
  let k := Sys2Proof.Machine.core s core.val
  if k.engReq.getLsbD eng.val && k.power = .c0 && running s then
    let b : BitVec 6 := 1 <<< eng.val
    done (setCore s core.val { k with engReq := k.engReq &&& ~~~b, engOn := k.engOn ||| b, engAt := mapSet (fun _ => 0) k.engAt eng.val s.cclk })
  else idle s

def execEnginePowerOff (core : CoreIx) (eng : Fin 6) (s : State) : Out :=
  let c := core.val
  let k := Sys2Proof.Machine.core s c
  let th := rf s .pwr 0x118 31 16
  let idleFor := (s.cclk - mapGet (fun _ => 0) k.engAt eng.val).toNat
  if autoOn s && k.engOn.getLsbD eng.val && queueEmpty s c eng.val && !injigAt s c && decide (th ≠ 0) && decide (th ≤ idleFor) then
    done (setCore s c { k with engOn := k.engOn &&& ~~~((1 : BitVec 6) <<< eng.val), idleAt := s.stc })
  else idle s

/-- The core runs no task and has nothing under way: no buffered store, fill, request or Tongs work. -/
def coreQuiet (s : State) (c : Nat) : Bool :=
  let k := core s c
  k.prog.isNone && k.sbuf.isEmpty && k.fills.isEmpty && k.wb.isNone && (s.txns.all fun t => decide (t.core ≠ c))
    && (s.copyBacks.all fun b => decide (b.core ≠ c)) && (s.slotRels.all fun b => decide (b.core ≠ c))
    && s.shares.all fun x => decide (x.core ≠ c)

def execCoreEnterC2 (core : CoreIx) (s : State) : Out :=
  let c := core.val
  let k := Sys2Proof.Machine.core s c
  let th := rf s .pwr 0x118 63 48
  if autoOn s && k.power = .c0 && coreQuiet s c && decide (k.engOn = 0) && decide (th ≠ 0) && decide (1000 * th ≤ (s.stc - k.idleAt).toNat) then
    let s := flushCore s c
    done (setCore s c { Sys2Proof.Machine.core s c with power := .c2, rb := [], engReq := 0, ncLine := none })
  else idle s

/-- No task is placed on the core; a switched-out task still counts (R431). -/
def nonePlaced (s : State) (c : Nat) : Bool := s.tasks.all fun t => !placedAt t c

def execCoreEnterC3 (core : CoreIx) (s : State) : Out :=
  let c := core.val
  let k := Sys2Proof.Machine.core s c
  let th := rf s .pwr 0x118 47 32
  if autoOn s && k.power = .c2 && coreEnabled s c && !coreFenced s c && !k.waking && nonePlaced s c && decide (th ≠ 0) && decide (1000000 * th ≤ (s.stc - k.freeAt).toNat) then
    let s := setCore s c { k with power := .c3 }
    let s := zeroRange s (spadBase c) spadSize
    done (if coreStale s c then s else departCore s c true)
  else idle s

/-! The root: dips, the cap and FORCE_HALF (R426-R429, R433). -/

/-- A request for HALF, and HALF itself (R427). -/
def setHalfReq (s : State) (bit : Nat) (v : Bool) : State :=
  let h := rootHalf s
  let s := setRf s .pwr 0x108 bit bit (boolNat v)
  let s := setRf s .pwr 0x108 3 3 (boolNat (rootHalf s))
  { s with qedge := s.qedge.map fun q => { q with moved := q.moved || h != rootHalf s } }

/-- The latest reading of die `d`'s core rail in millivolts. -/
def railMv (s : State) (d : Nat) : BitVec 16 := mapGet (fun _ => 700) s.power.railMv d

def setRail (s : State) (d : Nat) (mv : BitVec 16) : State :=
  let s := { s with power := { s.power with railMv := mapSet (fun _ => 700) s.power.railMv d mv } }
  setRf s .pwr 0x108 63 48 (min (railMv s 0).toNat (railMv s 1).toNat)

/-- A rail's number, and its reset threshold in millivolts (R428). -/
def railNo : Rail → Nat
  | .core d => d.val
  | .drawer => 2
  | .stack => 3
  | .endpoint => 4

def railReset : Rail → Nat
  | .core _ => 620
  | _ => 660

/-- The compute rails' monitors are off while the rails are: banked, or in basic service mode (R428). -/
def railWatched (s : State) : Rail → Bool
  | .core _ => phase s = 0 || phase s = 2 || s.power.computeOn
  | _ => true

def railLow (s : State) (r : Nat) : Option Word := mapGet (fun _ => none) s.power.railLow r

/-- A reading of a rail: the time since which it is below its reset threshold (R428). -/
def noteRail (s : State) (r : Rail) (mv : BitVec 16) : State :=
  let since := if mv.toNat < railReset r then some ((railLow s (railNo r)).getD s.stc) else none
  { s with power := { s.power with railLow := mapSet (fun _ => none) s.power.railLow (railNo r) since } }

/-- A rail has been below its reset threshold for 20 ns: it is lost (R428). -/
def railLost (s : State) : Bool :=
  s.power.railLow.any fun e => match e.2 with
    | some t => decide (20 ≤ (s.stc - t).toNat)
    | none => false

/-- A reading of a core rail (R429). Below 665 mV the request rises; below 680 mV the 5 µs restart; at or
above 680 mV on both dies they begin. -/
def railReading (s : State) (d : Nat) (mv : BitVec 16) : State :=
  let s := setRail s d mv
  let ok := decide (680 ≤ (railMv s 0).toNat) && decide (680 ≤ (railMv s 1).toNat)
  let since := if ok then (match s.power.okSince with
    | some t => some t
    | none => some s.stc) else none
  let s := { s with power := { s.power with okSince := since } }
  if mv.toNat < 665 ∧ !rbit s .pwr 0x108 0 then
    let s := setHalfReq s 0 true
    let s := setRf s .pwr 0x108 47 32 (min 65535 (rf s .pwr 0x108 47 32 + 1))
    raiseFault (raise s .pwr 0x140 1) .pwr 0 none none
  else s


def execDipRestore (s : State) : Out :=
  match s.power.okSince with
  | some t =>
    if rbit s .pwr 0x108 0 && decide (5000 ≤ (s.stc - t).toNat) then done (raise (setHalfReq s 0 false) .pwr 0x140 2) else idle s
  | none => idle s

def susW (s : State) : Nat := min 2600 (rf s .pwr 0x110 15 0)
def peakW (s : State) : Nat := min 3000 (rf s .pwr 0x110 31 16)

/-- The average of the latest 10 ms, by the values of each microsecond (R433), those before the first being 0; the rounding to watts is
the reading's own. -/
def avgFits (ws : List Nat) (a10 : Nat) : Bool :=
  let t := ws.foldl (· + ·) 0
  decide (t < 10000 * (a10 + 1)) && decide (10000 * a10 < t + 10000)

/-- The latest 10,000 values with one more. -/
def wattsNext (s : State) (a1 : BitVec 16) : List Nat := (a1.toNat :: s.power.watts).take 10000

/-- R433. -/
def powerSampled (s : State) (a1 a10 : BitVec 16) : State :=
  let s := setRf (setRf { s with power := { s.power with watts := wattsNext s a1 } } .pwr 0x100 63 48 a10.toNat) .pwr 0x100 47 32 a1.toNat
  if susW s < a10.toNat ∨ peakW s < a1.toNat then
    let s := { s with power := { s.power with capOkSince := none } }
    if rbit s .pwr 0x108 1 then s else raise (setHalfReq s 1 true) .pwr 0x140 3
  else if a10.toNat * 100 < 95 * susW s then
    let t := match s.power.capOkSince with
      | some t => t
      | none => s.stc
    let s := { s with power := { s.power with capOkSince := some t } }
    if rbit s .pwr 0x108 1 ∧ 1000000 ≤ (s.stc - t).toNat then setHalfReq s 1 false else s
  else { s with power := { s.power with capOkSince := none } }

/-- POWER_SAMPLE (R433): an average that is not that of the values happens to no part. -/
def execPowerSample (avg1us avg10ms : BitVec 16) (s : State) : Out :=
  if avgFits (wattsNext s avg1us) avg10ms.toNat then done (powerSampled s avg1us avg10ms) else idle s

/-! Thermal limits (R434). -/

def tpause (s : State) : Nat := max 85 (min 105 (rf s .pwr 0x200 55 48))

/-- What sensor `i` reads above its limit; none once it does no more. -/
def noteTemp (s : State) (i : Nat) (t : Option Nat) : State :=
  { s with power := { s.power with tj := match t with
    | some v => mapPut s.power.tj i v
    | none => mapDel s.power.tj i } }

/-- The highest junction sensor, as far as it is above a limit (R437). -/
def tjKnown (s : State) : Option Nat := if s.power.tj.isEmpty then none else some (s.power.tj.foldl (fun m e => max m e.2) 0)

/-- What a sensor's reading begins, in one step of PWR_EVT_SEQ (R44, R434): an excursion of cluster `cl`, and the trip. -/
def heatBegins (s : State) (cl : Option Nat) (t : Nat) : State :=
  let exc := (cl.map fun c => !(cluster s c).excursion).getD false
  let trip := decide (120 < t) && !condHolds s .pwr 3
  let s := if exc || trip then raiseAt s .pwr 0x140 0x148 (place 4 4 (boolNat exc) ||| place 5 5 (boolNat trip)) else s
  let s := match exc, cl with
    | true, some c => raiseFault (setCluster s c { cluster s c with excursion := true, pauseFrame := none }) .pwr 1 none none
    | _, _ => s
  if trip then condStart s .pwr 3 else s

/-- THERM_PAUSE_BEGIN: a cluster's sensor reads above TPAUSE_C. -/
def execThermPauseBegin (cluster : ClusterIx) (tempC : BitVec 8) (s : State) : Out :=
  if tempC.toNat ≤ tpause s then done s
  else done (heatBegins (noteTemp s cluster.val (some tempC.toNat)) (some cluster.val) tempC.toNat)

/-- THERM_TRIP: some sensor reads above 120 °C. -/
def execThermTrip (tempC : BitVec 8) (s : State) : Out :=
  if tempC.toNat ≤ 120 then done s else done (heatBegins (noteTemp s 48 (some tempC.toNat)) none tempC.toNat)

/-- The calendar frame of 96 CCLK cycles (R212). -/
def frameNo (s : State) : Nat := s.cclk.toNat / 96

/-- A frame begins in which the cluster's clock may stand: every second one of an excursion (R212, R434). -/
def pauseFrameOk (s : State) (cl : Nat) : Bool :=
  decide (s.cclk.toNat % 96 = 0) && match (cluster s cl).pauseFrame with
    | none => true
    | some f => decide (f < frameNo s) && decide ((frameNo s - f) % 2 = 0)

/-- THERMAL_CLOCK_PAUSE: the cluster's CCLK stands still for 96 cycles, while time passes; slip cause 0x08 of a region (R220). -/
def clockPause (s : State) (cl : Nat) : State :=
  let s := setCluster s cl { cluster s cl with pause := 96, pauseFrame := some (frameNo s) }
  ((cores8 cl).filter fun c => (regionCores s c).contains c && !((cores8 cl).any fun k => decide (k < c) && (regionCores s c).contains k)).foldl
    (fun s c => slipStart s c 8 96) s

def execThermalClockPause (cluster : ClusterIx) (s : State) : Out :=
  if (Sys2Proof.Machine.cluster s cluster.val).excursion && running s && pauseFrameOk s cluster.val then done (clockPause s cluster.val) else idle s

def execThermalExcursionEnd (cluster : ClusterIx) (s : State) : Out :=
  done (noteTemp (setCluster s cluster.val { Sys2Proof.Machine.cluster s cluster.val with excursion := false }) cluster.val none)

def execPllUnlock (s : State) : Out := done (raiseFault s .pwr 4 none none)

/-! Temper monitors (R435, R436). -/

def lifeOf (s : State) (m : Nat) : Nat := rf s .pwr (0x400 + 8 * m) 63 48

/-- The monitor with the lowest prediction, the first of equals, and its months. -/
def lowestLife (s : State) : Nat × Nat :=
  (List.range 128).foldl (fun (b : Nat × Nat) m => if lifeOf s m < b.2 then (m, lifeOf s m) else b) (0, lifeOf s 0)

/-- TEMPER_LOW holds while the lowest prediction is below its limit. -/
def settleTemper (s : State) : State :=
  let l := lowestLife s
  let s := setRf (setRf s .pwr 0x208 63 48 l.2) .pwr 0x208 47 41 l.1
  if l.2 < rf s .pwr 0x200 63 56 then
    (if condHolds s .pwr 2 then s else raise (condStart s .pwr 2) .pwr 0x140 0)
  else setCond s .pwr 2 false

/-- A monitor's value at manufacture: a drift is 0 then, the other metrics are fused (R435). -/
def fusedValue (m : Nat) : Nat := if monKind m = 1 then 0 else Config.fusedMetric m

/-- How far a metric has moved towards its end-of-life limit, and how far it has to go (R435): retention falls, the others rise. -/
def temperTravel (m v : Nat) : Nat × Nat :=
  match monKind m with
  | 1 => (v - fusedValue m, 800 - v)
  | 2 => (fusedValue m - v, v - 983)
  | _ => (v - fusedValue m, 10000 - v)

/-- The linear prediction over `h` hours (R435); a metric that has not moved towards its limit does not reach it. -/
def temperLife (m v h : Nat) : Nat :=
  let x := temperTravel m v
  if h = 0 ∨ x.1 = 0 then 65535 else min 65535 (Config.wholeMonths (h * x.2) x.1)

/-- The period of measurements in nanoseconds (R437). -/
def temperPeriod (s : State) : Nat := 1000000000 * max 60 (rf s .pwr 0x200 31 0)

def temperDue (s : State) (m : Nat) : Bool := decide (temperPeriod s ≤ (s.stc - mapGet (fun _ => 0) s.power.measAt m).toNat)

/-- A monitor's measurement and prediction (R435). -/
def temperMeasured (s : State) (m : Nat) (v : BitVec 16) : State :=
  let life := temperLife m v.toNat (rf s .pwr 0x210 31 0)
  let s := { s with power := { s.power with measAt := mapSet (fun _ => 0) s.power.measAt m s.stc } }
  settleTemper (setRf (setRf s .pwr (0x400 + 8 * m) 39 24 v.toNat) .pwr (0x400 + 8 * m) 63 48 life)

/-- TEMPER_HOURS is written: at 0 no prediction stands (R435). -/
def hoursWritten (s : State) (h : Nat) : State :=
  if h = 0 then settleTemper ((List.range 128).foldl (fun s m => setRf s .pwr (0x400 + 8 * m) 63 48 65535) s) else s

/-- TEMPER_MEASURE (R435), every PERIOD_S seconds of STC. -/
def execTemperMeasure (mon : Fin 128) (value : BitVec 16) (s : State) : Out :=
  if temperDue s mon.val then done (temperMeasured s mon.val value) else idle s

/-- 3,600 s in nanoseconds. -/
def hourNs : Nat := 3600000000000

def execTemperHourTick (s : State) : Out :=
  if hourNs ≤ (s.stc - s.power.hourAt).toNat then
    let s := { s with power := { s.power with hourAt := s.power.hourAt + BitVec.ofNat 64 hourNs } }
    done (setRf s .pwr 0x210 31 0 (rf s .pwr 0x210 31 0 + 1))
  else idle s

end Sys2Proof.Machine
end

