-- ==== Sys2Proof/Machine/Num.lean ====
section
/-! DEFINITION. Numbers (03): exact values, element formats and their entries (R53-R59), decoding, the four rounding
modes and conversion (R64-R67), scale selection (R68), and exact-sum accumulators (R70-R75). -/

namespace Sys2Proof.Machine

/-- An exact value: (-1)^neg * m * 2^e (a zero keeps its sign), an infinity, or NaN. -/
inductive Num where
  | fin (neg : Bool) (m : Nat) (e : Int)
  | inf (neg : Bool)
  | nan
  deriving DecidableEq, Repr

/-- Rounding modes (R64). -/
inductive Rnd where
  | rne | rtz | rup | rdn
  deriving DecidableEq, Repr

/-- A descriptor's RND field: 0 RNE, 1 RTZ, 2 RUP, 3 RDN. -/
def rndOf (n : Nat) : Rnd := if n = 1 then .rtz else if n = 2 then .rup else if n = 3 then .rdn else .rne

/-! Numeric event bits (R78), as masks. -/

def evUF : Nat := 1
def evOF : Nat := 2
def evNV : Nat := 4
def evWOV : Nat := 8
def evTRUNC : Nat := 16
def evNANOUT : Nat := 32
def evLIMIT : Nat := 64
def evFMTERR : Nat := 128

/-! Arithmetic on exact values. -/

def bitLen (m : Nat) : Nat := if m = 0 then 0 else Nat.log2 m + 1

def zeroNum : Num := .fin false 0 0

def Num.isZero : Num → Bool
  | .fin _ m _ => m = 0
  | _ => false

def Num.isNeg : Num → Bool
  | .fin n _ _ => n
  | .inf n => n
  | .nan => false

def Num.negate : Num → Num
  | .fin n m e => .fin (!n) m e
  | .inf n => .inf (!n)
  | .nan => .nan

def Num.abs : Num → Num
  | .fin _ m e => .fin false m e
  | .inf _ => .inf false
  | .nan => .nan

/-- m * 2^e as an integer in units of 2^lo, for lo ≤ e. -/
def scaledInt (neg : Bool) (m : Nat) (e lo : Int) : Int :=
  let v : Int := (m * 2 ^ (e - lo).toNat : Nat)
  if neg then -v else v

def numOfInt (i : Int) (e : Int) : Num := .fin (decide (i < 0)) i.natAbs e

/-- The exact sum; the bool: invalid (∞ - ∞). A zero sum of unlike signs is +0, or -0 under RDN. -/
def numAdd (r : Rnd) (a b : Num) : Num × Bool :=
  match a, b with
  | .nan, _ | _, .nan => (.nan, false)
  | .inf x, .inf y => if x = y then (.inf x, false) else (.nan, true)
  | .inf x, _ => (.inf x, false)
  | _, .inf y => (.inf y, false)
  | .fin n1 m1 e1, .fin n2 m2 e2 =>
    let lo := min e1 e2
    let v := scaledInt n1 m1 e1 lo + scaledInt n2 m2 e2 lo
    if v = 0 then (.fin (if n1 = n2 then n1 else r = .rdn) 0 0, false) else (numOfInt v lo, false)

/-- The exact product; the bool: invalid (∞ × 0). -/
def numMul (a b : Num) : Num × Bool :=
  match a, b with
  | .nan, _ | _, .nan => (.nan, false)
  | .inf x, y => if y.isZero then (.nan, true) else (.inf (x ≠ y.isNeg), false)
  | x, .inf y => if x.isZero then (.nan, true) else (.inf (x.isNeg ≠ y), false)
  | .fin n1 m1 e1, .fin n2 m2 e2 => (.fin (n1 ≠ n2) (m1 * m2) (e1 + e2), false)

/-- A quotient of magnitudes with 64 significant bits or more and a last bit that is 1 where it is inexact: it rounds
in every mode and format here as the exact quotient does. -/
def divJam (m1 : Nat) (e1 : Int) (m2 : Nat) (e2 : Int) : Nat × Int :=
  let k := 66 + bitLen m2
  let q := m1 * 2 ^ k / m2
  let st := if m1 * 2 ^ k % m2 = 0 then 0 else 1
  (2 * q + st, e1 - e2 - k - 1)

/-- The quotient; the bool: invalid (0 ÷ 0, ∞ ÷ ∞). A nonzero value divided by 0 is infinite. -/
def numDiv (a b : Num) : Num × Bool :=
  match a, b with
  | .nan, _ | _, .nan => (.nan, false)
  | .inf _, .inf _ => (.nan, true)
  | .inf x, y => (.inf (x ≠ y.isNeg), false)
  | x, .inf y => (.fin (x.isNeg ≠ y) 0 0, false)
  | .fin n1 m1 e1, .fin n2 m2 e2 =>
    if m2 = 0 then (if m1 = 0 then (.nan, true) else (.inf (n1 ≠ n2), false))
    else if m1 = 0 then (.fin (n1 ≠ n2) 0 0, false)
    else
      let q := divJam m1 e1 m2 e2
      (.fin (n1 ≠ n2) q.1 q.2, false)

/-- Integer square root, by bits from `n` down. -/
def isqrtGo (v : Nat) : Nat → Nat → Nat
  | 0, r => r
  | n + 1, r => let c := r + 2 ^ n; isqrtGo v n (if c * c ≤ v then c else r)

def isqrt (v : Nat) : Nat := isqrtGo v (bitLen v / 2 + 1) 0

/-- 1 ÷ √x of a positive value, with a sticky last bit. -/
def rsqrtJam (m : Nat) (e : Int) : Nat × Int :=
  -- 1/x = q * 2^qe with an even exponent and about 160 bits, then its root
  let e' := if e % 2 = 0 then e else e - 1
  let m' := if e % 2 = 0 then m else 2 * m
  let k := 2 * ((bitLen m' + 1) / 2 + 80)
  let q := 2 ^ k / m'
  let r := isqrt q
  let exact := decide (r * r * m' = 2 ^ k)
  (2 * r + (if exact then 0 else 1), -(e' / 2) - k / 2 - 1)

/-- Comparison of values; none where either is NaN. -/
def numCmp (a b : Num) : Option Ordering :=
  match a, b with
  | .nan, _ | _, .nan => none
  | .inf x, .inf y => some (if x = y then .eq else if x then .lt else .gt)
  | .inf x, _ => some (if x then .lt else .gt)
  | _, .inf y => some (if y then .gt else .lt)
  | .fin n1 m1 e1, .fin n2 m2 e2 =>
    let lo := min e1 e2
    some (compare (scaledInt n1 m1 e1 lo) (scaledInt n2 m2 e2 lo))

def numLt (a b : Num) : Bool := numCmp a b = some .lt
def numEq (a b : Num) : Bool := numCmp a b = some .eq

/-- Rounds m * 2^e, with sign `neg`, to an integer number of units of 2^q. A tie goes to the even count; where the format has
no mantissa bits the counts are 1 and 2, so every tie between powers of two goes up (R64; log entry 170). -/
def roundUnits (r : Rnd) (neg : Bool) (m : Nat) (e q : Int) : Nat :=
  if q ≤ e then m * 2 ^ (e - q).toNat
  else
    let d := (q - e).toNat
    let t := m / 2 ^ d
    let rem := m % 2 ^ d
    let up :=
      if rem = 0 then false
      else match r with
        | .rtz => false
        | .rup => !neg
        | .rdn => neg
        | .rne => decide (2 ^ d < 2 * rem) || (decide (2 * rem = 2 ^ d) && decide (t % 2 = 1))
    if up then t + 1 else t

/-! Formats (R55, R58). -/

structure Fmt where
  cls : Nat
  width : Nat
  ebits : Nat
  mbits : Nat
  bias : Nat
  special : Nat
  sat : Bool
  zsub : Bool
  cbSlot : Nat
  ishift : Nat
  uns : Bool
  valid : Bool
  deriving DecidableEq, Repr

def fmtOf (w : Word) : Fmt :=
  { cls := fld w 63 62, width := fld w 61 56, ebits := fld w 55 52, mbits := fld w 51 47, bias := fld w 46 39,
    special := fld w 38 37, sat := flag w 36, zsub := flag w 35, cbSlot := fld w 34 31, ishift := fld w 30 27,
    uns := flag w 26, valid := flag w 0 }

def fmtWord (f : Fmt) : Word :=
  place 63 62 f.cls ||| place 61 56 f.width ||| place 55 52 f.ebits ||| place 51 47 f.mbits ||| place 46 39 f.bias
    ||| place 38 37 f.special ||| place 36 36 (boolNat f.sat) ||| place 35 35 (boolNat f.zsub)
    ||| place 34 31 f.cbSlot ||| place 30 27 f.ishift ||| place 26 26 (boolNat f.uns) ||| place 0 0 (boolNat f.valid)

def fmtFloat (w e m b sp : Nat) (sat : Bool) : Fmt :=
  { cls := 0, width := w, ebits := e, mbits := m, bias := b, special := sp, sat, zsub := true, cbSlot := 0, ishift := 0, uns := false, valid := true }

def fmtInt (cls w sh : Nat) : Fmt :=
  { cls, width := w, ebits := 0, mbits := 0, bias := 0, special := 0, sat := true, zsub := true, cbSlot := 0, ishift := sh, uns := false, valid := true }

def fmtFp32 : Fmt := fmtFloat 32 8 23 127 2 false
def fmtBf16 : Fmt := fmtFloat 16 8 7 127 2 false
def fmtFp16 : Fmt := fmtFloat 16 5 10 15 2 false
def fmtE4m3 : Fmt := fmtFloat 8 4 3 7 1 true
def fmtE8m0 : Fmt := { fmtFloat 8 8 0 127 1 true with zsub := false, uns := true }
def fmtI32 : Fmt := fmtInt 1 32 0

/-- The fixed entries 0-15 (R58). -/
def fixedFmts : List Fmt :=
  [ fmtFp32, fmtBf16, fmtFp16, fmtE4m3, fmtFloat 8 5 2 15 2 false, fmtFloat 6 3 2 3 0 true, fmtFloat 6 2 3 1 0 true,
    fmtFloat 4 2 1 1 0 true, fmtInt 1 8 6, fmtInt 1 4 0, fmtInt 3 4 0, fmtInt 2 8 0, fmtInt 2 4 0, fmtInt 1 16 0,
    fmtI32, fmtE8m0 ]

/-- Entry `n` of a core's table (R53): fixed, or the task's own; not valid where none is loaded. -/
def fmtEntry (user : SMap Word) (n : Nat) : Fmt :=
  if n < 16 then fixedFmts.getD n fmtFp32 else fmtOf ((mapFind? user n).getD 0)

/-- The checks of R56 on a loaded word; VALID follows from them. -/
def fmtLoadOk (w : Word) : Bool :=
  let f := fmtOf w
  decide (3 ≤ f.width) && decide (f.width ≤ 8) && !f.uns && f.zsub && decide (fld w 25 1 = 0)
    && (if f.cls = 0 then
          decide (1 ≤ f.ebits) && decide (f.ebits ≤ 5) && decide (1 + f.ebits + f.mbits = f.width) && decide (f.bias ≤ 31)
            && (decide (f.special ≠ 2) || decide (2 ≤ f.ebits)) && decide (f.special ≠ 3) && decide (f.ishift = 0) && decide (f.cbSlot = 0)
        else if f.cls = 3 then
          decide (f.width ≤ 4) && decide (f.ebits = 0) && decide (f.mbits = 0) && decide (f.bias = 0) && decide (f.ishift = 0)
            && decide (f.special = 0)
        else
          decide (f.ebits = 0) && decide (f.mbits = 0) && decide (f.bias = 0) && decide (f.special = 0) && decide (f.cbSlot = 0))

/-- The word an FTLD stores: the loaded fields with VALID as the checks give it (R56). -/
def fmtLoaded (w : Word) : Word := setFld w 0 0 (boolNat (fmtLoadOk w))

def Fmt.isInt (f : Fmt) : Bool := f.cls = 1 || f.cls = 2
def Fmt.isCb (f : Fmt) : Bool := f.cls = 3
def Fmt.isE8m0 (f : Fmt) : Bool := f.cls = 0 && !f.zsub

/-! Decoding. -/

def decodeFloat (f : Fmt) (bits : Nat) : Num :=
  let m := bits % 2 ^ f.mbits
  let e := bits / 2 ^ f.mbits % 2 ^ f.ebits
  let neg := !f.uns && (bits / 2 ^ (f.mbits + f.ebits) % 2 = 1)
  let ones := 2 ^ f.ebits - 1
  if f.special = 2 ∧ e = ones then (if m = 0 then .inf neg else .nan)
  else if f.special = 1 ∧ e = ones ∧ m = 2 ^ f.mbits - 1 then .nan
  else if e = 0 ∧ f.zsub then .fin neg m (1 - (f.bias : Int) - f.mbits)
  else .fin neg (2 ^ f.mbits + m) ((e : Int) - f.bias - f.mbits)

def decodeInt (f : Fmt) (scaled : Bool) (bits : Nat) : Num :=
  let i : Int := if f.cls = 1 then signedOf f.width bits else (bits % 2 ^ f.width : Nat)
  numOfInt i (if scaled then -(f.ishift : Int) else 0)

/-- Codebook slots by number; a slot that is not loaded is invalid (R59). -/
def cbSlotOf (cbs : SMap Codebook) (n : Nat) : Codebook :=
  (mapFind? cbs n).getD { valid := false, base := false, bytes := [] }

def decodeCb (cb : Codebook) (ix : Nat) : Num :=
  let b := (cb.bytes.getD ix 0).toNat
  if cb.base then decodeInt (fmtInt 1 8 0) false b else decodeFloat fmtE4m3 b

/-- The value of an element (R58-R60); `scaled`: under a block scale. -/
def decodeEl (f : Fmt) (cbs : SMap Codebook) (scaled : Bool) (bits : Nat) : Num :=
  if f.isCb then decodeCb (cbSlotOf cbs f.cbSlot) (bits % 2 ^ f.width)
  else if f.isInt then decodeInt f scaled bits
  else decodeFloat f bits

/-- A format may be used by an operation with these slots: valid, and its codebook slot valid (R57, R59). -/
def fmtUsable (f : Fmt) (cbs : SMap Codebook) : Bool := f.valid && (!f.isCb || (cbSlotOf cbs f.cbSlot).valid)

/-! Conversion (R65, R66). -/

/-- Largest finite code of a float format, without its sign. -/
def maxCode (f : Fmt) : Nat :=
  if f.special = 2 then (2 ^ f.ebits - 1) * 2 ^ f.mbits - 1
  else if f.special = 1 then 2 ^ (f.ebits + f.mbits) - 2
  else 2 ^ (f.ebits + f.mbits) - 1

def signBit (f : Fmt) (neg : Bool) : Nat := if neg && !f.uns then 2 ^ (f.ebits + f.mbits) else 0

/-- Canonical NaN (R66). -/
def nanCode (f : Fmt) : Option Nat :=
  if f.special = 1 then some (2 ^ (f.ebits + f.mbits) - 1)
  else if f.special = 2 ∧ 1 ≤ f.mbits then some ((2 ^ f.ebits - 1) * 2 ^ f.mbits + 2 ^ (f.mbits - 1))
  else none

/-- Overflow of a finite value rounds to the largest finite value under these modes (R65). -/
def towardZero (r : Rnd) (neg : Bool) : Bool := r = .rtz || (r = .rup && neg) || (r = .rdn && !neg)

/-- The magnitude code of m * 2^e in a format with subnormals, before any check of its range. -/
def magCode (f : Fmt) (r : Rnd) (neg : Bool) (m : Nat) (e : Int) : Nat :=
  let emin : Int := 1 - (f.bias : Int)
  let ex : Int := (bitLen m : Int) - 1 + e
  let top := max ex emin
  (top - emin).toNat * 2 ^ f.mbits + roundUnits r neg m e (top - f.mbits)

def encodeFloat (f : Fmt) (r : Rnd) (x : Num) : Nat × Nat :=
  match x with
  | .nan => match nanCode f with
    | some c => (c, 0)
    | none => (0, evNV)
  | .inf neg =>
    if f.special = 2 then (signBit f neg + (2 ^ f.ebits - 1) * 2 ^ f.mbits, 0)
    else (signBit f neg + maxCode f, evOF)
  | .fin neg m e =>
    if m = 0 then (signBit f neg, 0)
    else
      let c := magCode f r neg m e
      if maxCode f < c then
        if f.special = 2 ∧ f.sat = false ∧ towardZero r neg = false then (signBit f neg + (2 ^ f.ebits - 1) * 2 ^ f.mbits, evOF)
        else (signBit f neg + maxCode f, evOF)
      else (signBit f neg + c, if c = 0 then evUF else 0)

/-- E8M0 (R65): unsigned powers of two without zero. -/
def encodeE8m0 (r : Rnd) (x : Num) : Nat × Nat :=
  match x with
  | .nan => (0xFF, 0)
  | .inf neg => if neg then (0xFF, evNV) else (0xFE, evOF)
  | .fin neg m e =>
    if m = 0 then (0, evUF)
    else if neg then (0xFF, evNV)
    else
      let ex : Int := (bitLen m : Int) - 1 + e
      if ex < -127 then (0, evUF)
      else
        let c := (ex + 127).toNat + (roundUnits r false m e ex - 1)
        if 254 < c then (254, evOF) else (c, 0)

/-- Integer targets; `sh` is the ISHIFT in force. -/
def encodeInt (f : Fmt) (r : Rnd) (sh : Nat) (x : Num) : Nat × Nat :=
  let mx := if f.cls = 1 then 2 ^ (f.width - 1) - 1 else 2 ^ f.width - 1
  let put (neg : Bool) (v : Nat) : Nat := if neg then (2 ^ f.width - v) % 2 ^ f.width else v
  match x with
  | .nan => (0, evNV)
  | .inf neg => if f.cls = 2 ∧ neg then (0, evNV) else (put neg mx, evOF)
  | .fin neg m e =>
    if m = 0 then (0, 0)
    else if f.cls = 2 ∧ neg then (0, evNV)
    else
      let v := roundUnits r neg m e (-(sh : Int))
      if mx < v then (put neg mx, evOF) else (put neg v, if v = 0 then evUF else 0)

/-- |a - b| of finite values. -/
def numDist (a b : Num) : Num := (numAdd .rne a b.negate).1.abs

/-- The codebook index nearest by value, ties to the lower index (R65); NaN entries are never nearest, and an infinity takes
the largest or smallest entry and sets no flag (log entry 171). -/
def encodeCb (cb : Codebook) (width : Nat) (x : Num) : Nat × Nat :=
  match x with
  | .nan => (0, evNV)
  | _ =>
    let better (i j : Nat) : Bool :=
      match decodeCb cb i, decodeCb cb j with
      | .nan, _ => false
      | _, .nan => true
      | a, b => match x with
        | .inf neg => if neg then numLt a b else numLt b a
        | v => numLt (numDist a v) (numDist b v)
    ((List.range (2 ^ width)).foldl (fun best i => if better i best then i else best) 0, 0)

/-- Conversion of an exact value into a format (R65): the code and the flags it sets. -/
def encodeEl (f : Fmt) (cbs : SMap Codebook) (scaled : Bool) (r : Rnd) (x : Num) : Nat × Nat :=
  if f.isCb then encodeCb (cbSlotOf cbs f.cbSlot) f.width x
  else if f.isInt then encodeInt f r (if scaled then f.ishift else 0) x
  else if f.isE8m0 then encodeE8m0 r x
  else encodeFloat f r x

/-- Was the written result a NaN? -/
def isNanCode (f : Fmt) (c : Nat) : Bool := !f.isInt && !f.isCb && (decodeFloat f c = .nan)

def dec32 (b : BitVec 32) : Num := decodeFloat fmtFp32 b.toNat
def enc32 (r : Rnd) (x : Num) : BitVec 32 := BitVec.ofNat 32 (encodeFloat fmtFp32 r x).1

/-- FP32 addition and multiplication with one rounding. -/
def add32 (a b : BitVec 32) : BitVec 32 := enc32 .rne (numAdd .rne (dec32 a) (dec32 b)).1
def mul32 (a b : BitVec 32) : BitVec 32 := enc32 .rne (numMul (dec32 a) (dec32 b)).1

/-! Packed rows of elements (R82). -/

/-- Element `i` of a row of packed elements of `w` bits. -/
def elemBits (w : Nat) (row : List Byte) (i : Nat) : Nat :=
  let lo := i * w
  let b := lo / 8
  (ofBytes ((row.drop b).take 5) >>> (lo % 8)) % 2 ^ w

/-- The bytes that `n` elements of `w` bits fill. -/
def rowBytes (w n : Nat) : Nat := (n * w + 7) / 8

/-- Pack codes into bytes, zero above the last element. -/
def packRow (w : Nat) (codes : List Nat) : List Byte :=
  toBytes (rowBytes w codes.length) (codes.foldr (fun c acc => acc * 2 ^ w + c % 2 ^ w) 0)

/-! Block scales (R60, R61, R68). -/

/-- A block scale's value: format E8M0 (`sf` false) or E4M3; NaN where its sign is set (R61). -/
def scaleNum (sf : Bool) (code : Nat) : Num :=
  if sf then (if 128 ≤ code % 256 then .nan else decodeFloat fmtE4m3 code) else decodeFloat fmtE8m0 code

/-- An element under its block's scale (R60, R61). -/
def scaledEl (scale v : Num) : Num :=
  match scale with
  | .nan => .nan
  | s => if s.isZero then zeroNum else (numMul s v).1

/-- Largest finite value of an element format under a block scale (R68); of a codebook, the largest magnitude of its finite
entries (log entry 172). -/
def maxFinite (f : Fmt) (cbs : SMap Codebook) : Num :=
  if f.isCb then
    (List.range (2 ^ f.width)).foldl (fun best i =>
      match decodeCb (cbSlotOf cbs f.cbSlot) i with
      | .fin _ m e => if numLt best (.fin false m e) then .fin false m e else best
      | _ => best) zeroNum
  else if f.isInt then .fin false (if f.cls = 1 then 2 ^ (f.width - 1) - 1 else 2 ^ f.width - 1) (-(f.ishift : Int))
  else decodeFloat f (maxCode f)

/-- floor(log2 |x|) of a nonzero finite value. -/
def log2Floor : Num → Int
  | .fin _ m e => (bitLen m : Int) - 1 + e
  | _ => 0

def clamp127 (x : Int) : Int := max (-127) (min 127 x)

/-- The scale code for a block (R68): mode 1 FLOOR, 2 CEIL, 3 E4M3. -/
def scaleFor (mode : Nat) (f : Fmt) (cbs : SMap Codebook) (vs : List Num) : Nat :=
  let sf := decide (mode = 3)
  if vs.any fun v => v = .nan then (if sf then 0x7F else 0xFF)
  else
    let amax := vs.foldl (fun b v => match v with
      | .fin _ m e => if numLt b (.fin false m e) then .fin false m e else b
      | _ => b) zeroNum
    let mx := maxFinite f cbs
    if amax.isZero then
      if vs.any fun v => match v with
        | .inf _ => true
        | _ => false
      then (if sf then 0x38 else 127) else 0
    else
      let x0 := log2Floor amax - log2Floor mx
      if mode = 1 then (clamp127 x0 + 127).toNat
      else if mode = 2 then
        let fits := match mx with
          | .fin n m e => !numLt (.fin n m (e + x0)) amax
          | _ => true
        (clamp127 (if fits then x0 else x0 + 1) + 127).toNat
      else
        let c := (encodeFloat fmtE4m3 .rup (numDiv amax mx).1).1
        if c = 0 then 1 else c

/-- A value divided by its block's scale (R68); with a zero scale its zeros stay zeros (log entry 50). -/
def unscale (sf : Bool) (code : Nat) (v : Num) : Num :=
  match scaleNum sf code with
  | .nan => .nan
  | s => if s.isZero then v else (numDiv v s).1

/-! Exact-sum accumulators (R70-R75). -/

def accZero : Acc := { value := 0, nan := false, pinf := false, ninf := false, wov := false, trunc := false, count := 0 }

def accLimit : Nat := 2 ^ 24 - 1

/-- An exact contribution of one block (R71 steps 3-5). -/
def accAdd (a : Acc) (c : Num) : Acc :=
  match c with
  | .fin neg m e =>
    let big := !numLt (.fin false m e) (.fin false 1 63)
    let x : Int := if big then 2 ^ 191 else 0
    let sh := e + 128
    let mag : Int := if big then x else if 0 ≤ sh then (m * 2 ^ sh.toNat : Nat) else 0
    let sm : Int := if neg then -(m : Int) else m
    let small := !big && decide (sh < 0)
    let t : Int := if small then sm / (2 ^ (-sh).toNat : Nat) else if neg then -mag else mag
    let tr := small && decide (sm % (2 ^ (-sh).toNat : Nat) ≠ 0)
    { a with value := a.value + BitVec.ofInt 224 t, wov := a.wov || big, trunc := a.trunc || tr, count := a.count + 1 }
  | .inf neg => { a with pinf := a.pinf || !neg, ninf := a.ninf || neg, count := a.count + 1 }
  | .nan => { a with nan := true, count := a.count + 1 }

/-- Two partials combine (R75): their 224-bit fields add modulo 2^224 (log entry 175). -/
def accMerge (a b : Acc) : Acc :=
  { value := a.value + b.value, nan := a.nan || b.nan, pinf := a.pinf || b.pinf, ninf := a.ninf || b.ninf,
    wov := a.wov || b.wov, trunc := a.trunc || b.trunc, count := a.count + b.count }

/-- The event bits an accumulator's WOV and TRUNC set (R73). -/
def accFlags (a : Acc) : Nat := (if a.wov then evWOV else 0) ||| (if a.trunc then evTRUNC else 0)

/-- The value a readout rounds (R73 steps 1-3), with its flags. -/
def accNum (a : Acc) : Num × Nat :=
  if a.nan then (.nan, accFlags a)
  else if a.pinf && a.ninf then (.nan, accFlags a ||| evNV)
  else if a.pinf then (.inf false, accFlags a)
  else if a.ninf then (.inf true, accFlags a)
  else
    let v := max (-(2 ^ 191 : Int)) (min (2 ^ 191 - 1) a.value.toInt)
    (numOfInt v (-128), accFlags a ||| (if v = a.value.toInt then 0 else evWOV))

/-- XP32 (R75). -/
def accBytes (a : Acc) : List Byte :=
  toBytes 32 (a.value.toNat + 2 ^ 224 * (boolNat a.nan + 2 * boolNat a.pinf + 4 * boolNat a.ninf
    + 8 * boolNat a.wov + 16 * boolNat a.trunc) + 2 ^ 231 * (a.count % 2 ^ 25))

/-- The partial that 32 bytes hold; none where it is malformed (R75). -/
def accOfBytes (bs : List Byte) : Option Acc :=
  let w := ofBytes bs
  if bitsN w 230 229 ≠ 0 ∨ 2 ^ 24 ≤ bitsN w 255 231 then none
  else some { value := BitVec.ofNat 224 w, nan := w.testBit 224, pinf := w.testBit 225, ninf := w.testBit 226,
              wov := w.testBit 227, trunc := w.testBit 228, count := bitsN w 255 231 }

end Sys2Proof.Machine
end

