-- ==== Sys2Proof/Machine/Xlate.lean ====
section
/-! DEFINITION. Range translation and page faults (R303-R321): range buffers, the cluster fault trackers and the
mirror walk, ATS and page requests, migration by granule, and invalidation. `access` checks and translates every
access of a task (R239, R304). -/

namespace Sys2Proof.Machine

/-! Range buffers (R303, R304). -/

def rbOf (s : State) (c ag : Nat) : List RangeEnt := mapGet (fun _ => []) (core s c).rb ag

def setRb (s : State) (c ag : Nat) (l : List RangeEnt) : State :=
  setCore s c { core s c with rb := mapSet (fun _ => []) (core s c).rb ag l }

def setRb2 (s : State) (cl : Nat) (l : List RangeEnt) : State :=
  setCluster s cl { cluster s cl with rb2 := l }

def entCovers (e : RangeEnt) (ctx : BitVec 12) (a : Nat) : Bool :=
  decide (e.ctx = ctx) && decide (e.start ≤ a) && decide (a < e.start + e.len)

/-- The permission bit `need` (R240) of a range entry. -/
def entAllows (e : RangeEnt) (need : Nat) : Bool :=
  if need = 51 then e.r else if need = 50 then e.w else if need = 49 then e.x else e.a

/-- A cached entry serves an access: a host entry whose completion lacked the permission is no hit (R308). -/
def entServes (e : RangeEnt) (ctx : BitVec 12) (a need : Nat) : Bool :=
  entCovers e ctx a && (!e.host || entAllows e need)

/-- Insert as the most recently used of `n` entries (R304: replacement is least recently used). -/
def rbInsert (n : Nat) (l : List RangeEnt) (e : RangeEnt) : List RangeEnt := (e :: l.filter (· ≠ e)).take n

def taskAt (s : State) (c : Nat) : Nat := ((prog? s c).map Prog.task).getD 0

def isFailed : TrkStage → Bool
  | .failed _ _ => true
  | _ => false

def setTrk (s : State) (cl : Nat) (l : List Trk) : State := setCluster s cl { cluster s cl with trk := l }

/-- Untranslated host address of a translated CA under a host range. -/
def untranslated (e : RangeEnt) (ca : Nat) : Nat := e.target + (ca - e.start)

/-- The untranslated host page an entry of a tracker waits for. -/
def hostPageOf (t : Trk) : Nat :=
  match t.ent with
  | some e => untranslated e (t.page * 4096) / 4096
  | none => 0

/-- What an entry of a tracker stands for: the CA page being walked, a granule, or a host page; entries of one are one (R310). -/
def trkKey (t : Trk) : Nat × Nat × Nat :=
  (t.ctx.toNat, if t.stage = .walk then (0, t.page) else if t.gsize ≠ 0 then (1, t.gst) else (2, hostPageOf t))

/-- The entry takes a place in its tracker. -/
def isOpen (t : Trk) : Bool := !isFailed t.stage && decide (t.stage ≠ .stalled)

/-- The pages that a tracker holds (R310). -/
def trkUsed (ts : List Trk) : Nat := ((ts.filter isOpen).map trkKey).eraseDups.length

/-- A write joins a page at the GFE fault unit (R311). -/
def askWrite (s : State) (ctx : BitVec 12) (page : Nat) : State :=
  { s with faults := s.faults.map fun f => if f.ctx = ctx ∧ f.page = page then { f with write := true } else f }

/-- A miss in both levels (R310): the fault joins or takes an entry of the cluster's fault tracker. A fault that joins an entry whose
range is known is checked against it (R307), and a write that joins a page at the fault unit asks for write (R311). -/
def xltMiss {α : Type} (c ag : Nat) (ctx : BitVec 12) (a need first last : Nat) : M α := do
  let s ← get
  let cl := clusterOf c
  let me : Waiter := { core := c, task := taskAt s c, agent := ag, need, last }
  let ts := (cluster s cl).trk
  let here := fun (t : Trk) => decide (t.ctx = ctx) && decide (t.page = a / 4096)
  match ts.find? fun t => here t && isFailed t.stage && t.waiters.contains me with
  | some t =>
    let t' := { t with waiters := t.waiters.filter (· ≠ me) }
    set (setTrk s cl (if t'.waiters.isEmpty then ts.filter (· ≠ t) else ts.map fun x => if x = t then t' else x))
    match t.stage with
    | .failed code sub => throw (.exc code sub first 0)
    | _ => throw .wait
  | none =>
    match ts.find? fun t => here t && isOpen t with
    | some t =>
      if t.waiters.contains me then throw (if isParked t.stage then .park else .wait)
      match t.ent with
      | some e =>
        if e.len ≠ 0 then
          if e.rend < last + 1 then throw (.exc 4 2 first 0)
          if !entAllows e need then throw (.exc 4 3 first 0)
      | none => pure ()
      let s := if t.stage = .page ∧ (need = 50 ∨ need = 48) then askWrite s ctx (hostPageOf t) else s
      let s := setTrk s cl (ts.map fun x => if x = t then { x with waiters := x.waiters ++ [me] } else x)
      set (clusterCtr (clusterCtr (coreCtr s c 18 1) cl 5 1) cl 7 1)
      throw (if isParked t.stage then .park else .wait)
    | none =>
      let new : Trk := { ctx, page := a / 4096, stage := .walk, ent := none, gst := 0, gsize := 0, waiters := [me] }
      if 64 ≤ trkUsed ts then
        set (if ts.any fun t => decide (t = { new with stage := .stalled }) then s
          else raise (setTrk s cl (ts ++ [{ new with stage := .stalled }])) (bCluster cl) 0x500 0)
        throw .wait
      else
        let s := setTrk s cl ((ts.filter fun t => !(decide (t.stage = .stalled) && (t.waiters.isEmpty || t.waiters.contains me))) ++ [new])
        set (clusterCtr (coreCtr s c 18 1) cl 5 1)
        throw .wait

/-- The range entry that serves an access of agent `ag` at translated CA `a` (R304 steps 1 to 3). -/
def xltEnt (c ag : Nat) (ctx : BitVec 12) (a need first last : Nat) : M RangeEnt := do
  let s ← get
  let cl := clusterOf c
  let live := fun e => entServes e ctx a need && (!e.host || atsOn s)
  match (rbOf s c ag).find? live with
  | some e =>
    set (setRb s c ag (rbInsert 16 (rbOf s c ag) e))
    return e
  | none =>
    let q := match (cluster s cl).rb2.find? live with
      | some e =>
        let r := fireInjection s (bCluster cl) 5 none none
        if r.1 then (none, setRb2 r.2 cl ((cluster r.2 cl).rb2.filter (· ≠ e))) else (some e, r.2)
      | none => (none, s)
    let s := q.2
    set s
    match q.1 with
    | some e =>
      let s := setRb s c ag (rbInsert 16 (rbOf s c ag) e)
      set (coreCtr (setRb2 s cl (rbInsert 2048 (cluster s cl).rb2 e)) c 18 1)
      return e
    | none => xltMiss c ag ctx a need first last

/-- A hole for an access of agent `ag` of core `c`; what the sequencer has accepted at a far-memory port completes (R390, R391). -/
def holeFor (s : State) (c ag a : Nat) : Bool := isHole s a && !(decide (ag = 0) && (core s c).accepted.contains (a / 64))

/-- The pieces of a translated access (R307), none crossing 4 KiB. -/
def xltPieces (c ag : Nat) (ctx : BitVec 12) (need first : Nat) : Nat → Nat → Nat → M (List (Target × Nat))
  | 0, _, _ => return []
  | fuel + 1, a, n => do
    if n = 0 then return []
    let e ← xltEnt c ag ctx a need first (a + n - 1)
    if e.rend < a + n then throw (.exc 4 2 first 0)
    if !entAllows e need then throw (.exc 4 3 first 0)
    let s ← get
    let t := e.target + (a - e.start)
    let l := min n (4096 - a % 4096)
    let enc := e.enc && !e.host && encApplies (canon t)
    if !e.host && holeFor s c ag (canon t) then throw (.exc 4 4 first 0)
    if enc && (keyAt s e.key).isNone then throw (.exc 4 3 first 0)
    let tgt : Target := { host := e.host, io := e.io, addr := if e.host then t else canon t, cc := e.cc, key := if enc then some e.key else none }
    let rest ← xltPieces c ag ctx need first fuel (a + l) (n - l)
    return (tgt, l) :: rest

/-- The pieces of an access to a CA with bit 51 at 0, none crossing 4 KiB (R237). -/
def segPieces (t : Word) : Nat → Nat → Nat → List (Target × Nat)
  | 0, _, _ => []
  | fuel + 1, a, n =>
    if n = 0 then [] else
      let l := min n (4096 - a % 4096)
      (segTarget a t, l) :: segPieces t fuel (a + l) (n - l)

/-- The check and translation of an access of `n` bytes at `a` by agent `ag` of core `c` (R239, R304, R307): the
targets of its pieces with their lengths. -/
def access (c ag : Nat) (ctx : BitVec 12) (a n : Nat) (p : Perm) : M (List (Target × Nat)) := do
  if n = 0 then return []
  if 2 ^ 52 ≤ a then throw (.exc 4 6 a 0)
  let s ← get
  if 2 ^ 51 ≤ a then
    if !flag (wk s (.ctx ctx) 0x8100) 63 then throw (.exc 4 1 a 0)
    xltPieces c ag ctx p.bit a (n / 4096 + 2) a n
  else
    match segCheck s ctx a n p with
    | .error sub => throw (.exc 4 sub a 0)
    | .ok t =>
      if holeFor s c ag (canon a) || holeFor s c ag (canon (a + n - 1)) then throw (.exc 4 4 a 0)
      return segPieces t (n / 4096 + 2) a n

/-! Reads and writes of checked pieces, coherently (R290, R295). -/

/-- A row as read: its bytes, and for each byte whether its chunk is poisoned. -/
structure Row where
  bytes : List Byte
  pois : List Bool
  deriving DecidableEq, Repr

def Row.append (x y : Row) : Row := { bytes := x.bytes ++ y.bytes, pois := x.pois ++ y.pois }

def rowNil : Row := { bytes := [], pois := [] }

/-- Is any byte of the row poisoned? -/
def Row.bad (r : Row) : Bool := r.pois.any id

def readPart (w : Who) (t : Target) (k off n : Nat) : M (List Byte × Bool) :=
  if t.host then hostRead w k off n else cohRead w t k off n

def readParts (w : Who) (t : Target) : List (Nat × Nat × Nat) → M Row
  | [] => return rowNil
  | (k, off, n) :: rest => do
    let d ← readPart w t k off n
    let r ← readParts w t rest
    return Row.append { bytes := d.1, pois := List.replicate n d.2 } r

def readPieces (w : Who) : List (Target × Nat) → M Row
  | [] => return rowNil
  | (t, n) :: rest => do
    let x ← readParts w t (parts t.addr n)
    let y ← readPieces w rest
    return Row.append x y

/-- A core writes by CXL.io (R295). -/
def noteIo (s : State) (c : Option Nat) : State :=
  match c with
  | some c => { s with ep := { s.ep with ioSent := if s.ep.ioSent.contains c then s.ep.ioSent else s.ep.ioSent ++ [c] } }
  | none => s

/-- One part of a write: CXL.io for host I/O ranges (R300, R301), else coherent. -/
def writePart (w : Who) (t : Target) (k off : Nat) (d : List Byte) (p : Bool) : M Unit := do
  if t.io then
    modify fun s => globalCtr (upstream (noteIo s w.core) (.ioWrite (k * 64 + off) d p)) 73 d.length
    modify fun s => match w.ctx with
      | some c => ctxCtr s c 6 d.length
      | none => s
  else if t.host then hostWrite w k off d p
  else cohWrite w t k off d p

/-- Write a row; a part is poisoned where any byte of it is. -/
def writeParts (w : Who) (t : Target) : List (Nat × Nat × Nat) → Row → M Unit
  | [], _ => return ()
  | (k, off, n) :: rest, r => do
    writePart w t k off (r.bytes.take n) ((r.pois.take n).any id)
    writeParts w t rest { bytes := r.bytes.drop n, pois := r.pois.drop n }

def writePieces (w : Who) : List (Target × Nat) → Row → M Unit
  | [], _ => return ()
  | (t, n) :: rest, r => do
    writeParts w t (parts t.addr n) { bytes := r.bytes.take n, pois := r.pois.take n }
    writePieces w rest { bytes := r.bytes.drop n, pois := r.pois.drop n }

def cleanRow (d : List Byte) : Row := { bytes := d, pois := d.map fun _ => false }

/-! The mirror walk (R305, R306). -/

/-- An entry of a mirror array, as its four words give it. -/
structure MirrorEnt where
  valid : Bool
  start : Nat
  len : Nat
  ws : List Word
  deriving DecidableEq, Repr

def granBytes (g : Nat) : Nat := [0x10000, 0x40000, 0x100000, 0x200000].getD g 0x10000

/-- R305: is the entry well formed for a context? -/
def mirrorEntOk (s : State) (c : BitVec 12) (ws : List Word) : Bool :=
  let w0 := wordAt ws 0
  let w1 := wordAt ws 1
  let w2 := wordAt ws 2
  let w3 := wordAt ws 3
  let start := fld w0 51 12 * 4096
  let len := fld w1 39 0 * 4096
  let target := fld w2 56 12 * 4096
  let kind := fld w2 63 62
  let gran := granBytes (fld w1 46 45)
  decide (w0 &&& ~~~(fieldMask 63 63 ||| fieldMask 51 12) = 0) && flag w0 51
    && decide (w1 &&& ~~~(fieldMask 63 57 ||| fieldMask 56 45 ||| fieldMask 39 0) = 0) && decide (len ≠ 0)
    && decide (w2 &&& ~~~(fieldMask 63 62 ||| fieldMask 56 12) = 0) && decide (kind ≠ 3)
    && (!flag w1 60 || (flag w1 63 && flag w1 62))
    && keyInRange s c (fld w1 57 48)
    && (if flag w1 47 then decide (kind = 1) && decide (start % gran = 0) && decide (target % gran = 0)
          && decide (len % gran = 0) && decide (w3 &&& ~~~(fieldMask 51 3) = 0)
        else decide (w3 = 0))
    && (if kind = 0 then decide (target < 2 ^ 51) && encApplies (canon target) else decide (target + len ≤ 2 ^ 57))

/-- What a read at a controller gives: a value; none, for poison or a CA elsewhere; or the line that the host must give up first. -/
inductive CtlRead (α : Type) where
  | got (x : α)
  | bad
  | held (k : Nat)
  deriving DecidableEq, Repr

/-- A word read at its stack or drawer controller, past every cache of the package (R306). -/
def walkWord (s : State) (a : Nat) : CtlRead Word × State :=
  match caKind (canon a) with
  | .stack _ _ | .drawer _ _ =>
    if isHole s (canon a) then (.bad, s)
    else if !hostSnoopOk s (canon a / 64) false then (.held (canon a / 64), s)
    else
      let r := chunkRead s whoNone (canon a / 64) (a % 64) 8 none
      (if r.1.2 then .bad else .got (BitVec.ofNat 64 (ofBytes r.1.1)), spendBis r.2 (canon a / 64))
  | _ => (.bad, s)

def walkWords (s : State) (a : Nat) : Nat → CtlRead (List Word) × State
  | 0 => (.got [], s)
  | n + 1 =>
    let r := walkWord s a
    match r.1 with
    | .bad => (.bad, r.2)
    | .held k => (.held k, r.2)
    | .got w =>
      let t := walkWords r.2 (a + 8) n
      match t.1 with
      | .got ws => (.got (w :: ws), t.2)
      | x => (x, t.2)

/-- What a walk found: nothing, a malformed mirror, a line that the host must give up first, or an entry. -/
inductive Walk where
  | noRange
  | bad
  | held (k : Nat)
  | found (e : MirrorEnt)
  deriving DecidableEq, Repr

/-- The search of R306 over entries lo .. hi-1; `below` is the last entry read at or below the CA, `above` the start
of the last one read above it. -/
def walkSearch (c : BitVec 12) (arr ca : Nat) : Nat → Nat → Nat → Option MirrorEnt → Nat → State → Walk × State
  | 0, _, _, _, _, s => (.bad, s)
  | fuel + 1, lo, hi, below, above, s =>
    if lo < hi then
      let mid := (lo + hi) / 2
      let r := walkWords s (arr + 32 + 32 * mid) 4
      match r.1 with
      | .bad => (.bad, r.2)
      | .held k => (.held k, r.2)
      | .got ws =>
        let e : MirrorEnt := { valid := flag (wordAt ws 0) 63, start := fld (wordAt ws 0) 51 12 * 4096, len := fld (wordAt ws 1) 39 0 * 4096, ws }
        let prev := match below with
          | some b => b.start + b.len
          | none => 0
        if !mirrorEntOk r.2 c ws || e.start < prev || above < e.start + e.len then (.bad, r.2)
        else if e.start ≤ ca then walkSearch c arr ca fuel (mid + 1) hi (some e) above r.2
        else walkSearch c arr ca fuel lo mid below e.start r.2
    else
      match below with
      | none => (.noRange, s)
      | some e => if e.valid && ca < e.start + e.len then (.found e, s) else (.noRange, s)

/-- The header of a context's mirror: array CA and its four words. -/
def mirrorHeader (s : State) (c : BitVec 12) : CtlRead (Nat × List Word) × State :=
  let r := walkWord s (wkf s (.ctx c) 0x8100 51 3 * 8)
  match r.1 with
  | .bad => (.bad, r.2)
  | .held k => (.held k, r.2)
  | .got root =>
    let arr := fld root 51 5 * 32
    let h := walkWords r.2 arr 4
    match h.1 with
    | .bad => (.bad, h.2)
    | .held k => (.held k, h.2)
    | .got ws =>
      if fld (wordAt ws 0) 63 48 = 0x4D52 ∧ fld (wordAt ws 0) 20 0 ≤ 2 ^ 20 then (.got (arr, ws), h.2) else (.bad, h.2)

/-- The walk of R306 for a translated CA. -/
def mirrorWalk (s : State) (c : BitVec 12) (ca : Nat) : Walk × State :=
  let h := mirrorHeader s c
  match h.1 with
  | .bad => (.bad, h.2)
  | .held k => (.held k, h.2)
  | .got (arr, ws) => walkSearch c arr ca 23 0 (fld (wordAt ws 0) 20 0) none (2 ^ 64) h.2

/-- The range entry of a mirror entry (R305, R307); a host I/O range serves writes only. -/
def rangeOf (c : BitVec 12) (e : MirrorEnt) : RangeEnt :=
  let w1 := wordAt e.ws 1
  let w2 := wordAt e.ws 2
  let io := decide (fld w2 63 62 = 2)
  { ctx := c, start := e.start, len := e.len, rend := e.start + e.len, host := decide (fld w2 63 62 ≠ 0), io,
    target := fld w2 56 12 * 4096, r := flag w1 63 && !io, w := flag w1 62, x := flag w1 61 && !io,
    a := flag w1 60 && !io, cc := flag w1 59, enc := flag w1 58, key := fld w1 57 48 }

/-! The end of a tracker entry. -/

/-- Ring events 0x08 and 0x09 (R449): agents park or resume. -/
def parkRing (s : State) (code : Nat) (t : Trk) (ws : List Waiter) : State :=
  ws.foldl (fun s w => coreRing s w.core code t.ctx.toNat (place 2 0 w.agent ||| place 51 8 (t.page * 16))) s

/-- An entry is written to the second level and to the waiting agents' buffers (R304); an empty one, from before an
invalidation, is discarded, and its waiters walk again (R316). -/
def installEnt (s : State) (cl : Nat) (e : RangeEnt) (ws : List Waiter) : State :=
  if e.len = 0 then s else
  let s := setRb2 s cl (rbInsert 2048 (cluster s cl).rb2 e)
  ws.foldl (fun s w => setRb s w.core w.agent (rbInsert 16 (rbOf s w.core w.agent) e)) s

/-- Replace entry `t` of a tracker by others; entries without waiters are dropped. -/
def replaceTrk (s : State) (cl : Nat) (t : Trk) (new : List Trk) : State :=
  setTrk s cl ((cluster s cl).trk.flatMap fun x => if x = t then new.filter (fun y => !y.waiters.isEmpty) else [x])

def failTrk (t : Trk) (ws : List Waiter) (code sub : Nat) : Trk := { t with waiters := ws, stage := .failed code sub }

def pasidOf (s : State) (c : BitVec 12) : BitVec 20 := BitVec.ofNat 20 (wkf s (.ctx c) 0x8108 19 0)

def needsWrite (ws : List Waiter) : Bool := ws.any fun w => w.need = 50 || w.need = 48

/-! The GFE fault unit (R310, R311). -/

def priAlloc (s : State) : Nat := (cfgWord s 0x20C).toNat

/-- Page requests are sent while the host's allocation has room (R311). -/
def sendPageReqs (s : State) : State :=
  s.faults.foldl (fun s f =>
    let live := (s.faults.filter fun x => x.prg.isSome).length
    if f.prg.isNone && !f.ats && decide (live < priAlloc s) && priEn s && !s.ep.priBlocked then
      let n := s.nextPrg
      let s1 := { s with nextPrg := n + 1, faults := s.faults.map fun x => if x = f then { x with prg := some n, sentWrite := x.write } else x }
      let s1 := upstream s1 (.pageReq (pasidOf s1 f.ctx) f.page f.write n)
      globalCtr (ctxCtr s1 f.ctx 10 1) 118 1
    else s) s

/-- The fault unit has room for another page or granule (R310). -/
def unitRoom (s : State) : Bool := decide (s.faults.length + s.migs.length < 2048)

/-- The tracker entries that wait for a granule. -/
def granWaiters (s : State) (c : BitVec 12) (gst : Nat) : List (Nat × Trk) :=
  s.clusters.flatMap fun e => ((cluster s e.1).trk.filter fun t =>
    decide (t.ctx = c) && decide (t.stage = .migrate) && decide (t.gst = gst)).map fun t => (e.1, t)

def updMig (s : State) (m m' : Mig) : State := { s with migs := s.migs.map fun x => if x = m then m' else x }

def removeMig (s : State) (m : Mig) : State := { s with migs := s.migs.filter (· ≠ m) }

/-- The untranslated host page that a granule's copy has reached. -/
def migPage (m : Mig) : Nat := (m.ent.target + 64 * m.pos) / 4096

/-- A granule's copy ends with an exception for every waiter; its state word stays (R311, R315). -/
def migFail (s : State) (m : Mig) (code sub : Nat) : State :=
  removeMig ((granWaiters s m.ctx m.gst).foldl (fun s q => replaceTrk s q.1 q.2 [failTrk q.2 q.2.waiters code sub]) s) m

/-- Every tracker entry and granule copy of a page at the fault unit fails with TRANS. -/
def failPage (s : State) (ctx : BitVec 12) (page : Nat) : State :=
  let s := s.clusters.foldl (fun s e =>
    setTrk s e.1 ((cluster s e.1).trk.map fun t =>
      if t.ctx = ctx ∧ t.stage = .page ∧ hostPageOf t = page then failTrk t t.waiters 8 0 else t)) s
  (s.migs.filter fun m => decide (m.ctx = ctx) && decide (m.wait = .page) && decide (migPage m = page)).foldl (fun s m => migFail s m 8 0) s

/-- A page joins its entry of the fault unit, or takes one and asks for the page (R310, R311). -/
def joinFault (s : State) (cl : Nat) (ctx : BitVec 12) (page : Nat) (write : Bool) : State :=
  if s.faults.any fun f => decide (f.ctx = ctx) && decide (f.page = page) then
    { s with faults := s.faults.map fun f =>
        if f.ctx = ctx ∧ f.page = page then { f with write := f.write || write, clusters := f.clusters ++ [cl] } else f }
  else
    sendPageReqs { clusterRing s cl 0x12 ctx.toNat (BitVec.ofNat 64 (page * 4096)) with
      faults := s.faults ++ [{ ctx, page, clusters := [cl], write, sentWrite := false, prg := none, ats := false, tries := 1 }] }

/-- R308: the translation request of a host range, unless one for the page is outstanding or the page is at the fault unit, where the
waiters join it (R310), or TRANS while ATS or PASID is off (R351);
`bad` are the entry's waiters that already fail. -/
def sendAts (s : State) (cl : Nat) (t : Trk) (e : RangeEnt) (ws : List Waiter) (bad : List Trk) : State :=
  if !atsOn s then replaceTrk s cl t (bad ++ [failTrk t ws 8 0])
  else
    let t' := { t with ent := some e, waiters := ws, stage := .ats }
    let same := fun st => (cluster s cl).trk.any fun x => decide (x.stage = st) && decide (trkKey x = trkKey t')
    if !ws.isEmpty && t.gsize = 0 && same .page then
      joinFault (replaceTrk (parkRing s 8 t ws) cl t (bad ++ [{ t' with stage := .page }])) cl t.ctx (hostPageOf t') (needsWrite ws)
    else if !ws.isEmpty && t.gsize = 0 && same .full then replaceTrk s cl t (bad ++ [{ t' with stage := .full }])
    else
    let s := replaceTrk s cl t (bad ++ [t'])
    if ws.isEmpty || same .ats then s
    else globalCtr (upstream s (.atsReq (pasidOf s t.ctx) (atsAddr s (hostPageOf t')) (!needsWrite ws))) 117 1

/-- No page request may be sent (R311, R351). -/
def priOff (s : State) : Bool := !priEn s || s.ep.priBlocked

/-- A page fault of a tracker entry goes to the GFE fault unit, or waits for room in it (R310, R351). -/
def forwardFault (s0 : State) (cl : Nat) (t : Trk) : State :=
  let page := hostPageOf t
  if priOff s0 then replaceTrk s0 cl t [failTrk t t.waiters 8 0]
  else if unitRoom s0 || s0.faults.any fun f => decide (f.ctx = t.ctx) && decide (f.page = page) then
    joinFault (replaceTrk (parkRing s0 8 t t.waiters) cl t [{ t with stage := .page }]) cl t.ctx page (needsWrite t.waiters)
  else raise (replaceTrk s0 cl t [{ t with stage := .full }]) (bCluster cl) 0x500 0

/-- A fault on a granule goes to the GFE fault unit, or waits for room in it (R310, R315). -/
def forwardGran (s0 : State) (cl : Nat) (t : Trk) : State :=
  let s := replaceTrk (parkRing s0 8 t t.waiters) cl t [{ t with stage := .migrate }]
  match t.ent with
  | none => s0
  | some e =>
    if s0.migs.any fun m => decide (m.ctx = t.ctx) && decide (m.gst = t.gst) then s
    else if unitRoom s0 then
      { s with migs := s.migs ++ [{ ctx := t.ctx, cl, ent := e, gst := t.gst, gsize := t.gsize, unit := none, pos := 0, xl := none, wait := .none }] }
    else raise (replaceTrk s0 cl t [{ t with stage := .full }]) (bCluster cl) 0x500 0

/-- An entry's fault is forwarded. -/
def forwardTrk (s : State) (cl : Nat) (t : Trk) : State :=
  if t.waiters.isEmpty then s else if t.gsize ≠ 0 then forwardGran s cl t else forwardFault s cl t

/-- Faults and granule copies that waited for room in the fault unit are forwarded. -/
def admitFaults (s : State) : State :=
  s.clusters.foldl (fun s e =>
    ((cluster s e.1).trk.filter fun t => t.stage = .full).foldl (fun s t => if unitRoom s then forwardTrk s e.1 t else s) s)
  <| (s.migs.filter fun m => m.wait = .full).foldl (fun s m =>
    if unitRoom s then joinFault (updMig s m { m with wait := .page }) m.cl m.ctx (migPage m) false else s) s

/-- R306-R308, R315: what a finished walk leads to. An access that ends beyond the range fails before its permission is looked at
(R307); a line of the mirror that the host holds is asked for, and the walk goes on afterwards (R299). -/
def walkFinish (s0 : State) (cl : Nat) (t : Trk) : State :=
  let ca := t.page * 4096
  let s := (fireInjection (clusterCtr s0 cl 6 1) (bCluster cl) 6 none none).2
  let r := mirrorWalk s t.ctx ca
  let s := r.2
  match r.1 with
  | .held k => sendBis s0 k false
  | .noRange => replaceTrk s cl t [failTrk t t.waiters 4 1]
  | .bad => raise (replaceTrk s cl t [failTrk t t.waiters 4 1]) (bCluster cl) 0x500 1
  | .found me =>
    let e := rangeOf t.ctx me
    let inr := t.waiters.filter fun w => decide (w.last + 1 ≤ e.rend)
    let good := inr.filter fun w => entAllows e w.need
    let bad := [failTrk t (t.waiters.filter fun w => decide (e.rend < w.last + 1)) 4 2, failTrk t (inr.filter fun w => !entAllows e w.need) 4 3]
    if !e.host then installEnt (replaceTrk s cl t bad) cl e good
    else if !flag (wordAt me.ws 1) 47 then sendAts s cl t e good bad
    else
      let g := granBytes (fld (wordAt me.ws 1) 46 45)
      let i := (ca - e.start) / g
      let gst := fld (wordAt me.ws 3) 51 3 * 8 + 8 * i
      let ge := { e with start := e.start + i * g, len := g, target := e.target + i * g }
      let q := walkWord s gst
      match q.1 with
      | .held k => sendBis s0 k false
      | .bad => raise (replaceTrk q.2 cl t [failTrk t t.waiters 4 1]) (bCluster cl) 0x500 1
      | .got w =>
        if fld w 63 62 = 2 then
          installEnt (replaceTrk q.2 cl t bad) cl { ge with host := false, target := fld w 51 16 * 65536 } good
        else if fld w 63 62 = 3 then sendAts q.2 cl t ge good bad
        else
          let t' := { t with ent := some ge, gst, gsize := g, stage := .full, waiters := good }
          forwardTrk (replaceTrk q.2 cl t (bad ++ [t'])) cl t'

/-- The cached entry of an ATS completion (R308): the translated region, clipped to the range, with the permissions
of range and completion ANDed. -/
def clipEnt (e : RangeEnt) (page target size : Nat) (r w : Bool) : RangeEnt :=
  let ub := page * 4096 / size * size
  let lo := max ub e.target
  let hi := min (ub + size) (e.target + e.len)
  { e with start := e.start + (lo - e.target), len := hi - lo, target := target / size * size + (lo - ub),
           r := e.r && r, w := e.w && w, x := e.x && r, a := e.a && r && w }

/-- A tracker entry receives its page's ATS completion (R308). -/
def atsFinish (s : State) (cl : Nat) (t : Trk) (res : AtsResult) : State :=
  match t.ent, res with
  | some e, .done target size r w =>
    let ce := clipEnt e (hostPageOf t) target (max size 4096) r w
    let good := t.waiters.filter fun x => entAllows ce x.need
    let rest := t.waiters.filter fun x => !entAllows ce x.need
    let t' := { t with waiters := rest }
    let s := replaceTrk s cl t [t']
    let s := if good.isEmpty then s else installEnt s cl ce good
    forwardTrk s cl t'
  | _, _ => replaceTrk s cl t [failTrk t t.waiters 8 0]

/-- A granule's copy has the translation of its page. -/
def migServed (m : Mig) (target size : Nat) : Mig :=
  let sz := max size 4096
  { m with xl := some (target / sz * sz + migPage m * 4096 % sz), wait := .none }

/-- The entries and granule copies that wait at the fault unit for a page receive the repeated translation (R311). True: some waiter
still faults. -/
def pageFinish (s : State) (ctx : BitVec 12) (page target size : Nat) (r w : Bool) : Bool × State :=
  (s.migs.filter fun m => decide (m.ctx = ctx) && decide (m.wait = .page) && decide (migPage m = page)).foldl (fun st m =>
    if r then (st.1, updMig st.2 m (migServed m target size)) else (true, st.2)) <| s.clusters.foldl (fun (st : Bool × State) e =>
    ((cluster st.2 e.1).trk.filter fun t => decide (t.ctx = ctx) && decide (t.stage = .page) && decide (hostPageOf t = page)).foldl
      (fun (st : Bool × State) t =>
        match t.ent with
        | none => st
        | some re =>
          let ce := clipEnt re page target (max size 4096) r w
          let good := t.waiters.filter fun x => entAllows ce x.need
          let rest := t.waiters.filter fun x => !entAllows ce x.need
          let s := replaceTrk st.2 e.1 t [{ t with waiters := rest }]
          let s := if good.isEmpty then s else parkRing (installEnt s e.1 ce good) 9 t good
          (st.1 || !rest.isEmpty, s)) st) (false, s)

def updFault (s : State) (f f' : PageReq) : State := { s with faults := s.faults.map fun x => if x = f then f' else x }

def dropFault (s : State) (f : PageReq) : State := sendPageReqs (admitFaults { s with faults := s.faults.filter (· ≠ f) })

/-- Pages that wait for their page request fail with TRANS (R311, R351). -/
def failUnsent (s : State) : State :=
  let s := (s.faults.filter fun x => x.prg.isNone && !x.ats).foldl (fun s x => failPage s x.ctx x.page) s
  admitFaults { s with faults := s.faults.filter fun x => x.prg.isSome || x.ats }

/-- The page is asked for again, or fails where no page request may be sent (R311). -/
def askAgain (s : State) (f f' : PageReq) : State :=
  if priOff s then dropFault (failPage s f.ctx f.page) f else sendPageReqs (updFault s f f')

/-- A granule's copy receives its page's ATS completion (R308, R315). -/
def migAts (s : State) (m : Mig) (res : AtsResult) : State :=
  match res with
  | .failed => admitFaults (migFail s m 8 0)
  | .done target size r _ =>
    if r then updMig s m (migServed m target size)
    else if priOff s then admitFaults (migFail s m 8 0)
    else if unitRoom s || s.faults.any fun f => decide (f.ctx = m.ctx) && decide (f.page = migPage m) then
      joinFault (updMig s m { m with wait := .page }) m.cl m.ctx (migPage m) false
    else raise (updMig s m { m with wait := .full }) (bCluster m.cl) 0x500 0

/-- The repeated translation of a page at the fault unit arrives (R311). A write that joined a read-only request is then asked for. -/
def faultFinish (s : State) (f : PageReq) (res : AtsResult) : State :=
  match res with
  | .failed => dropFault (failPage s f.ctx f.page) f
  | .done target size r w =>
    let q := pageFinish s f.ctx f.page target size r w
    if !q.1 then dropFault q.2 f
    else if f.write && !f.sentWrite then askAgain q.2 f { f with ats := false, prg := none }
    else if f.tries < 2 then askAgain q.2 f { f with ats := false, prg := none, tries := f.tries + 1 }
    else dropFault (failPage q.2 f.ctx f.page) f

/-- R308: the completion of a translation of a context's completion-ring page (R338) is kept for its record. -/
def cplEnt (ctx : BitVec 12) (page target size : Nat) (r w : Bool) : RangeEnt :=
  let sz := max size 4096
  { ctx, start := page * 4096 / sz * sz, len := sz, rend := 2 ^ 64, host := true, io := false,
    target := target / sz * sz, r, w, x := false, a := false, cc := false, enc := false, key := 0 }

/-! Invalidation (R316, R317). -/

/-- R316 at a tracker entry: a translation in flight restarts, and an exception not yet taken is found again; the range of a parked fault is forgotten but for its
host page, so that its waiters walk again when they resume. -/
def restartTrk (t : Trk) : Trk :=
  match t.stage with
  | .ats | .full => { t with stage := .walk, ent := none, gst := 0, gsize := 0 }
  | .page => { t with ent := t.ent.map fun e => { e with len := 0 } }
  | _ => t

/-- The range buffers and second levels hold no entry of a context (R304: only those of contexts whose translated space is enabled). -/
def purgeXlt (s : State) (c : BitVec 12) : State :=
  let keep := fun (x : RangeEnt) => decide (x.ctx ≠ c)
  let drop := fun (b : Nat × List RangeEnt) => if (b.2.filter keep).isEmpty then none else some (b.1, b.2.filter keep)
  { s with cores := s.cores.map fun e => (e.1, { e.2 with rb := e.2.rb.filterMap drop }),
           clusters := s.clusters.map fun e => (e.1, { e.2 with rb2 := e.2.rb2.filter keep }) }

/-- The translation requests of the contexts that `p` picks whose answers are still to come, by context and page. -/
def asked (s : State) (p : BitVec 12 → Bool) : List (BitVec 12 × Nat) :=
  let trks : List Trk := s.clusters.flatMap fun e => (cluster s e.1).trk.filter fun t => t.stage = .ats
  let l : List (BitVec 12 × Nat) := trks.map (fun t => (t.ctx, hostPageOf t))
    ++ (s.migs.filter fun m => m.wait = .ats).map (fun m => (m.ctx, migPage m))
    ++ (s.faults.filter PageReq.ats).map (fun f => (f.ctx, f.page))
    ++ (s.atsCpl.filter fun e => e.2.rend = 0).map fun e => (BitVec.ofNat 12 e.1, e.2.start / 4096)
  l.eraseDups.filter fun q => p q.1

/-- The translation request that a page's Success leads to (R311). -/
def repeatAts (s : State) (f : PageReq) : State :=
  globalCtr (upstream s (.atsReq (pasidOf s f.ctx) (atsAddr s f.page) (!f.write))) 117 1

/-- Every translation of the contexts that `p` picks is removed; walks and translations in flight restart, and the answers of the latter
are discarded (R316). -/
def invalidate (s : State) (p : BitVec 12 → Bool) : State :=
  let s := { s with atsStale := s.atsStale ++ asked s p }
  let s := (s.faults.filter fun f => f.ats && p f.ctx).foldl repeatAts s
  let s := s.cores.foldl (fun s e =>
    setCore s e.1 { core s e.1 with rb := (core s e.1).rb.filterMap fun b =>
      let l := b.2.filter fun x => !p x.ctx
      if l.isEmpty then none else some (b.1, l) }) s
  let s := s.clusters.foldl (fun s e =>
    let k := cluster s e.1
    setCluster s e.1 { k with rb2 := k.rb2.filter (fun x => !p x.ctx),
                              trk := (k.trk.filter fun t => !(p t.ctx && isFailed t.stage)).map fun t => if p t.ctx then restartTrk t else t }) s
  { s with migs := s.migs.map fun m => if p m.ctx && decide (m.wait = .ats) then { m with wait := .none } else m, atsCpl := s.atsCpl.filter fun e => !p (BitVec.ofNat 12 e.1) }

/-- R317: old-translation accesses are all performed at PACKAGE, or have returned their data. A buffered store or a request does not say
whose it is and outlives the task at its core, so none is outstanding. -/
def oldAccessesDone (s : State) : Bool :=
  (s.cores.all fun e => e.2.sbuf.isEmpty) && s.txns.isEmpty && !(s.hreqs.any fun h => decide (h.core ≤ 384) && decide (h.kind ≤ 4))
    && !(s.bis.any fun b => b.inv && !b.answered) && !ioHeld s && !(flushOn s && !(s.ep.ioSent.isEmpty && s.ep.flushWait.isEmpty))

/-- The flush read that an invalidation waits for is sent (R295, R317). -/
def invFlush (s : State) : State := if flushOn s && !s.ep.ioSent.isEmpty then issueFlush s none else s

/-! Commands. -/

def execMirrorWalkDone (cluster : ClusterIx) (entry : Nat) (s : State) : Out :=
  match (Sys2Proof.Machine.cluster s cluster.val).trk[entry]? with
  | some t => if running s && decide (t.stage = .walk) then done (dropSpent (walkFinish s cluster.val t)) else idle s
  | none => idle s

def execAtsCompletion (ctx : CtxIx) (page : Nat) (res : AtsResult) (s : State) : Out :=
  if !running s then idle s
  else if s.atsStale.contains (ctx, page) then done { s with atsStale := s.atsStale.erase (ctx, page) }
  else
    let s1 := s.clusters.foldl (fun s e =>
      ((cluster s e.1).trk.filter fun t => decide (t.ctx = ctx) && decide (t.stage = .ats) && decide (hostPageOf t = page)).foldl
        (fun s t => atsFinish s e.1 t res) s) s
    let s1 := (s1.migs.filter fun m => decide (m.ctx = ctx) && decide (m.wait = .ats) && decide (migPage m = page)).foldl (fun s m => migAts s m res) s1
    let s2 := (s1.faults.filter fun f => decide (f.ctx = ctx) && decide (f.page = page) && f.ats).foldl (fun s f => faultFinish s f res) s1
    let s3 := match mapFind? s2.atsCpl ctx.toNat, res with
      | some e, .done target size r w =>
        if e.rend = 0 ∧ e.start = page * 4096 then { s2 with atsCpl := mapPut s2.atsCpl ctx.toNat (cplEnt ctx page target size r w) } else s2
      | some e, .failed =>
        if e.rend = 0 ∧ e.start = page * 4096 then { s2 with atsCpl := mapPut s2.atsCpl ctx.toNat (cplEnt ctx page 0 4096 false false) } else s2
      | none, _ => s2
    done s3

def execPrgResponse (prg : Nat) (code : PrgCode) (s : State) : Out :=
  match s.faults.find? fun f => f.prg = some prg with
  | none => done (orCfg s 0x204 0x20000)
  | some f =>
    let s := progress s f.ctx
    match code with
    | .success =>
      if !atsOn s then done (dropFault (failPage s f.ctx f.page) f)
      else
        done (sendPageReqs (repeatAts (updFault s f { f with prg := none, ats := true }) f))
    | .invalid => done (dropFault (failPage s f.ctx f.page) f)
    | .failure =>
      let s := orCfg { s with ep := { s.ep with priBlocked := true } } 0x204 0x10000
      let s := failPage s f.ctx f.page
      let s := failUnsent { s with faults := s.faults.filter (· ≠ f) }
      done ((raise s (bCluster (f.clusters.headD 0)) 0x500 3))

/-! Migration (R315). -/

/-- A read at a controller in a step of the fault unit; the step waits for the host's copy of the line. -/
def ctlReadM {α : Type} (q : CtlRead α × State) : M (Option α) := do
  match q.1 with
  | .got x =>
    set q.2
    return some x
  | .bad =>
    set q.2
    return none
  | .held k =>
    modify fun s => sendBis s k true
    throw .wait

/-- A step of the GFE waits until its write to a range may proceed (R263, R299). -/
def gfeReadyM (a n : Nat) : M Unit := do
  let s ← get
  if !gfeReady s a n then
    set (gfeSnoop s a n)
    throw .wait

/-- The bits of the pool bitmap, lowest unit first, read at the stack controller. -/
def poolBits (s : State) (map units : Nat) : CtlRead (List Bool) × State :=
  let r := walkWords s map (ceilDiv units 64)
  (match r.1 with
    | .got ws => .got ((ws.flatMap fun w => (List.range 64).map fun i => w.getLsbD i).take units)
    | .bad => .bad
    | .held k => .held k, r.2)

/-- The lowest free run of `n` units aligned to its size. -/
def freeRun (bits : List Bool) (n : Nat) : Option Nat :=
  ((List.range (bits.length / n)).find? fun i => ((bits.drop (i * n)).take n).all id).map (· * n)

/-- Write a 64-bit word at a stack or drawer controller. -/
def gfeWriteWord (s : State) (a : Nat) (w : Word) : State := gfeWrite s (canon a) (toBytes 8 w.toNat)

/-- Clear the bits of `n` units from `u` in the pool bitmap, word by word. -/
def clearPool (map u n : Nat) : M Unit := do
  (List.range ((u + n - 1) / 64 - u / 64 + 1)).forM fun i => do
    let j := u / 64 + i
    gfeReadyM (canon (map + 8 * j)) 8
  modify fun s => (List.range ((u + n - 1) / 64 - u / 64 + 1)).foldl (fun s i =>
    let j := u / 64 + i
    let w := BitVec.ofNat 64 (ofBytes (memBytes s (canon (map + 8 * j)) 8))
    let hi := min 63 (u + n - 1 - 64 * j)
    gfeWriteWord s (map + 8 * j) (w &&& ~~~(fieldMask hi (u - 64 * j)))) s

/-- Every waiter of a granule resumes: its entries walk again and find the granule LOCAL or HELD. -/
def resumeGran (s : State) (m : Mig) : State :=
  let s := (granWaiters s m.ctx m.gst).foldl (fun s q =>
    replaceTrk (parkRing s 9 q.2 q.2.waiters) q.1 q.2 [{ q.2 with stage := .walk, ent := none, gst := 0, gsize := 0 }]) s
  admitFaults (removeMig s m)

/-- The copy of a granule begins: it takes a run of free pool units, or the granule is HELD; one found MOVING is copied again into its
unit. -/
def migStart (m : Mig) : M Unit := do
  gfeReadyM (canon m.gst) 8
  let s ← get
  let w ← ctlReadM (walkWord s m.gst)
  let s ← get
  let h ← ctlReadM (mirrorHeader s m.ctx)
  match w, h with
  | some w, some (_, hw) =>
    let map := fld (wordAt hw 3) 51 3 * 8
    let n := m.gsize / 65536
    if fld w 63 62 = 1 then modify fun s => updMig s m { m with unit := some (fld w 51 16 * 65536) }
    else if fld w 63 62 = 0 then
      let s ← get
      let b ← ctlReadM (poolBits s map (fld (wordAt hw 2) 31 0))
      match b.bind (freeRun · n) with
      | none => modify fun s => resumeGran (raise (gfeWriteWord s m.gst (place 63 62 3)) (bCluster m.cl) 0x500 2) m
      | some u =>
        clearPool map u n
        let loc := fld (wordAt hw 1) 51 16 + u
        modify fun s => updMig (gfeWriteWord s m.gst (place 63 62 1 ||| place 51 16 loc)) m { m with unit := some (loc * 65536) }
    else modify fun s => resumeGran s m
  | _, _ => modify fun s => raise (admitFaults (migFail s m 4 1)) (bCluster m.cl) 0x500 1

/-- The translation request of the page that a granule's copy has reached. -/
def migAsk (s : State) (m : Mig) : State :=
  if !atsOn s then admitFaults (migFail s m 8 0)
  else globalCtr (upstream (updMig s m { m with wait := .ats }) (.atsReq (pasidOf s m.ctx) (atsAddr s (migPage m)) true)) 117 1

/-- One chunk of a granule, read through the device cache and written to its unit under the range's key. -/
def migChunk (m : Mig) (unit host : Nat) : M Unit := do
  let a := canon (unit + 64 * m.pos)
  gfeReadyM a 64
  let d ← hostRead whoNone ((host + 64 * m.pos % 4096) / 64) 0 64
  let pos := m.pos + 1
  modify fun s => updMig (chunkWrite (recallLine s false (a / 64)) whoNone (a / 64) 0 d.1 d.2 (if m.ent.enc then some m.ent.key else none)) m
    { m with pos, xl := if 64 * pos % 4096 = 0 then none else some host }

/-- At most so many steps of the copy of a granule, as far as it can go: each page is translated, and read line by line. -/
def migRun (c : BitVec 12) (gst : Nat) : Nat → M Unit
  | 0 => return ()
  | n + 1 => do
    let s ← get
    match s.migs.find? fun m => decide (m.ctx = c) && decide (m.gst = gst) with
    | none => return ()
    | some m =>
      match m.unit with
      | none =>
        migStart m
        modify dropSpent
        migRun c gst n
      | some u =>
        if m.gsize ≤ 64 * m.pos then
          gfeReadyM (canon gst) 8
          modify fun s => resumeGran (gfeWriteWord s gst (place 63 62 2 ||| place 51 16 (u / 65536))) m
        else match m.xl with
          | none =>
            if m.wait = .none then set (migAsk s m)
            throw .wait
          | some h =>
            if atsOn s then
              migChunk m u h
              migRun c gst n
            else set (admitFaults (migFail s m 8 0))

/-- GRANULE_MIGRATE: the fault unit goes on with the copy of the granule that holds a CA page. -/
def execGranuleMigrate (ctx : CtxIx) (page steps : Nat) (s : State) : Out :=
  match s.migs.find? fun m => decide (m.ctx = ctx) && decide (m.ent.start ≤ page * 4096) && decide (page * 4096 < m.ent.start + m.ent.len) with
  | some m => if running s then (match (migRun ctx m.gst steps).run s with
      | .ok _ t => done t
      | .error _ t => done t) else idle s
  | none => idle s

/-! Invalidation commands. -/

/-- The completions of ATS Invalidation Requests are sent once every old-translation access is performed (R317, R318). -/
def serveAtsInv (s : State) : State :=
  if s.atsInv.isEmpty || !running s then s
  else if oldAccessesDone s then s.atsInv.foldl (fun s _ => upstream s .atsInvCpl) { performPackage s with atsInv := [] }
  else invFlush s

def execXltInvDone (s : State) : Out :=
  match s.inv with
  | c :: rest =>
    if !running s then idle s
    else if oldAccessesDone s then
      let s := invalidate { performPackage s with inv := rest } (fun x => x = c)
      done (setRf s .gfe 0x2208 31 0 (rf s .gfe 0x2208 31 0 + 1))
    else done (invFlush s)
  | [] => done (serveAtsInv s)

/-- The contexts that an ATS Invalidation Request concerns (R318). -/
def atsInvMatch (s : State) (pasid : Option (BitVec 20)) (c : BitVec 12) : Bool :=
  match pasid with
  | some p => decide (pasidOf s c = p)
  | none => flag (wk s (.ctx c) 0x8100) 63

def execAtsInvalidationRequest (pasid : Option (BitVec 20)) (s : State) : Out :=
  done (serveAtsInv { invalidate s (atsInvMatch s pasid) with atsInv := s.atsInv ++ [pasid] })

end Sys2Proof.Machine
end

