-- ==== Sys2Proof/Machine/Tables.lean ====
section
/-! DEFINITION. Table descriptors (R106, R107), row formats and placement (R111, R112), handle capture and release
(R109), DRAINED (R110), and lookup epochs (R126, R127). -/

namespace Sys2Proof.Machine

/-! Descriptor fields (R106). -/

def dPlace (d : List Word) : Nat := fld (wordAt d 2) 63 60
def dLive (d : List Word) : Bool := flag (wordAt d 2) 59
def dSsp (d : List Word) : Bool := flag (wordAt d 2) 58
def dFmt (d : List Word) : Nat := fld (wordAt d 2) 57 53
def dRfmt (d : List Word) : Nat := fld (wordAt d 2) 52 49
def dBlk (d : List Word) : Nat := fld (wordAt d 2) 48 47
def dSf (d : List Word) : Bool := flag (wordAt d 2) 46
def dScb (d : List Word) : Bool := flag (wordAt d 2) 45
def dQmode (d : List Word) : Nat := fld (wordAt d 2) 44 43
def dStride (d : List Word) : Nat := fld (wordAt d 2) 31 16 * 16
def dDim (d : List Word) : Nat := fld (wordAt d 2) 15 0
def dRows (d : List Word) : Nat := fld (wordAt d 3) 63 28
def dStripe (d : List Word) : Nat := fld (wordAt d 3) 27 0
def dMask (d : List Word) : Nat := fld (wordAt d 4) 63 52
def dBase (d : List Word) : Nat := fld (wordAt d 4) 51 0
def dCore0 (d : List Word) : Nat := fld (wordAt d 5) 63 55
def dNcores (d : List Word) : Nat := fld (wordAt d 5) 54 46
def dPeer0 (d : List Word) : Nat := fld (wordAt d 5) 45 38
def dNpeers (d : List Word) : Nat := fld (wordAt d 5) 37 29
def dRsBase (d : List Word) : Nat := fld (wordAt d 6) 51 0
def dDef (d : List Word) : Nat := fld (wordAt d 7) 51 0
def dPool0 (d : List Word) : Nat := fld (wordAt d 8) 51 0
def dPool0Cnt (d : List Word) : Nat := fld (wordAt d 9) 63 38
def dPool1Cnt (d : List Word) : Nat := fld (wordAt d 9) 37 12
def dPool1 (d : List Word) : Nat := fld (wordAt d 10) 51 0
def dOpt (d : List Word) : Nat := fld (wordAt d 11) 51 0
def dFwd (d : List Word) : Nat := fld (wordAt d 12) 51 7 * 128
def dPqM (d : List Word) : Nat := fld (wordAt d 13) 63 56
def dPqBits (d : List Word) : Nat := fld (wordAt d 13) 55 52
def dPqCb (d : List Word) : Nat := fld (wordAt d 13) 51 0

def blkElems (n : Nat) : Nat := if n = 1 then 16 else 32

/-- Payload bytes of a row (R111). -/
def payloadLen (d : List Word) (f : Fmt) : Nat :=
  let e := rowBytes f.width (dDim d)
  match dRfmt d with
  | 0 => e
  | 1 => e + dDim d / blkElems (dBlk d)
  | 2 => (e + 3) / 4 * 4 + (if dScb d then 4 else 8)
  | _ => rowBytes (dPqBits d) (dPqM d)

/-- The payload bytes that move with a row: those of its format, and the whole stride where its user entry is not valid (log
entry 182). -/
def rowLen (d : List Word) (f : Fmt) : Nat := if f.valid then min (payloadLen d f) (dStride d) else dStride d

/-- The range of the CA map with stack or drawer memory that a CA lies in: the stacks, the drawers, or one of the interleaved views
(R236, R237). -/
def localRange (a : Nat) : Option Nat :=
  if a < 12 * stackSize then some 0
  else if 0x10000000000 ≤ a ∧ a < 0x10000000000 + 384 * drawerSize then some 1
  else if 0x40000000000 ≤ a ∧ a < 0x40000000000 + 12 * stackSize then some 2
  else if 0x50000000000 ≤ a ∧ a < 0x50000000000 + 6 * stackSize then some 3
  else if 0x60000000000 ≤ a ∧ a < 0x60000000000 + 6 * stackSize then some 4
  else none

/-- A range in stack or drawer memory: its first and last bytes lie in one range of the map. -/
def inLocal (a n : Nat) : Bool := (localRange a).isSome && (n = 0 || localRange (a + n - 1) = localRange a)

/-- Bytes of the codebooks of a PQ table (R111). -/
def pqLen (d : List Word) (f : Fmt) : Nat := dPqM d * 2 ^ dPqBits d * rowBytes f.width (dDim d / dPqM d)

/-- The checks of R107 that depend on the element format. -/
def descFmtOk (d : List Word) (f : Fmt) : Bool :=
  (match dRfmt d with
    | 0 => !f.isE8m0
    | 1 => !f.isE8m0 && decide (dDim d % blkElems (dBlk d) = 0)
    | 2 => f.isInt || f.isCb
    | _ => inLocal (dPqCb d) (pqLen d f))
  && decide (payloadLen d f ≤ dStride d) && (!dSsp d || decide (f.width ≤ 8)) && (decide (dDef d = 0) || inLocal (dDef d) (payloadLen d f))

/-- Reserved bits of a descriptor are 0 (R106). -/
def descReserved (d : List Word) : Bool :=
  decide (fld (wordAt d 0) 47 32 = 0) && decide (fld (wordAt d 1) 61 32 = 0) && decide (fld (wordAt d 2) 42 32 = 0)
    && decide (fld (wordAt d 5) 28 0 = 0) && decide (fld (wordAt d 9) 11 0 = 0)
    && [6, 7, 8, 10, 11, 12].all (fun i => decide (fld (wordAt d i) 63 52 = 0))
    && decide (fld (wordAt d 12) 6 0 = 0) && decide (fld (wordAt d 14) 31 0 = 0) && decide (wordAt d 15 = 0)

/-- The placement names a target, and BASE and MASK fit it (R106, R107). -/
def descPlaceOk (d : List Word) : Bool :=
  match dPlace d with
  | 0 => decide (1 ≤ dNcores d) && decide (dNcores d ≤ 384) && decide (dMask d = 0)
  | 1 => decide (dMask d ≠ 0)
  | 2 => decide (dMask d < 16) && decide (dMask d ≠ 0)
  | 3 => decide (2 ^ 51 ≤ dBase d) && decide (dMask d = 0)
  | 4 => decide (1 ≤ dNpeers d) && decide (dNpeers d ≤ 256) && decide (dMask d = 0)
  | _ => false

/-! Placement (R112). -/

/-- The target unit of stripe `s`: the `s mod n`-th set bit of a mask. -/
def nthBit (mask n s : Nat) : Nat :=
  let bs := setBits mask n
  bs.getD (s % bs.length) 0

/-- The CA of element `r` of an array spread as the rows of the table are, with `base` and `stride` in place of the
table's own (R112). For PLACE 3 and 4, `base + r * stride`. -/
def placedCa (d : List Word) (base stride r : Nat) : Nat :=
  let s := r / dStripe d
  let o := r % dStripe d
  match dPlace d with
  | 0 => drawerBase (dCore0 d + s % dNcores d) + base + ((s / dNcores d) * dStripe d + o) * stride
  | 1 =>
    let n := popCount (dMask d) 12
    nthBit (dMask d) 12 s * stackSize + base + ((s / n) * dStripe d + o) * stride
  | 2 =>
    let n := popCount (dMask d) 4
    farBase (nthBit (dMask d) 4 s) + base + ((s / n) * dStripe d + o) * stride
  | _ => base + r * stride

/-- The number of targets that a table's rows spread over. -/
def targetCount (d : List Word) : Nat :=
  match dPlace d with
  | 0 => dNcores d
  | 1 => popCount (dMask d) 12
  | 2 => popCount (dMask d) 4
  | _ => 1

/-- How many rows of the table target number `i` holds (R112). -/
def targetRows (d : List Word) (i : Nat) : Nat :=
  let n := targetCount d
  let stripes := (dRows d + dStripe d - 1) / dStripe d
  if stripes ≤ i then 0
  else
    let last := (stripes - 1 - i) / n
    last * dStripe d + min (dStripe d) (dRows d - (last * n + i) * dStripe d)

/-- A row-state or optimiser array lies in stack or drawer memory: spread as the rows are, or in one piece (R107, R112). -/
def arrayOk (d : List Word) (base size : Nat) : Bool :=
  if dPlace d = 0 ∨ dPlace d = 1 then
    (List.range (targetCount d)).all fun i => decide (targetRows d i = 0) || inLocal (placedCa d base size (i * dStripe d)) (size * targetRows d i)
  else inLocal base (size * dRows d)

/-- R107, but for the checks that a user entry leaves to each operation. -/
def descOk (d : List Word) : Bool :=
  let f := fixedFmts.getD (dFmt d) fmtFp32
  decide (fld (wordAt d 0) 63 48 = 0x7AB1) && descReserved d && descPlaceOk d
    && decide (dRfmt d ≤ 3) && (dRfmt d ≠ 1 || ((dBlk d = 1 || dBlk d = 2) && decide (dDim d % blkElems (dBlk d) = 0)))
    && (dRfmt d ≠ 3 || (decide (dPqM d ≠ 0) && decide (dDim d % dPqM d = 0) && (dPqBits d = 4 || dPqBits d = 8)
      && decide (rowBytes (dPqBits d) (dPqM d) ≤ dStride d)))
    && (decide (16 ≤ dFmt d) || descFmtOk d f)
    && decide (1 ≤ dStride d) && decide (1 ≤ dDim d) && decide (1 ≤ dRows d) && decide (1 ≤ dStripe d)
    && decide ((dRsBase d ≠ 0) = (dLive d = true))
    && (!dSsp d || decide (dPlace d = 1))
    && (!dLive d || arrayOk d (dRsBase d) 8)
    && (decide (dOpt d = 0) || arrayOk d (dOpt d) 4)
    && (decide (dDef d = 0) || inLocal (dDef d) 1)
    && (decide (dPool0Cnt d = 0) || inLocal (dPool0 d) (dPool0Cnt d * dStride d))
    && (decide (dPool1Cnt d = 0) || inLocal (dPool1 d) (dPool1Cnt d * dStride d))
    && (dRfmt d ≠ 3 || inLocal (dPqCb d) 1)
    && (decide (dFwd d = 0) || inLocal (dFwd d) 128)

/-- The row's home (R112). -/
def homeCa (d : List Word) (r : Nat) : Nat := placedCa d (dBase d) (dStride d) r

/-- The row-state word of a LIVE table, and the optimiser state. -/
def sideCa (d : List Word) (base size r : Nat) : Nat :=
  if dPlace d = 0 ∨ dPlace d = 1 then placedCa d base size r else base + size * r

def rowStateCa (d : List Word) (r : Nat) : Nat := sideCa d (dRsBase d) 8 r
def optCa (d : List Word) (r : Nat) : Nat := sideCa d (dOpt d) 4 r

/-- Veneer slot `i` of pool `p`. -/
def slotCa (d : List Word) (p i : Nat) : Nat := (if p = 0 then dPool0 d else dPool1 d) + i * dStride d

/-- The package that owns row `r` of a PLACE 4 table. -/
def ownerOf (d : List Word) (r : Nat) : Nat := dPeer0 d + r / dStripe d % dNpeers d

/-! Descriptors in memory (R106, R109). -/

/-- The descriptor at a CA, read with key slot `key`; none where a chunk of it is poisoned or it lies outside stacks and drawers. -/
def readDescBy (key : Option Nat) (s : State) (a : Nat) : Option (List Word) × State :=
  if !inLocal a 128 || isHole s (canon a) then (none, s)
  else
    let r := gfeRead s whoNone (canon a) 128 key
    (if r.1.2 then none else some (wordsOf 16 r.1.1), r.2)

/-- A descriptor as the GFE reads it. -/
def readDesc (s : State) (a : Nat) : Option (List Word) × State := readDescBy none s a

/-- The descriptor a handle names: its CA and words where the handle and the descriptor pass R106 and R107. -/
def readHandleBy (key : Option Nat) (s : State) (h : Nat) : Option (Nat × List Word) × State :=
  if h % 8 ≠ 0 || !inLocal h 8 || isHole s (canon h) then (none, s)
  else
    let r := gfeRead s whoNone (canon h) 8 key
    let w := BitVec.ofNat 64 (ofBytes r.1.1)
    let a := fld w 51 7 * 128
    if r.1.2 || decide (w &&& ~~~(fieldMask 51 7) ≠ 0) then (none, r.2)
    else
      let d := readDescBy key r.2 a
      match d.1 with
      | some ws => (if descOk ws then some (a, ws) else none, d.2)
      | none => (none, d.2)

/-- A handle as the GFE reads it. -/
def readHandle (s : State) (h : Nat) : Option (Nat × List Word) × State := readHandleBy none s h

/-- The lines that hold up the reading of a handle and of its descriptor. -/
def handleLines (s : State) (h : Nat) : List Nat :=
  if h % 8 ≠ 0 || !inLocal h 8 || isHole s (canon h) then []
  else
    let ls := gfeLines s (canon h) 8
    if !ls.isEmpty then ls
    else
      let a := fld (BitVec.ofNat 64 (ofBytes (gfeRead s whoNone (canon h) 8 none).1.1)) 51 7 * 128
      if !inLocal a 128 || isHole s (canon a) then [] else gfeLines s (canon a) 128

/-- Capture of handles in order (R109): the descriptors, or none where one fails; REFCNTs rise only if all pass. -/
def captureAll : List Nat → State → Option (List (Nat × List Word)) × State
  | [], s => (some [], s)
  | h :: t, s =>
    let r := readHandle s h
    match r.1 with
    | none => (none, r.2)
    | some d =>
      let q := captureAll t r.2
      (q.1.map (d :: ·), q.2)

/-! DRAINED (R110). -/

/-- A copy-back or slot release of the table is not complete (R110). -/
def moversLeft (s : State) (d : List Word) : Bool :=
  backsLeft || (s.copyBacks.any fun b => decide (b.desc.drop 2 = d.drop 2)) || (s.slotRels.any fun b => decide (b.desc.drop 2 = d.drop 2))
where
  /-- A row of the table has a copy-back that has not been completed, one that a reset lost among them: its CB bit is 1 (R125, R380). -/
  backsLeft : Bool := dLive d && (List.range (dRows d)).any fun r => flag (BitVec.ofNat 64 (ofBytes (gfeRead s whoNone (canon (rowStateCa d r)) 8 none).1.1)) 61

/-- The fence word of a context (R328). -/
def fenceCa (s : State) (c : BitVec 12) (f : Nat) : Nat := wkf s (.ctx c) 0x8058 51 3 * 8 + 8 * f

def fenceCount (s : State) (c : BitVec 12) : Nat := wkf s (.ctx c) 0x8058 63 52

def fenceValue (s : State) (c : BitVec 12) (f : Nat) : Word :=
  BitVec.ofNat 64 (ofBytes (gfeRead s whoNone (canon (fenceCa s c f)) 8 none).1.1)

/-- Contexts that wait on a fence that `q` accepts evaluate their wait again (R329). -/
def recheckWaits (s : State) (q : Nat × Nat → Bool) : State :=
  { s with gctx := s.gctx.map fun e => (e.1, if (e.2.waitOn.map q).getD false then { e.2 with recheck := true } else e.2) }

/-- The GFE writes a fence: an AMO with release at PACKAGE, which its earlier writes come before (R272, R328). -/
def fenceWrite (s : State) (c : BitVec 12) (f : Nat) (v : Word) : State :=
  let a := canon (fenceCa s c f)
  if gfeWrites s || !gfeReady s a 8 then gfePost s a 8 (.fenceSet c f v) else
  gfeRing (gfeWrite (recheckWaits s fun w => w = (c.toNat, f)) a (toBytes 8 v.toNat)) 0x23 c.toNat (place 43 32 f ||| place 31 0 v.toNat)

/-- Add to a fence; a fence at or above COUNT is left alone. -/
def fenceAdd (s : State) (c : BitVec 12) (f : Nat) (n : Word) : State :=
  let a := canon (fenceCa s c f)
  if fenceCount s c ≤ f then s
  else if gfeWrites s || !gfeReady s a 8 then gfePost s a 8 (.fenceAdd c f n)
  else fenceWrite s c f (fenceValue s c f + n)

/-- R110: DRAINED is set and the release fence advances, where the conditions hold; none where they do not. -/
def drainDesc (s : State) (a : Nat) : Option State :=
  let r := readDesc s a
  match r.1 with
  | none => none
  | some d =>
    let w := wordAt d 1
    if gfeReady s (canon a) 128 ∧ a % 128 = 0 ∧ flag w 63 ∧ !flag w 62 ∧ fld w 31 0 = 0 ∧ !moversLeft s d then
      let s := writeDescWord1 r.2 a (setFld w 62 62 1)
      let rc := fld (wordAt d 14) 63 48
      let rfence := fld (wordAt d 14) 47 32
      some (if rfence = 0xFFFF ∨ 4096 ≤ rc then s else fenceAdd s (BitVec.ofNat 12 rc) rfence 1)
    else none

def execDescDrained (desc : Nat) (s : State) : Out :=
  if !running s then idle s
  else if inLocal desc 128 && !gfeReady s (canon desc) 128 then done (gfeSnoop s (canon desc) 128)
  else match drainDesc s desc with
    | some s' => done s'
    | none => idle s

/-! Lookup epochs (R126, R127). -/

def epoch (s : State) : Nat := rf s .gfe 0x2000 47 0
def epochDone (s : State) : Nat := rf s .gfe 0x2008 47 0
def epochPeriod (s : State) : Nat := max 100 (rf s .gfe 0x2010 15 0)

/-- DONE follows the current epoch and the outstanding lookups; it never decreases (R127). -/
def settleEpoch (s : State) : State :=
  let v := s.lookups.foldl (fun m l => min m l.tag) (epoch s) - 1
  if epochDone s < v then setRf s .gfe 0x2008 47 0 v else s

/-- TBL_EPOCH advances. -/
def advanceEpoch (s : State) : State := settleEpoch { setRf s .gfe 0x2000 47 0 (epoch s + 1) with epochAt := s.stc }

def epochDue (s : State) : Bool := decide (epochPeriod s ≤ (s.stc - s.epochAt).toNat)

def execTblEpochAdvance (s : State) : Out := if running s && epochDue s then done (advanceEpoch s) else idle s

/-- The operation that a lookup belongs to is still to complete, at its core or switched out (R312). -/
def lookupLives (s : State) (l : Lookup) : Bool :=
  let now := (prog? s l.core).filter fun p => decide (p.task = l.task)
  let saved := ((taskOf s l.task).bind fun t => mapFind? t.saved l.core).map Prod.snd
  ((now <|> saved).map fun p => !(queue p 2).all EngOp.ran).getD false

def execTblLookupRetire (entry : Nat) (s : State) : Out :=
  match s.lookups[entry]? with
  | some l =>
    if !l.fin && lookupLives s l then idle s else done (settleEpoch { s with lookups := s.lookups.filter (· ≠ l) })
  | none => idle s

end Sys2Proof.Machine
end

