-- ==== Sys2Proof/Machine/Tracker.lean ====
section
/-! DEFINITION. The address-range tracker of a core (R267): the extents that each operation records at ISSUE, and which
accesses they hold back. -/

namespace Sys2Proof.Machine

/-- The table that a slot names: its CA and captured words (R109, R142). -/
def tableOf (s : State) (p : Prog) (slot : Nat) : Option (Nat × List Word) :=
  match taskOf s p.task with
  | some t => match t.caps[slot]?, t.capWords[slot]? with
    | some a, some w => some (a, w)
    | _, _ => none
  | none => none

/-- An extent: CAs as named from `lo` up to `hi`, whether the operation writes there, and its rows, CA and bytes of each. -/
structure Extent where
  lo : Nat
  hi : Nat
  wr : Bool
  rows : Unit → List (Nat × Nat)

/-- Two recorded extents overlap and one of them is written (R267). -/
def conflict (a b : Nat × Nat × Bool) : Bool := (a.2.2 || b.2.2) && decide (a.1 < b.2.1) && decide (b.1 < a.2.1)

/-- `n` rows of `len` bytes at a stride in the core's scratchpad. -/
def extRows (c off stride n len : Nat) (wr : Bool) : Extent :=
  let lo := spadBase c + off
  { lo, hi := if n = 0 ∨ len = 0 then lo else lo + (n - 1) * stride + len, wr,
    rows := fun _ => (List.range n).map fun i => (lo + i * stride, len) }

def extAnv (c : Nat) (op : EngOp) (code : Nat) : List Extent :=
  let d := op.desc
  let w0 := wordAt d 0
  let hi := fun i => fld (wordAt d i) 63 32
  let lo := fun i => fld (wordAt d i) 31 0
  if code = 1 then
    let k := fld w0 31 16
    let n := fld w0 15 8
    let m := fld w0 7 0
    let ba := if fld w0 45 44 = 1 then 16 else 32
    let bb := if fld w0 43 42 = 1 then 16 else 32
    let wd := fun e => (fmtEntry op.fmts e).width
    let ta := flag w0 37
    let tb := flag w0 36
    let b := extRows c (hi 2) (lo 2) (if tb then n else k) (rowBytes (wd (fld w0 50 46)) (if tb then k else n)) false
    let sh := spadBase c - drawerBase c
    [ extRows c (hi 1) (lo 1) (if ta then k else m) (rowBytes (wd (fld w0 55 51)) (if ta then m else k)) false,
      if flag w0 35 then { b with lo := b.lo - sh, hi := b.hi - sh } else b ]
    ++ (if fld w0 45 44 = 0 then [] else [extRows c (hi 3) (hi 4) m ((k + ba - 1) / ba) false])
    ++ (if fld w0 43 42 = 0 then [] else [extRows c (lo 3) (lo 4) ((k + bb - 1) / bb) n false])
  else if code ≤ 4 then
    let n := fld (wordAt d 3) 15 8
    let m := fld (wordAt d 3) 7 0
    let len := if flag w0 50 then 32 * n else rowBytes (fmtEntry op.fmts (fld w0 55 51)).width n
    [extRows c (hi 1) (lo 1) m len true]
      ++ (if fld w0 47 46 = 0 then [] else [extRows c (hi 2) (lo 2) m (n / (if flag w0 45 then 32 else 16)) true])
  else []

def extChs (c : Nat) (op : EngOp) (code : Nat) : List Extent :=
  let d := op.desc
  let w0 := wordAt d 0
  let hi := fun i => fld (wordAt d i) 63 32
  let lo := fun i => fld (wordAt d i) 31 0
  if code = 0x3F then [extRows c (hi 1) 0 1 1088 false]
  else
    let rows := fld (wordAt d 5) 63 48
    let cols := fld (wordAt d 5) 47 32
    let wd := fun e => (fmtEntry op.fmts e).width
    let opnd := fun (used : List Nat) (i bc e : Nat) =>
      if bc = 3 || !used.contains code then [] else [extRows c (hi i) (lo i) (if bc = 2 then 1 else rows) (rowBytes (wd e) (if bc = 1 then 1 else cols)) false]
    let reduce := decide (0x30 ≤ code) && decide (code ≤ 0x34)
    let qnt := decide (code = 0x2B)
    let blk := if qnt then (if flag w0 24 then 32 else 16) else (if fld w0 19 18 = 1 then 16 else 32)
    [extRows c (hi 1) (lo 1) rows (rowBytes (wd (fld w0 55 51)) cols) false]
      ++ opnd [0x20, 0x21, 0x22, 0x23, 0x24, 0x25, 0x27, 0x28, 0x2C] 2 (fld w0 33 32) (fld w0 50 46) ++ opnd [0x23, 0x27] 3 (fld w0 31 30) (fld w0 40 36)
      ++ [extRows c (hi 4) (lo 4) rows (rowBytes (wd (fld w0 45 41)) (if reduce then 1 else cols)) true]
      ++ (if qnt || decide (fld w0 19 18 ≠ 0) then [extRows c (lo 6) (hi 7) rows (cols / blk) qnt] else [])

def extTng (s : State) (p : Prog) (c : Nat) (op : EngOp) (code : Nat) : List Extent :=
  let d := op.desc
  let w0 := wordAt d 0
  let hi := fun i => fld (wordAt d i) 63 32
  let lo := fun i => fld (wordAt d i) 31 0
  let n := fld w0 31 0
  let t := ((tableOf s p (fld w0 55 52)).map Prod.snd).getD []
  let fmt := fmtEntry op.fmts (fld w0 47 43)
  let row := if flag w0 35 then payloadLen t (fmtEntry op.fmts (dFmt t)) else rowBytes fmt.width (dDim t)
  let idx := extRows c (hi 1) 0 1 ((if flag w0 39 then 8 else 4) * n) false
  let rest := fun off => ({ lo := spadBase c + off, hi := spadBase c + spadSize, wr := false, rows := fun _ => [] } : Extent)
  match code with
  | 0x40 => [idx, extRows c (lo 2) (hi 3) n row true]
  | 0x41 => [rest (hi 1), extRows c (lo 1) 0 1 (4 * (n + 1)) false]
      ++ (if flag w0 38 then [rest (hi 2)] else [])
      ++ [extRows c (lo 2) (hi 3) n (if flag w0 40 then 32 * dDim t else row) true]
  | 0x42 => [idx, extRows c (lo 2) (hi 3) n row false]
  | 0x43 => [idx, extRows c (lo 2) (hi 3) n row false, extRows c (lo 3) 0 1 (hi 4 * (8 + 4 * dDim t)) true]
  | 0x44 => [idx, extRows c (lo 2) (hi 3) n row false, extRows c (lo 4) 0 1 (24 * n) true]
  | 0x45 => [extRows c (lo 4) 0 1 (24 * n) false]
  | 0x46 => [idx]
  | 0x48 => [extRows c (lo 2) 0 1 8 true]
  | 0x4A => [extRows c (lo 2) 0 1 256 false]
  | _ => []

/-- The bound k of the stream that an SREAD names, as the SOPENs before it in the queue leave it at its ISSUE; later as its first extent
has recorded it. -/
def streamBound (p : Prog) (op : EngOp) : Nat :=
  let sid := fld (wordAt op.desc 0) 55 52
  match op.exts with
  | (lo, hi, _) :: _ => (hi - lo) / 16
  | [] => match ((queue p 3).filter fun o => decide (o.seq < op.seq) && decide (fld (wordAt o.desc 0) 63 56 = 0x60) && decide (fld (wordAt o.desc 0) 55 52 = sid)).getLast? with
  | some o => fld (wordAt o.desc 0) 31 0
  | none => ((p.streams.find? fun e => decide (e.1 = sid)).map fun e => e.2.k).getD 0

def extSel (p : Prog) (c : Nat) (op : EngOp) (code : Nat) : List Extent :=
  let d := op.desc
  let w0 := wordAt d 0
  let hi := fun i => fld (wordAt d i) 63 32
  let lo := fun i => fld (wordAt d i) 31 0
  let n := fld w0 31 0
  let nr := fld w0 51 47
  let rows := fld (wordAt d 5) 47 32
  let sb := rowBytes (fmtEntry [] (fld w0 42 38)).width n
  let ids := fun k => if flag w0 45 then [extRows c (hi 2) 0 1 (8 * k) false] else []
  match code with
  | 0x61 => extRows c (hi 1) (lo 1) nr sb false :: ids (nr * n)
  | 0x62 => [extRows c (hi 1) 0 1 (16 * n) false]
  | 0x63 => [extRows c (hi 1) 0 1 (16 * streamBound p op) true, extRows c (hi 2) 0 1 8 true]
  | 0x64 =>
    let m := fld (wordAt d 5) 63 56
    let b := fld (wordAt d 5) 55 52
    [extRows c (hi 1) (lo 1) n (rowBytes b m) false, extRows c (hi 4) (lo 4) nr (m * 2 ^ b * (if fld w0 37 36 = 0 then 1 else 2)) false] ++ ids n
  | 0x65 => [extRows c (hi 1) (lo 1) rows sb false, extRows c (hi 4) 16 rows 16 true] ++ ids (rows * n)
  | _ => []

/-- The bounding extent of a strided side of an XFR operation. -/
def extXfr (base : Nat) (len n1 n2 : Nat) (s1 s2 : Int) (wr : Bool) : Extent :=
  let e1 := s1 * ((max n1 1 : Nat) - 1 : Int)
  let e2 := s2 * ((max n2 1 : Nat) - 1 : Int)
  { lo := ((base : Int) + min 0 e1 + min 0 e2).toNat, hi := ((base : Int) + max 0 e1 + max 0 e2 + (len : Int)).toNat, wr,
    rows := fun _ => (List.range (max n2 1)).flatMap fun k => (List.range (max n1 1)).map fun j => (((base : Int) + k * s2 + j * s1).toNat, len) }

def extXf (op : EngOp) (code : Nat) : List Extent :=
  let d := op.desc
  let len := fld (wordAt d 3) 63 32
  let n1 := fld (wordAt d 3) 31 16
  let n2 := fld (wordAt d 3) 15 0
  let sg := fun i hi' => signedOf 32 (if hi' then fld (wordAt d i) 63 32 else fld (wordAt d i) 31 0)
  let peerDst := code = 0x82 && flag (wordAt d 0) 30
  let peerSrc := code = 0x82 && !flag (wordAt d 0) 30
  (if code = 0x80 || (code = 0x82 && !peerSrc) then [extXfr (fld (wordAt d 1) 51 0) len n1 n2 (sg 4 true) (sg 5 true) false] else [])
    ++ (if code = 0x83 || peerDst then [] else [extXfr (fld (wordAt d 2) 51 0) len n1 n2 (sg 4 false) (sg 5 false) true])

/-- The extents of an operation of engine `e`. -/
def extents (s : State) (p : Prog) (c e : Nat) (op : EngOp) : List Extent :=
  let code := fld (wordAt op.desc 0) 63 56
  match e with
  | 0 => extAnv c op code
  | 1 => extChs c op code
  | 2 => extTng s p c op code
  | 3 => extSel p c op code
  | _ => extXf op code

/-- An operation of engine `e` issued at place `seq` waits for an incomplete one that another engine was issued earlier
and that it conflicts with; inside a region nothing waits (R267, R278). -/
def opHeld (p : Prog) (e : Nat) (op : EngOp) : Bool :=
  !op.inJig && (List.range 6).any fun e' => decide (e' ≠ e) && (queue p e').any fun o =>
    decide (o.seq < op.seq) && o.exts.any fun x => op.exts.any (conflict x)

/-- A sequencer access to `n` bytes at `a` waits for an incomplete operation it conflicts with (R267). -/
def seqHeld (p : Prog) (a n : Nat) (wr : Bool) : Bool :=
  !p.injig && (List.range 6).any fun e => (queue p e).any fun o => o.exts.any (conflict (a, a + n, wr))

end Sys2Proof.Machine
end

