-- ==== Sys2Proof/Machine/Engine.lean ====
section
/-! DEFINITION. What the engines share: the operation at the front of an engine's queue (R183-R186), rejection (R57)
and faults, numeric events (R78), checked operand rows of a core's scratchpad and drawer (R81, R239), and
poison counts (R105). Engines: 0 ANV, 1 CHS, 2 TNG, 3 SEL, 4 XFR0, 5 XFR1. -/

namespace Sys2Proof.Machine

/-- The first operation of an engine that has not run: operations start in queue order (R87, R183). -/
def nextOp (p : Prog) (e : Nat) : Option EngOp := (queue p e).find? fun o => !o.ran

def updOp (s : State) (c e ord : Nat) (f : EngOp → EngOp) : State :=
  updProg s c fun p => setQueue p e ((queue p e).map fun o => if o.ord = ord then f o else o)

/-- The operation as it stands in its queue now. -/
def curOp (s : State) (c e : Nat) (op : EngOp) : EngOp :=
  match prog? s c with
  | some p => ((queue p e).find? fun o => o.ord = op.ord).getD op
  | none => op

/-- A slip of the core's region is in progress (R221). -/
def slipping (s : State) (c : Nat) : Bool :=
  match (prog? s c).bind Prog.jig with
  | some j => j.slip.isSome
  | none => false

/-- An engine of a core can work: clocks running, core in C0, engine powered (R184, R430). -/
def engineUp (s : State) (c e : Nat) : Bool :=
  running s && (core s c).power = .c0 && (core s c).engOn.getLsbD e && !slipping s c && !clockPaused s c

/-- The opcodes of an engine (R88, R95, R142, R160, R187). -/
def engineOpcodes (e : Nat) : List Nat :=
  match e with
  | 0 => [1, 2, 3, 4, 5]
  | 1 => [0x20, 0x21, 0x22, 0x23, 0x24, 0x25, 0x26, 0x27, 0x28, 0x29, 0x2A, 0x2B, 0x2C, 0x30, 0x31, 0x32, 0x33, 0x34, 0x3F]
  | 2 => [0x40, 0x41, 0x42, 0x43, 0x44, 0x45, 0x46, 0x47, 0x48, 0x49, 0x4A]
  | 3 => [0x60, 0x61, 0x62, 0x63, 0x64, 0x65]
  | _ => [0x80, 0x81, 0x82, 0x83]

/-- A core's event register at `off` takes the bits of `mask` (R78, R144, R159). -/
def engEvent (s : State) (c off mask : Nat) : State :=
  if mask = 0 then s else raiseAt s (bCore c) off (off + 8) (BitVec.ofNat 64 mask)

/-- Numeric events of ANV, CHS or TNG, in the engine's register and in the task's summary (R78). -/
def numEvent (s : State) (c e mask : Nat) : State :=
  updProg (engEvent s c (0x200 + 0x20 * e) mask) c fun p => { p with numsum := p.numsum ||| BitVec.ofNat 8 mask }

/-- Rejection with event bit `bit` of the register at `off` (R57, R186, R200): the operation is not executed. -/
def rejectAt {α : Type} (c off bit : Nat) : M α := do
  modify fun s => engEvent s c off (2 ^ bit)
  throw (.exc 6 bit 0 0)

/-- Rejection with a numeric event (FMTERR 7, LIMIT 6). -/
def rejectNum {α : Type} (c e bit : Nat) : M α := do
  modify fun s => numEvent s c e (2 ^ bit)
  throw (.exc 6 bit 0 0)

/-- Rejection for a descriptor that R103, R142, R160 or R187 refuse: FMTERR, where the engine records it. -/
def rejectFmt {α : Type} (c e : Nat) : M α :=
  if e < 3 then rejectNum c e 7 else if e = 3 then rejectAt c 0x280 3 else throw (.exc 6 0 0 0)

def require' (c e : Nat) (ok : Bool) : M Unit := if ok then return () else rejectFmt c e

/-- An operation parks (R312): an XFR's goes back to the start of its row, a POOL to the start of its bag, whose partial sum is discarded;
the others stand at their first item not complete. -/
def parkOp (s : State) (c e : Nat) (op : EngOp) : State :=
  if 4 ≤ e then updOp s c e op.ord fun o => { o with sent := false, noted := false, lepoch := 0, rows := [] }
  else if e = 2 ∧ opcodeOf op = 0x41 then
    let s := { s with shares := s.shares.filter fun x => x.core ≠ c,
                      dtOut := s.dtOut.map fun r => if (curOp s c e op).tags.contains r.tag then { r with kind := .dropped } else r }
    updOp s c e op.ord fun o => { o with sent := false, tags := [], sums := [], deferred := [], rows := [], marks := [] }
  else s

/-- The end of an attempt to run an operation. -/
def engineEnd (c e : Nat) (op : EngOp) : EStateM.Result Stop State Unit → State
  | .ok _ s => updOp s c e op.ord fun o => { o with ran := true }
  | .error .wait s => s
  | .error .park s => parkOp s c e op
  | .error (.abort code) s => regionBreak s c e op code
  | .error (.exc ecode sub ea detail) s =>
    let _ := detail
    engineFault s c { eng := e, opcode := opcodeOf op, ecode, sub, eaddr := ea, detail := op.ord % 2 ^ 32 }

/-- An engine's agent of the task is parked (R312). -/
def enginesParked (s : State) (c task : Nat) : Bool := [1, 2, 3].any (agentParked s c task)

def anyParked (s : State) (c task : Nat) : Bool := (List.range 4).any (agentParked s c task)

/-- In queue mode an operation does not start while the core's stores are buffered, which it must see (R264, R267), nor
while an agent of its task is parked (R313); one whose own agent is parked performs no access (R312). -/
def startHeld (s : State) (c e : Nat) (p : Prog) (op : EngOp) : Bool :=
  !op.inJig && (((engAgent e).map (agentParked s c p.task)).getD false || (!opStarted op && (!(core s c).sbuf.isEmpty || anyParked s c p.task)))

/-! Banks (R85, R86). -/

def bankEmpty : Bank := { mode := .empty, live := false, elems := [] }
def elemZero : BankElem := { acc := accZero, f32 := 0, poison := false }

def bankOf (p : Prog) (n : Nat) : Bank := mapGet (fun _ => bankEmpty) p.banks n
def setBank (p : Prog) (n : Nat) (b : Bank) : Prog := { p with banks := mapSet (fun _ => bankEmpty) p.banks n b }

def bankElem (b : Bank) (m n : Nat) : BankElem := mapGet (fun _ => elemZero) b.elems (m * 128 + n)
def setBankElem (b : Bank) (m n : Nat) (e : BankElem) : Bank :=
  { b with elems := mapSet (fun _ => elemZero) b.elems (m * 128 + n) e }

/-- The elements of the first `m` rows and `n` columns. -/
def bankIx (m n : Nat) : List (Nat × Nat) := (List.range m).flatMap fun i => (List.range n).map fun j => (i, j)

/-- The bank, rows and columns that an operation of Anvil writes (R82, R90). -/
def bankResult (op : EngOp) : Option (Nat × Nat × Nat) :=
  let w0 := wordAt op.desc 0
  let w3 := wordAt op.desc 3
  match opcodeOf op with
  | 1 => some (fld w0 39 39, fld w0 7 0, fld w0 15 8)
  | 3 | 4 => some (fld w0 44 44, fld w3 7 0, fld w3 15 8)
  | _ => none

/-- An operation's result elements in its bank are marked (R411). -/
def poisonBank (op : EngOp) (p : Prog) : Prog :=
  match bankResult op with
  | some (b, m, n) => setBank p b ((bankIx m n).foldl (fun x q => setBankElem x q.1 q.2 { bankElem x q.1 q.2 with poison := true }) (bankOf p b))
  | none => p

/-- R105: a chunk written by the core's engines with its poison bit set adds 1 to the task's count. -/
def countPoison (s : State) (c n : Nat) : State :=
  ctxCtr (coreCtr (updProg s c fun p => { p with poisonCnt := satAdd64 p.poisonCnt n }) c 19 n) (ctxOf s c) 11 n

/-- The chunks of a result row in the scratchpad are marked and counted (R105). -/
def poisonRow (s : State) (c : Nat) (r : Nat × Nat) : State :=
  (parts r.1 r.2).foldl (fun s q =>
    let k := canon (q.1 * 64) / 64
    if chunkPoison s k then s else countPoison (setChunkPoison s k true) c 1) s

/-- The engine writes its results as it goes, to memory of any kind. -/
def movesRows (e : Nat) : Bool := decide (e = 2) || decide (4 ≤ e)

/-- A parity error injected into a moving engine is met as it works on the operation (R411, R425). -/
def parityMet (s : State) (c e : Nat) (op : EngOp) : State :=
  if movesRows e then
    let r := fireInjection s (bCore c) 5 (some c) none
    if r.1 then updOp r.2 c e op.ord fun o => { o with parity := true } else r.2
  else s

/-- An injected parity error of an engine or of an accumulator bank (R411, R425) poisons every result: the scratchpad chunks written, or
the bank elements. -/
def engineParity (s : State) (p : Prog) (c e : Nat) (op : EngOp) : State :=
  let r := if movesRows e then ((curOp s c e op).parity && e = 2, s) else fireInjection s (bCore c) 5 (some c) none
  let q := if e = 0 then fireInjection r.2 (bCore c) 7 (some c) none else (false, r.2)
  if r.1 || q.1 then
    ((extents s p c e op).filter Extent.wr).foldl (fun s x => (x.rows ()).foldl (fun s r => poisonRow s c r) s)
      (if e = 0 then updProg q.2 c (poisonBank op) else q.2)
  else q.2

/-- A command that runs an operation of opcode `code`: on the front operation of the engine, where it has that opcode;
an opcode that the engine lacks is rejected (R103). It waits where the range tracker holds it (R267). -/
def engineRun (s : State) (c e code : Nat) (body : Prog → EngOp → M Unit) : Out :=
  if !engineUp s c e then idle s
  else match prog? s c with
    | none => idle s
    | some p => match nextOp p e with
      | none => idle s
      | some op =>
        if opHeld p e op || startHeld s c e p op then idle s
        else if opcodeOf op = code then
          done (match (body p op).run (parityMet s c e op) with
            | .ok _ s' => engineParity (engineEnd c e op (.ok () s')) p c e op
            | r => engineEnd c e op r)
        else if (engineOpcodes e).contains (opcodeOf op) then idle s
        else done (engineEnd c e op ((rejectFmt c e : M Unit).run s))

/-- One slip cause met in the region of core `c` (R208-R210, R215, R220). -/
def applySlip (c : Nat) (s : State) : SlipObs → State
  | .bank => slipStart s c 3 1
  | .drawer => slipStart s c 4 2
  | .drawerRefresh k b found word => slipStart (refreshRow s k b.val found word.val) c 4 2
  | .outsideSpad => slipStart s c 5 1
  | .outsideDrawer => slipStart s c 5 2
  | .allowance stall => slipStart s c 6 stall

/-- Slip causes met together in the region of core `c`. -/
def applySlips (s : State) (c : Nat) (slips : List SlipObs) : State := slips.foldl (applySlip c) s

/-! Pinned memory (R203, R204). -/

/-- Is a CA in the pinned set of a region whose participants are `l`, as far as engines reach it? A sealed participant is one
(R202, R223). -/
def pinnedBy (s : State) (l : List Nat) (a : Nat) : Bool :=
  decide (a < 2 ^ 51) &&
    match caKind (canon a) with
    | .spad k _ | .drawer k _ => l.contains k
    | .win cl o => l.any (fun k => decide (clusterOf k = cl)) && decide (o < winWays s cl * 0x100000)
    | _ => false

/-- Is a CA in the pinned set of the region of core `c`? -/
def pinnedCa (s : State) (c a : Nat) : Bool := pinnedBy s ((((prog? s c).bind Prog.jig).map Jig.parts).getD []) a

/-- An access for the operation that engine `e` works on: one of a region goes to the pinned set only (R204). -/
def engPinned (c e a n : Nat) : M Unit := do
  let s ← get
  match (prog? s c).bind fun q => nextOp q e with
  | some op => if op.inJig && decide (0 < n) && !(pinnedBy s op.pins a && pinnedBy s op.pins (a + n - 1)) then throw (.abort 1)
  | none => pure ()

/-- An access of engine `e` for the operation it works on: held to the pinned set in a region, then checked and translated. -/
def engAccess (c e : Nat) (ctx : BitVec 12) (a n : Nat) (p : Perm) : M (List (Target × Nat)) := do
  engPinned c e a n
  access c ((engAgent e).getD 0) ctx a n p

/-! Operand rows in the issuing core's scratchpad or drawer (R81, R94, R239). -/

/-- One row of an operand is checked: bound, then segments; a fault gives the row's first byte (log entry 93). -/
def operandRow (c : Nat) (ctx : BitVec 12) (drawer : Bool) (off n : Nat) (p : Perm) : M Target := do
  let base := if drawer then drawerBase c else spadBase c
  let lim := if drawer then drawerSize else spadSize
  if lim < off + n then throw (.exc 4 5 (base + off) 0)
  let s ← get
  match segCheck s ctx (base + off) n p with
  | .error sub => throw (.exc 4 sub (base + off) 0)
  | .ok t => return segTarget (base + off) t

/-- The rows of an operand are checked in order. -/
def operandRows (c : Nat) (ctx : BitVec 12) (drawer : Bool) (stride n : Nat) (p : Perm) : Nat → Nat → M (List Target)
  | 0, _ => return []
  | k + 1, off => do
    let t ← operandRow c ctx drawer off n p
    let r ← operandRows c ctx drawer stride n p k (off + stride)
    return t :: r

def readRow (w : Who) (t : Target) (n : Nat) : M Row := readParts w t (parts t.addr n)

def readRowList (w : Who) (n : Nat) : List Target → M (List Row)
  | [] => return []
  | t :: ts => do
    let r ← readRow w t n
    let rs ← readRowList w n ts
    return r :: rs

/-- Chunks of a row's range that are poisoned. -/
def poisonedChunks (s : State) (a n : Nat) : Nat := ((parts a n).filter fun q => chunkPoison s q.1).length

/-- A result row in scratchpad: written, its poisoned chunks counted, each row for itself (R105; log entry 206). -/
def writeRow (c : Nat) (w : Who) (t : Target) (r : Row) : M Unit := do
  writeParts w t (parts t.addr r.bytes.length) r
  modify fun s => countPoison s c (poisonedChunks s t.addr r.bytes.length)

def writeRowList (c : Nat) (w : Who) : List (Target × Row) → M Unit
  | [] => return ()
  | (t, r) :: rest => do
    writeRow c w t r
    writeRowList c w rest

/-! Elements of rows. -/

/-- Element `i` of a row, of width `w`, touches a poisoned chunk. -/
def elemPois (w : Nat) (r : Row) (i : Nat) : Bool :=
  ((r.pois.drop (i * w / 8)).take ((i * w + w - 1) / 8 - i * w / 8 + 1)).any id

/-- The poison of a packed row's bytes from its elements' marks. -/
def packPois (w : Nat) (ps : List Bool) : List Bool :=
  (List.range (rowBytes w ps.length)).map fun b =>
    (ps.drop (8 * b / w)).take ((8 * b + 7) / w - 8 * b / w + 1) |>.any id

/-- A packed row of codes and marks. -/
def packedRow (w : Nat) (codes : List Nat) (ps : List Bool) : Row := { bytes := packRow w codes, pois := packPois w ps }

/-- The decoded elements of a row with their marks. -/
def rowEls (f : Fmt) (cbs : SMap Codebook) (scaled : Bool) (n : Nat) (r : Row) : List (Num × Bool) :=
  (List.range n).map fun i => (decodeEl f cbs scaled (elemBits f.width r.bytes i), elemPois f.width r i)

/-- The scales of a row of scale bytes with their marks. -/
def rowScales (sf : Bool) (n : Nat) (r : Row) : List (Num × Bool) :=
  (List.range n).map fun i => (scaleNum sf (r.bytes.getD i 0).toNat, r.pois.getD i false)

/-- The flush read that a waiting notification at PACKAGE needs (R295). -/
def notifyFlush (s : State) (c e : Nat) (op : EngOp) : Bool := notifiesPackage e op && hostWritesDone s c && flushDue s c

/-- The bank that an operation of Anvil names (R82, R90). -/
def anvBank (op : EngOp) : Nat := if opcodeOf op = 1 then fld (wordAt op.desc 0) 39 39 else fld (wordAt op.desc 0) 44 44

/-- The operation is on Anvil's k-step path: an MMA (R87). -/
def onKStep (op : EngOp) : Bool := opcodeOf op = 1

/-- Can operation `o` of Anvil complete before an operation `x` that started before it (R87, R88, R457)? An MMA is passed by the
transfer path where the banks differ; an RD, which has finished with its bank when it has read it and completes 13 cycles later, by
all but an RD; a load, which completes when its last element is in the bank, by an MMA or a CLR of the other bank; a CLR, which completes
as it starts, by none. -/
def mayPass (o x : EngOp) : Bool :=
  match opcodeOf x with
  | 1 => !onKStep o && decide (anvBank x ≠ anvBank o)
  | 2 => decide (opcodeOf o ≠ 2)
  | 3 | 4 => (onKStep o || decide (opcodeOf o = 5)) && decide (anvBank x ≠ anvBank o)
  | _ => false

/-- The operation of Anvil's queue behind `n` + 1 older ones, where it may pass each of them. -/
def overtaking (q : List EngOp) (n : Nat) : Option EngOp := q[n + 1]?.filter fun o => (q.take (n + 1)).all (mayPass o)

/-- The operation that completes next, its engine, and the queue without it (R87, R457). -/
def completing (p : Prog) : Finisher → Option (Nat × EngOp × List EngOp)
  | .oldest e => match queue p e.val with
    | [] => none
    | op :: rest => some (e.val, op, rest)
  | .overtaker n => (overtaking (queue p 0) n).map fun o => (0, o, (queue p 0).filter fun x => x.ord ≠ o.ord)

/-- Completion of an operation of an engine, once it has run (R185, R457). -/
def execEngineOpComplete (core : CoreIx) (op : Finisher) (s : State) : Out :=
  let c := core.val
  match prog? s c with
  | none => idle s
  | some p => match completing p op with
    | some (e, op, rest) =>
      if engineUp s c e && opFinished s c e op then
        done (leaveDone (completeOp (updProg s c fun p => setQueue p e rest) c e op) c)
      else if op.ran && notifyFlush s c e op then done (issueFlush s none)
      else idle s
    | none => idle s

/-! Poisoned chunks of written pieces (R105). -/

/-- The chunks that written pieces leave poisoned (R105). -/
def badParts (s : State) (t : Target) : List (Nat × Nat × Nat) → Row → Nat
  | [], _ => 0
  | (k, _, n) :: rest, r =>
    boolNat ((r.pois.take n).any id || (!t.host && uncached whoNone k && chunkPoison s k))
      + badParts s t rest { bytes := r.bytes.drop n, pois := r.pois.drop n }

def badPieces (s : State) : List (Target × Nat) → Row → Nat
  | [], _ => 0
  | (t, n) :: rest, r =>
    badParts s t (parts t.addr n) { bytes := r.bytes.take n, pois := r.pois.take n }
      + badPieces s rest { bytes := r.bytes.drop n, pois := r.pois.drop n }

/-! Holes (R21, R238). -/

/-- A read or write that meets a hole goes on: data is poisoned with free bytes, a write is discarded, and the fault is
recorded (R21). -/
def catchHole {α : Type} (m : M α) (k : Nat → M α) : M α := fun s =>
  match m s with
  | .error (.exc 4 4 ea _) s' => k ea s'
  | r => r

def freeRow (n : Nat) : M Row := do
  let s ← get
  let f := freeNat s
  set f.2
  return { bytes := toBytes n f.1, pois := List.replicate n true }

/-- The first hole an operation of engine `e` met is recorded for its end (R21). -/
def noteHoleAt (c e : Nat) (op : EngOp) (a : Nat) : M Unit :=
  modify fun s => updOp s c e op.ord fun o => { o with hole := some (o.hole.getD a) }

/-- The end of an operation: the fault of a hole, if it met one (R21, R238). -/
def holeFaultAt (c e : Nat) (op : EngOp) : M Unit := do
  let s ← get
  match (curOp s c e op).hole with
  | some a => throw (.exc 4 4 a 0)
  | none => return ()

end Sys2Proof.Machine
end

