-- ==== Sys2Proof/Machine/Anvil.lean ====
section
/-! DEFINITION. Anvil (R79-R93): exact-sum and ordered products into the accumulator banks, readout, loads and
clears. -/

namespace Sys2Proof.Machine

/-! Products. -/

/-- The sum of the ordinary products of a block, and what its special products show: NaN, +∞, -∞, and NV of ∞ × 0
(R71). -/
structure BlockSum where
  sum : Num
  nan : Bool
  pinf : Bool
  ninf : Bool
  nv : Bool
  deriving DecidableEq, Repr

def blockZero : BlockSum := { sum := zeroNum, nan := false, pinf := false, ninf := false, nv := false }

def blockStep (b : BlockSum) (x y : Num) : BlockSum :=
  match x, y with
  | .fin _ _ _, .fin _ _ _ => { b with sum := (numAdd .rne b.sum (numMul x y).1).1 }
  | _, _ =>
    let r := numMul x y
    match r.1 with
    | .nan => { b with nan := true, nv := b.nv || r.2 }
    | .inf true => { b with ninf := true }
    | .inf false => { b with pinf := true }
    | .fin _ _ _ => b

/-- A contribution joins an accumulator; with the flags that this contribution itself set (R73). -/
def contribute (a : Acc) (c : Num) : Acc × Nat :=
  let a1 := accAdd { a with wov := false, trunc := false } c
  ({ a1 with wov := a.wov || a1.wov, trunc := a.trunc || a1.trunc }, accFlags a1)

/-- One block enters an accumulator (R71, R61): the accumulator and the flags set. -/
def blockAdd (a : Acc) (xs ys : List Num) (sa sb : Num) : Acc × Nat :=
  if sa = .nan || sb = .nan then ({ a with nan := true, count := a.count + 1 }, evNV)
  else
    let xs := if sa.isZero then xs.map fun _ => zeroNum else xs
    let ys := if sb.isZero then ys.map fun _ => zeroNum else ys
    let b := (xs.zip ys).foldl (fun b q => blockStep b q.1 q.2) blockZero
    let r := contribute a (numMul (numMul b.sum sa).1 sb).1
    ({ r.1 with nan := r.1.nan || b.nan, pinf := r.1.pinf || b.pinf, ninf := r.1.ninf || b.ninf },
      r.2 ||| (if b.nv then evNV else 0))

/-- The fixed pairwise tree of R76 over 32 values. -/
def treeSum (p : List (BitVec 32)) : BitVec 32 :=
  ([16, 8, 4, 2, 1].foldl (fun p w => List.zipWith add32 (p.take w) (p.drop w)) p).headD 0

/-- Chunks of 32 enter the ordered accumulator in order, the last padded with +0.0 (R76). -/
def orderedSum (acc : BitVec 32) : Nat → List (BitVec 32) → BitVec 32
  | 0, _ => acc
  | k + 1, ps => orderedSum (add32 acc (treeSum (ps.take 32 ++ List.replicate (32 - ps.length) 0))) k (ps.drop 32)

/-- One product, exact and then rounded to FP32 (R76), with no event (log entry 202). -/
def prod32 (x y : Num) : BitVec 32 := enc32 .rne (numMul x y).1

/-! MMA. -/

def blkSz (n : Nat) : Nat := if n = 1 then 16 else 32

def mmaWords (d : List Word) : Bool :=
  let w0 := wordAt d 0
  decide (fld w0 34 32 = 0) && decide (wordAt d 5 = 0) && decide (wordAt d 6 = 0) && decide (wordAt d 7 = 0)
    && decide (fld w0 45 44 ≠ 3) && decide (fld w0 43 42 ≠ 3) && decide (1 ≤ fld w0 31 16)
    && decide (1 ≤ fld w0 15 8) && decide (fld w0 15 8 ≤ 128) && decide (1 ≤ fld w0 7 0) && decide (fld w0 7 0 ≤ 64)
    && decide (fld (wordAt d 1) 63 32 % 64 = 0) && decide (fld (wordAt d 1) 31 0 % 64 = 0)
    && decide (fld (wordAt d 2) 63 32 % 64 = 0) && decide (fld (wordAt d 2) 31 0 % 64 = 0)
    && (decide (fld w0 45 44 = 0) || (decide (fld (wordAt d 3) 63 32 % 16 = 0) && decide (fld (wordAt d 4) 63 32 % 16 = 0)))
    && (decide (fld w0 43 42 = 0) || (decide (fld (wordAt d 3) 31 0 % 16 = 0) && decide (fld (wordAt d 4) 31 0 % 16 = 0)))

/-- An element format of exact products (R79). -/
def exactFmt (f : Fmt) : Bool := decide (3 ≤ f.width) && decide (f.width ≤ 8) && !f.isE8m0

def transpose {α : Type} (n : Nat) (d : α) (rows : List (List α)) : List (List α) :=
  (List.range n).map fun j => rows.map fun r => r.getD j d

/-- What an MMA reads: A as rows of K elements, B as columns of K elements, scales of A by row and block, scales of B
by block and column. -/
structure MmaIn where
  a : List (List (Num × Bool))
  b : List (List (Num × Bool))
  sa : List (List (Num × Bool))
  sb : List (List (Num × Bool))
  deriving DecidableEq, Repr

/-- The scales along k of an operand in blocks of code `b`: each block that the product reads has one (R62, R83). -/
def kScales (b k : Nat) : Nat := (k + blkSz b - 1) / blkSz b

/-- One element of an exact product: blocks of the effective size in order, each with the scale of the block that holds it in
each operand (R62; log entry 176). -/
def exactElem (x : MmaIn) (k ba bb m n : Nat) (e0 : BankElem) : BankElem × Nat :=
  let blk := min (blkSz ba) (blkSz bb)
  let ra := x.a.getD m []
  let rb := x.b.getD n []
  let one : Num × Bool := (.fin false 1 0, false)
  (List.range (k / blk)).foldl (fun (st : BankElem × Nat) i =>
    let xs := (ra.drop (i * blk)).take blk
    let ys := (rb.drop (i * blk)).take blk
    let sa := if ba = 0 then one else (x.sa.getD m []).getD (i * blk / blkSz ba) one
    let sb := if bb = 0 then one else (x.sb.getD (i * blk / blkSz bb) []).getD n one
    let r := blockAdd st.1.acc (xs.map Prod.fst) (ys.map Prod.fst) sa.1 sb.1
    let bad := xs.any Prod.snd || ys.any Prod.snd || sa.2 || sb.2
    ({ st.1 with acc := r.1, poison := st.1.poison || bad }, st.2 ||| r.2)) (e0, 0)

/-- One element of an ordered product; its FP32 steps set no event (R76; log entry 202). -/
def orderedElem (x : MmaIn) (k m n : Nat) (e : BankElem) : BankElem :=
  let ra := x.a.getD m []
  let rb := x.b.getD n []
  let ps := (ra.zip rb).map fun q => prod32 q.1.1 q.2.1
  { e with f32 := orderedSum e.f32 ((k + 31) / 32) ps, poison := e.poison || ra.any Prod.snd || rb.any Prod.snd }

def anvMma (c : Nat) (p : Prog) (op : EngOp) : M Unit := do
  let d := op.desc
  let w0 := wordAt d 0
  let k := fld w0 31 16
  let n := fld w0 15 8
  let m := fld w0 7 0
  let ba := fld w0 45 44
  let bb := fld w0 43 42
  let bank := fld w0 39 39
  let ta := flag w0 37
  let tb := flag w0 36
  let fa := fmtEntry op.fmts (fld w0 55 51)
  let fb := fmtEntry op.fmts (fld w0 50 46)
  let ordered := decide (fld w0 55 51 = fld w0 50 46) && (decide (fld w0 55 51 = 1) || decide (fld w0 55 51 = 2))
  require' c 0 (mmaWords d && fmtUsable fa op.cbs && fmtUsable fb op.cbs && (ordered || (exactFmt fa && exactFmt fb)))
  require' c 0 (if ordered then decide (ba = 0) && decide (bb = 0) else decide (k % min (blkSz ba) (blkSz bb) = 0))
  let b0 := if flag w0 38 then bankEmpty else bankOf p bank
  let md := if ordered then BankMode.ordered else .exact
  require' c 0 (decide (b0.mode = .empty) || decide (b0.mode = md))
  let ctx := p.ctx
  let la := rowBytes fa.width (if ta then m else k)
  let lb := rowBytes fb.width (if tb then k else n)
  let ca ← operandRows c ctx false (fld (wordAt d 1) 31 0) la .r (if ta then k else m) (fld (wordAt d 1) 63 32)
  let cb ← operandRows c ctx (flag w0 35) (fld (wordAt d 2) 31 0) lb .r (if tb then n else k) (fld (wordAt d 2) 63 32)
  let csa ← if ba = 0 then pure [] else operandRows c ctx false (fld (wordAt d 4) 63 32) (kScales ba k) .r m (fld (wordAt d 3) 63 32)
  let csb ← if bb = 0 then pure [] else operandRows c ctx false (fld (wordAt d 4) 31 0) n .r (kScales bb k) (fld (wordAt d 3) 31 0)
  if !ordered && (bankIx m n).any (fun q => decide (accLimit < (bankElem b0 q.1 q.2).acc.count + k / min (blkSz ba) (blkSz bb))) then
    rejectNum c 0 6
  let s ← get
  let w := whoCore s c
  let ra ← readRowList w la ca
  let rb ← readRowList w lb cb
  let rsa ← readRowList w (kScales ba k) csa
  let rsb ← readRowList w n csb
  let da := ra.map (rowEls fa op.cbs (ba ≠ 0) (if ta then m else k))
  let db := rb.map (rowEls fb op.cbs (bb ≠ 0) (if tb then k else n))
  let x : MmaIn := {
    a := if ta then transpose m (zeroNum, false) da else da
    b := if tb then db else transpose n (zeroNum, false) db
    sa := rsa.map (rowScales (flag w0 41) (kScales ba k))
    sb := rsb.map (rowScales (flag w0 40) n) }
  let r := (bankIx m n).foldl (fun (st : Bank × Nat) q =>
    let e := bankElem st.1 q.1 q.2
    if ordered then (setBankElem st.1 q.1 q.2 (orderedElem x k q.1 q.2 e), st.2)
    else
      let y := exactElem x k ba bb q.1 q.2 e
      (setBankElem st.1 q.1 q.2 y.1, st.2 ||| y.2)) ({ b0 with mode := md, live := true }, 0)
  modify fun s => numEvent (ctxCtr (coreCtr (updProg s c fun p => setBank p bank r.1) c 2 (m * n * k)) ctx 2 (m * n * k)) c 0 r.2

/-! RD. -/

/-- The fields of a readout; no alignment is asked of its addresses and strides (log entry 205). -/
def rdWords (d : List Word) : Bool :=
  let w0 := wordAt d 0
  decide (fld w0 41 32 = 0) && decide (fld (wordAt d 3) 63 16 = 0)
    && [4, 5, 6, 7].all (fun i => decide (wordAt d i = 0))
    && decide (1 ≤ fld (wordAt d 3) 15 8) && decide (fld (wordAt d 3) 15 8 ≤ 128)
    && decide (1 ≤ fld (wordAt d 3) 7 0) && decide (fld (wordAt d 3) 7 0 ≤ 64)

/-- FP32 OSCALE is finite (R103). -/
def oscaleOk (w0 : Word) : Bool := decide (fld w0 30 23 ≠ 255)

/-- The value that a readout rounds, before any block scale, and its flags (R91 steps 1-3). -/
def readoutNum (mode : BankMode) (e : BankElem) (osc : Option Num) : Num × Nat :=
  let r := if mode = .ordered then (dec32 e.f32, 0) else accNum e.acc
  match osc, r.1 with
  | none, _ => r
  | some _, .nan => r
  | some o, v =>
    let q := numMul v o
    (q.1, r.2 ||| (if q.2 then evNV else 0))

/-- One row's codes: each value rounded to the output format, with its flags; under a block scale each block's scale
is chosen first (R91, R92). -/
def readoutRow (f : Fmt) (cbs : SMap Codebook) (r : Rnd) (qm qb : Nat) (vs : List Num) : List Nat × List Nat × Nat :=
  let nanF := fun (c : Nat) => if isNanCode f c then evNANOUT else 0
  if qm = 0 then
    let cs := vs.map fun v => encodeEl f cbs false r v
    (cs.map Prod.fst, [], cs.foldl (fun a q => a ||| q.2 ||| nanF q.1) 0)
  else
    (List.range (vs.length / qb)).foldl (fun (st : List Nat × List Nat × Nat) i =>
      let blk := (vs.drop (i * qb)).take qb
      let sc := scaleFor qm f cbs blk
      let cs := blk.map fun v => encodeEl f cbs true r (unscale (decide (qm = 3)) sc v)
      (st.1 ++ cs.map Prod.fst, st.2.1 ++ [sc], cs.foldl (fun a q => a ||| q.2 ||| nanF q.1) st.2.2)) ([], [], 0)

/-- The marks of a row under blocks of `qb`: an element's block shares them (R104). -/
def blockMarks (qb : Nat) (ps : List Bool) : List Bool :=
  (List.range (ps.length / qb)).map fun i => ((ps.drop (i * qb)).take qb).any id

def spreadMarks (qb : Nat) (ms : List Bool) : List Bool := ms.flatMap fun b => List.replicate qb b

/-- RD (R91-R93). A NaN of the bank sets NANOUT whatever its format writes for it (log entry 208). -/
def anvRdBody (c : Nat) (p : Prog) (op : EngOp) : M Unit := do
  let d := op.desc
  let w0 := wordAt d 0
  let n := fld (wordAt d 3) 15 8
  let m := fld (wordAt d 3) 7 0
  let xp := flag w0 50
  let qm := fld w0 47 46
  let qb := if flag w0 45 then 32 else 16
  let bk := fld w0 44 44
  let b := bankOf p bk
  let f := fmtEntry op.fmts (fld w0 55 51)
  require' c 0 (rdWords d && oscaleOk w0)
  require' c 0 (if xp then decide (b.mode ≠ .ordered) && decide (fld w0 55 51 = 0) && decide (fld w0 49 45 = 0) && decide (fld w0 42 42 = 0) && decide (fld w0 31 0 = 0)
    else f.valid && !f.isCb && !f.isE8m0 && (decide (qm = 0) || (decide (f.width ≤ 8) && decide (n % qb = 0))))
  let len := if xp then 32 * n else rowBytes f.width n
  let cd ← operandRows c p.ctx false (fld (wordAt d 1) 31 0) len .w m (fld (wordAt d 1) 63 32)
  let cq ← if qm = 0 then pure [] else operandRows c p.ctx false (fld (wordAt d 2) 31 0) (n / qb) .w m (fld (wordAt d 2) 63 32)
  let osc := if flag w0 42 then some (dec32 (BitVec.ofNat 32 (fld w0 31 0))) else none
  let rows := (List.range m).map fun i =>
    let es := (List.range n).map fun j => bankElem b i j
    let ps := es.map BankElem.poison
    if xp then
      (({ bytes := es.flatMap fun e => accBytes e.acc, pois := ps.flatMap fun q => List.replicate 32 q } : Row), rowNil,
        es.foldl (fun a e => a ||| accFlags e.acc) 0)
    else
      let vs := es.map fun e => readoutNum b.mode e osc
      let r := readoutRow f op.cbs (rndOf (fld w0 49 48)) qm qb (vs.map Prod.fst)
      let fl := vs.foldl (fun a v => a ||| v.2 ||| (if v.1 = .nan then evNANOUT else 0)) r.2.2
      if qm = 0 then (packedRow f.width r.1 ps, rowNil, fl)
      else (packedRow f.width r.1 (spreadMarks qb (blockMarks qb ps)),
        ({ bytes := r.2.1.map (BitVec.ofNat 8), pois := blockMarks qb ps } : Row), fl)
  let s ← get
  let w := whoCore s c
  writeRowList c w ((cd.zip (rows.map fun r => r.1)) ++ (cq.zip (rows.map fun r => r.2.1)))
  modify fun s => updProg (numEvent s c 0 (rows.foldl (fun a r => a ||| r.2.2) 0)) c fun p =>
    if flag w0 43 then setBank p bk bankEmpty else p

/-! LDACC, ADDACC, CLR. -/

/-- LDACC and ADDACC (R90). -/
def anvLoadBody (add : Bool) (c : Nat) (p : Prog) (op : EngOp) : M Unit := do
  let d := op.desc
  let w0 := wordAt d 0
  let n := fld (wordAt d 3) 15 8
  let m := fld (wordAt d 3) 7 0
  let xp := flag w0 50
  let bk := fld w0 44 44
  let b := bankOf p bk
  let md := if xp then BankMode.exact else .ordered
  require' c 0 (rdWords d && oscaleOk w0 && decide (fld w0 55 51 = 0) && decide (fld w0 49 46 = 0) && decide (fld w0 43 42 = 0)
    && decide (wordAt d 2 = 0) && (xp || !add))
  require' c 0 (decide (b.mode = .empty) || decide (b.mode = md))
  let len := (if xp then 32 else 4) * n
  let cd ← operandRows c p.ctx false (fld (wordAt d 1) 31 0) len .r m (fld (wordAt d 1) 63 32)
  let s ← get
  let rows ← readRowList (whoCore s c) len cd
  let src := fun (i j : Nat) => (((rows.getD i rowNil).bytes.drop (32 * j)).take 32)
  if xp then
    require' c 0 ((bankIx m n).all fun q => (accOfBytes (src q.1 q.2)).isSome)
    if add && (bankIx m n).any (fun q => decide (accLimit < (bankElem b q.1 q.2).acc.count + ((accOfBytes (src q.1 q.2)).getD accZero).count)) then
      rejectNum c 0 6
  let b' := (bankIx m n).foldl (fun bb q =>
    let e := bankElem bb q.1 q.2
    let row := rows.getD q.1 rowNil
    if xp then
      let a := (accOfBytes (src q.1 q.2)).getD accZero
      let bad := elemPois 256 row q.2
      setBankElem bb q.1 q.2 (if add then { e with acc := accMerge e.acc a, poison := e.poison || bad } else { e with acc := a, poison := bad })
    else setBankElem bb q.1 q.2 { e with f32 := BitVec.ofNat 32 (elemBits 32 row.bytes q.2), poison := elemPois 32 row q.2 })
    { b with mode := md, live := true }
  modify fun s => updProg s c fun p => setBank p bk b'

/-- CLR empties its bank, which is then not live (R86; log entry 174). -/
def anvClrBody (c : Nat) (_ : Prog) (op : EngOp) : M Unit := do
  let w0 := wordAt op.desc 0
  require' c 0 (decide (w0 &&& ~~~(fieldMask 63 56 ||| fieldMask 44 44) = 0) && (op.desc.drop 1).all fun w => decide (w = 0))
  modify fun s => updProg s c fun p => setBank p (fld w0 44 44) bankEmpty

/-! Commands. -/

def execAnvMma (core : CoreIx) (slips : List SlipObs) (s : State) : Out :=
  engineRun s core.val 0 1 fun p op => do
    modify fun s => if p.injig then applySlips s core.val slips else s
    anvMma core.val p op

def execAnvRd (core : CoreIx) (s : State) : Out := engineRun s core.val 0 2 (anvRdBody core.val)
def execAnvLdacc (core : CoreIx) (s : State) : Out := engineRun s core.val 0 3 (anvLoadBody false core.val)
def execAnvAddacc (core : CoreIx) (s : State) : Out := engineRun s core.val 0 4 (anvLoadBody true core.val)
def execAnvClr (core : CoreIx) (s : State) : Out := engineRun s core.val 0 5 (anvClrBody core.val)

end Sys2Proof.Machine
end

