-- ==== Sys2Proof/Machine/Chisel.lean ====
section
/-! DEFINITION. Chisel (R94-R104): elementwise operations, conversion and quantisation, curves, and row reductions. -/

namespace Sys2Proof.Machine

/-! Arithmetic on values (R96, R97). -/

/-- A value rounded to FP32, with its flags. -/
def to32 (r : Rnd) (v : Num) : Num × Nat :=
  let q := encodeFloat fmtFp32 r v
  (decodeFloat fmtFp32 q.1, q.2)

/-- The larger (`mx`) or smaller of two values: NaN where either is, and +0 above -0 (R97). -/
def numPick (mx : Bool) (x y : Num) : Num :=
  match numCmp x y with
  | none => .nan
  | some .lt => if mx then y else x
  | some .gt => if mx then x else y
  | some .eq => if x.isZero then (if x.isNeg = mx then y else x) else x

/-- A SEL condition (R95); a comparison with NaN is false, except ≠. -/
def chsCond (cond : Nat) (x y : Num) : Bool :=
  match numCmp x y with
  | none => decide (cond = 3)
  | some o =>
    match cond with
    | 0 => o = .lt
    | 1 => o ≠ .gt
    | 2 => o = .eq
    | 3 => o ≠ .eq
    | 4 => o = .gt
    | _ => o ≠ .lt

def nvIf (b : Bool) : Nat := if b then evNV else 0

/-- 1/√x, to be rounded once. -/
def numRsqrt (x : Num) : Num × Bool :=
  match x with
  | .nan => (.nan, false)
  | .inf neg => if neg then (.nan, true) else (zeroNum, false)
  | .fin neg m e =>
    if m = 0 then (.inf neg, false)
    else if neg then (.nan, true)
    else
      let r := rsqrtJam m e
      (.fin false r.1 r.2, false)

/-- The exact result of an elementwise operation, before rounding, with NV (R95). -/
def chsExact (code cond : Nat) (r : Rnd) (x y w : Num) : Num × Nat :=
  match code with
  | 0x20 => let q := numAdd r x y; (q.1, nvIf q.2)
  | 0x21 => let q := numAdd r x y.negate; (q.1, nvIf q.2)
  | 0x22 => let q := numMul x y; (q.1, nvIf q.2)
  | 0x23 =>
    let q := numMul x y
    let t := numAdd r q.1 w
    (t.1, nvIf (q.2 || t.2))
  | 0x24 => (numPick true x y, 0)
  | 0x25 => (numPick false x y, 0)
  | 0x26 => (x.abs, 0)
  | 0x27 => (if chsCond cond x y then x else w, 0)
  | 0x28 => let q := numDiv x y; (q.1, nvIf q.2)
  | _ => let q := numRsqrt x; (q.1, nvIf q.2)

/-- R96: one rounding into Z, or through FP32 where some operand is wider than 16 bits. -/
def chsArith (code cond : Nat) (wide : Bool) (f : Fmt) (cbs : SMap Codebook) (r : Rnd) (x y w : Num) : Nat × Nat :=
  if wide then
    let q := chsExact code cond r (to32 r x).1 (to32 r y).1 (to32 r w).1
    let t := to32 r q.1
    let z := encodeEl f cbs false r t.1
    (z.1, q.2 ||| t.2 ||| z.2)
  else
    let q := chsExact code cond r x y w
    let z := encodeEl f cbs false r q.1
    (z.1, q.2 ||| z.2)

/-! Curves (R100-R102). -/

def curveOf (p : Prog) (n : Nat) : Curve := (mapFind? p.curves n).getD { valid := false, poison := false, bytes := [] }

def curveWord (b : List Byte) (o : Nat) : BitVec 32 := BitVec.ofNat 32 (ofBytes ((b.drop o).take 4))

def isNan32 (v : BitVec 32) : Bool := dec32 v = .nan
def isFin32 (v : BitVec 32) : Bool :=
  match dec32 v with
  | .fin _ _ _ => true
  | _ => false

/-- R101. -/
def curveOk (b : List Byte) : Bool :=
  let by' := fun i => (b.getD i 0).toNat
  isFin32 (curveWord b 0) && isFin32 (curveWord b 4) && numLt zeroNum (dec32 (curveWord b 4))
    && decide (by' 16 ≤ 4) && decide (by' 17 ≤ 1) && ((b.drop 18).take 46).all (fun x => decide (x = 0))
    && (List.range 256).all fun i => !isNan32 (curveWord b (64 + 4 * i))

/-- floor of a finite value. -/
def numFloor : Num → Int
  | .fin neg m e => scaledInt neg m e (min e 0) / (2 ^ (-(min e 0)).toNat : Nat)
  | _ => 0

def numSub (a b : Num) : Num := (numAdd .rne a b.negate).1

/-- fma rounded once to FP32 by RNE. -/
def fma32 (a b c : Num) : Num := (to32 .rne (numAdd .rne (numMul a b).1 c).1).1

/-- A value times 2^n; an n beyond any rounding boundary is held at ±1000. -/
def scale2 (v : Num) (n : Int) : Num :=
  match v with
  | .fin neg m e => .fin neg m (e + max (-1000) (min 1000 n))
  | x => x

/-- The table's polynomial at v (R102); its FP32 steps set no event (log entry 207). -/
def curveTable (b : List Byte) (v : Num) : Num :=
  let lo := dec32 (curveWord b 0)
  let invw := dec32 (curveWord b 4)
  let t := (to32 .rne (numMul (numSub v lo) invw).1).1
  let n64 := numOfInt 64 0
  if (b.getD 17 0).toNat = 1 ∧ numLt t zeroNum then dec32 (curveWord b 8)
  else if (b.getD 17 0).toNat = 1 ∧ !numLt t n64 then dec32 (curveWord b 12)
  else
    let t := if numLt t zeroNum then zeroNum else if numLt n64 t then n64 else t
    let seg := min 63 (numFloor t).toNat
    let u := numSub t (numOfInt seg 0)
    let cf := fun i => dec32 (curveWord b (64 + 16 * seg + 4 * i))
    fma32 (fma32 (fma32 (cf 3) u (cf 2)) u (cf 1)) u (cf 0)

/-- A curve's value before the conversion to Z, with NV (R102). The sign of a zero is its sign bit (log entry 179). -/
def curveEval (b : List Byte) (prescale : Num) (r : Rnd) (x y : Num) : Num × Nat :=
  if x = .nan || y = .nan then (.nan, 0)
  else
    let d := numAdd .rne x y.negate
    let q := numMul d.1 prescale
    let v := (to32 .rne q.1).1
    match v with
    | .nan => (.nan, nvIf (d.2 || q.2))
    | v =>
      match (b.getD 16 0).toNat with
      | 0 => (curveTable b v, 0)
      | 1 => let z := curveTable b v.abs; (if v.isNeg then z.negate else z, 0)
      | 2 => (curveTable b v.abs, 0)
      | 3 =>
        match v with
        | .inf neg => (if neg then zeroNum else .inf false, 0)
        | v =>
          let n := numFloor v
          (scale2 (curveTable b (numSub v (numOfInt n 0))) n, 0)
      | _ =>
        match v with
        | .inf neg => if neg then (.nan, evNV) else (.inf false, 0)
        | v =>
          if v.isZero then (.inf true, 0)
          else if v.isNeg then (.nan, evNV)
          else
            let e := log2Floor v
            ((to32 r (numAdd r (numOfInt e 0) (curveTable b (scale2 v (-e)))).1).1, 0)

/-! Descriptors (R94, R95, R99, R103). -/

def isArith (code : Nat) : Bool := decide (0x20 ≤ code) && decide (code ≤ 0x29)
def isReduce (code : Nat) : Bool := decide (0x30 ≤ code) && decide (code ≤ 0x34)
def usesY (code : Nat) : Bool := [0x20, 0x21, 0x22, 0x23, 0x24, 0x25, 0x27, 0x28, 0x2C].contains code
def usesW (code : Nat) : Bool := code = 0x23 || code = 0x27

/-- An operand's fields fit its broadcast; an unused field is 0. -/
def bcastOk (used : Bool) (bc fmt : Nat) (a : Word) : Bool :=
  let addr := fld a 63 32
  let stride := fld a 31 0
  if !used then decide (bc = 0) && decide (fmt = 0) && decide (a = 0)
  else if bc = 3 then decide (fmt = 0) && decide (a = 0)
  else decide (addr % 64 = 0) && decide (stride % 64 = 0) && (bc ≠ 2 || decide (stride = 0))

def isWideFloatEntry (n : Nat) : Bool := decide (n ≤ 2)

/-- R67: E8M0 converts only to and from FP32, BF16 and FP16; no other operation takes it (R58). -/
def chsPairOk (src dst : Nat) : Bool := (src ≠ 15 || isWideFloatEntry dst) && (dst ≠ 15 || isWideFloatEntry src)

/-- The fields of a Chisel descriptor other than its formats. The scale array is aligned as every address of R94 (log entry
178); RARGMAX does not use RND (log entry 181). -/
def chsWords (code : Nat) (d : List Word) : Bool :=
  let w0 := wordAt d 0
  let qnt := decide (code = 0x2B)
  let scaled := qnt || (decide (code = 0x2A) && decide (fld w0 19 18 ≠ 0))
  decide (fld w0 16 0 = 0) && decide (fld (wordAt d 7) 31 0 = 0)
    && bcastOk (usesY code) (fld w0 33 32) (fld w0 50 46) (wordAt d 2)
    && bcastOk (usesW code) (fld w0 31 30) (fld w0 40 36) (wordAt d 3)
    && ((usesY code && decide (fld w0 33 32 = 3)) || (usesW code && decide (fld w0 31 30 = 3)) || decide (fld (wordAt d 5) 31 0 = 0))
    && (decide (code = 0x2C) || (decide (fld w0 29 27 = 0) && decide (fld (wordAt d 6) 63 32 = 0)))
    && (if qnt then decide (fld w0 26 25 ≠ 0) else decide (fld w0 26 24 = 0))
    && (if code = 0x27 then decide (fld w0 23 20 ≤ 5) else decide (fld w0 23 20 = 0))
    && decide (fld w0 19 18 ≠ 3) && (code = 0x2A || decide (fld w0 19 18 = 0)) && (decide (fld w0 19 18 ≠ 0) || decide (fld w0 17 17 = 0))
    && (scaled || (decide (fld (wordAt d 6) 31 0 = 0) && decide (fld (wordAt d 7) 63 32 = 0)))
    && (!scaled || (decide (fld (wordAt d 6) 31 0 % 64 = 0) && decide (fld (wordAt d 7) 63 32 % 64 = 0)))
    && (code ≠ 0x34 || decide (fld w0 35 34 = 0))
    && [1, 4].all (fun i => decide (fld (wordAt d i) 63 32 % 64 = 0) && decide (fld (wordAt d i) 31 0 % 64 = 0))
    && decide (1 ≤ fld (wordAt d 5) 63 48) && decide (1 ≤ fld (wordAt d 5) 47 32)

/-- Formats accepted by an operation. -/
def chsFmts (code : Nat) (d : List Word) (fmts : SMap Word) (cbs : SMap Codebook) : Bool :=
  let w0 := wordAt d 0
  let x := fld w0 55 51
  let y := fld w0 50 46
  let z := fld w0 45 41
  let w := fld w0 40 36
  let ok := fun n => fmtUsable (fmtEntry fmts n) cbs && (decide (code = 0x2A) || !(fmtEntry fmts n).isE8m0)
  ok x && ok z && (decide (code = 0x34) || chsPairOk x z)
    && (!usesY code || decide (fld w0 33 32 = 3) || (ok y && chsPairOk y z))
    && (!usesW code || decide (fld w0 31 30 = 3) || (ok w && chsPairOk w z))
    && (code ≠ 0x34 || decide (z = 14))
    && (code ≠ 0x2B || decide ((fmtEntry fmts z).width ≤ 8))

/-- How Chisel reads an operand: full rows, one value a row, one row for all, or the scalar (R94). -/
structure Opnd where
  fmt : Fmt
  scaled : Bool
  bc : Nat
  tgts : List Target
  n : Nat
  imm : Num
  deriving DecidableEq, Repr

def opndNone : Opnd := { fmt := fmtFp32, scaled := false, bc := 3, tgts := [], n := 0, imm := zeroNum }

/-- The rows of an operand, checked. -/
def opndCheck (c : Nat) (ctx : BitVec 12) (f : Fmt) (bc rows cols : Nat) (a : Word) (imm : Num) : M Opnd := do
  if bc = 3 then return { opndNone with imm }
  let n := if bc = 1 then 1 else cols
  let ts ← operandRows c ctx false (fld a 31 0) (rowBytes f.width n) .r (if bc = 2 then 1 else rows) (fld a 63 32)
  return { fmt := f, scaled := false, bc, tgts := ts, n, imm }

/-- The values of row `r` of an operand, `cols` of them, with their marks. -/
def opndRow (w : Who) (cbs : SMap Codebook) (o : Opnd) (r cols : Nat) : M (List (Num × Bool)) := do
  match o.bc, (if o.bc = 2 then o.tgts[0]? else o.tgts[r]?) with
  | 3, _ => return List.replicate cols (o.imm, false)
  | _, none => return List.replicate cols (o.imm, false)
  | bc, some t =>
    let row ← readRow w t (rowBytes o.fmt.width o.n)
    let es := rowEls o.fmt cbs o.scaled o.n row
    return if bc = 1 then List.replicate cols (es.headD (zeroNum, false)) else es

def nanFlag (f : Fmt) (code : Nat) : Nat := if isNanCode f code then evNANOUT else 0

/-- What an operation computes with, beside its operands' values. -/
structure ChsJob where
  code : Nat
  cols : Nat
  r : Rnd
  cond : Nat
  wide : Bool
  z : Fmt
  cbs : SMap Codebook
  qm : Nat
  qb : Nat
  xsf : Bool
  curve : Curve
  prescale : Num
  deriving DecidableEq, Repr

/-- The value of a reduction of a row (R97, R98), before conversion to Z; the FP32 steps inside set no flag (log entry 180). -/
def reduceRow (code : Nat) (r : Rnd) (vs : List Num) : Num :=
  let as32 := fun v => enc32 r v
  match code with
  | 0x30 => dec32 (orderedSum 0 ((vs.length + 31) / 32) (vs.map as32))
  | 0x31 => dec32 (orderedSum 0 ((vs.length + 31) / 32) (vs.map fun v => mul32 (as32 v) (as32 v)))
  | 0x32 => (vs.drop 1).foldl (numPick true) (vs.headD .nan)
  | 0x33 => (vs.drop 1).foldl (numPick false) (vs.headD .nan)
  | _ =>
    match vs.findIdx? fun v => v = .nan with
    | some i => numOfInt i 0
    | none =>
      let best : Nat := (List.range vs.length).foldl (fun b i => if numLt (vs.getD b zeroNum) (vs.getD i zeroNum) then i else b) 0
      numOfInt best 0

/-- What an operation makes of one row: the codes of Z with their marks, the block scales of QNT with theirs, and the numeric
flags. -/
structure ChsOut where
  codes : List Nat
  marks : List Bool
  scales : List Nat
  smarks : List Bool
  flags : Nat
  deriving DecidableEq, Repr

/-- One element of an elementwise operation, CVT or CURVE, of values x, y and w under the scale `sc` (none: unscaled): its code and
flags (R95, R96, R99, R102). -/
def chsElem (j : ChsJob) (sc : Option Num) (x y w : Num) : Nat × Nat :=
  if j.code = 0x2A then
    let q := encodeEl j.z j.cbs false j.r (match sc with | some v => scaledEl v x | none => x)
    (q.1, q.2 ||| nvIf (sc = some .nan))
  else if j.code = 0x2C then
    let v := curveEval j.curve.bytes j.prescale j.r x y
    let q := encodeEl j.z j.cbs false j.r v.1
    (q.1, v.2 ||| q.2)
  else chsArith j.code j.cond j.wide j.z j.cbs j.r x y w

/-- One row of an operation (R95-R99, R102, R104), of the elements of its operands and of CVT's scales, each with its mark. -/
def chsCompute (j : ChsJob) (xs ys ws sc : List (Num × Bool)) : ChsOut :=
  if isReduce j.code then
    let q := encodeEl j.z j.cbs false j.r (reduceRow j.code j.r (xs.map fun q => if j.wide then (to32 j.r q.1).1 else q.1))
    { codes := [q.1], marks := [xs.any Prod.snd], scales := [], smarks := [], flags := q.2 ||| nanFlag j.z q.1 }
  else if j.code = 0x2B then
    let o := readoutRow j.z j.cbs j.r j.qm j.qb (xs.map Prod.fst)
    let marks := blockMarks j.qb (xs.map Prod.snd)
    { codes := o.1, marks := spreadMarks j.qb marks, scales := o.2.1, smarks := marks, flags := o.2.2 }
  else
    let els := ((xs.zip (ys.zip ws)).zipIdx).map fun t =>
      let s := sc[t.2 / j.qb]?
      let e := chsElem j (s.map Prod.fst) t.1.1.1 t.1.2.1.1 t.1.2.2.1
      (e.1, e.2, t.1.1.2 || t.1.2.1.2 || t.1.2.2.2 || ((s.map Prod.snd).getD false) || (decide (j.code = 0x2C) && j.curve.poison))
    { codes := els.map fun e => e.1, marks := els.map fun e => e.2.2, scales := [], smarks := []
      flags := els.foldl (fun a e => a ||| e.2.1 ||| nanFlag j.z e.1) 0 }

/-- Where an operation's operands and results lie. -/
structure ChsAt where
  x : Opnd
  y : Opnd
  w : Opnd
  zt : List Target
  st : List Target
  deriving DecidableEq, Repr

/-- One row: read, computed, written. The numeric flags of the row. -/
def chsRow (c : Nat) (j : ChsJob) (o : ChsAt) (w : Who) (r : Nat) : M Nat := do
  let xs ← opndRow w j.cbs o.x r j.cols
  let ys ← opndRow w j.cbs o.y r j.cols
  let ws ← opndRow w j.cbs o.w r j.cols
  match o.zt[r]? with
  | none => return 0
  | some zt =>
    let n := (j.cols + j.qb - 1) / j.qb
    let sc ← match (if j.code = 0x2B then none else o.st[r]?) with
      | some t => do
        let row ← readRow w t n
        pure (rowScales j.xsf n row)
      | none => pure []
    let q := chsCompute j xs ys ws sc
    writeRow c w zt (packedRow j.z.width q.codes q.marks)
    match (if j.code = 0x2B then o.st[r]? else none) with
    | some t => writeRow c w t { bytes := q.scales.map (BitVec.ofNat 8), pois := q.smarks }
    | none => pure ()
    return q.flags

/-- The rows in order; the flags of all. -/
def chsRows (c : Nat) (j : ChsJob) (o : ChsAt) (w : Who) : List Nat → M Nat
  | [] => return 0
  | r :: rs => do
    let a ← chsRow c j o w r
    let b ← chsRows c j o w rs
    return a ||| b

/-- The scalar of a broadcast code 3 (R94). -/
def chsImm (d : List Word) : Num := dec32 (BitVec.ofNat 32 (fld (wordAt d 5) 31 0))

/-- The block size of an operation's scales. -/
def chsBlk (d : List Word) (code : Nat) : Nat := if code = 0x2B then (if flag (wordAt d 0) 24 then 32 else 16) else blkSz (fld (wordAt d 0) 19 18)

/-- What the operation `op` of program `p` computes with. -/
def chsJob (p : Prog) (op : EngOp) : ChsJob :=
  let d := op.desc
  let code := opcodeOf op
  let w0 := wordAt d 0
  let wid := fun hi lo => (fmtEntry op.fmts (fld w0 hi lo)).width
  let immWide := (usesY code && decide (fld w0 33 32 = 3)) || (usesW code && decide (fld w0 31 30 = 3))
  let pre := fld (wordAt d 6) 63 32
  { code, cols := fld (wordAt d 5) 47 32, r := rndOf (fld w0 35 34), cond := fld w0 23 20
    wide := immWide || [wid 55 51, wid 45 41, (if usesY code then wid 50 46 else 0), (if usesW code then wid 40 36 else 0)].any fun n => decide (16 < n)
    z := fmtEntry op.fmts (fld w0 45 41), cbs := op.cbs, qm := fld w0 26 25, qb := chsBlk d code, xsf := flag w0 17
    curve := curveOf p (fld w0 29 27), prescale := if pre = 0 then .fin false 1 0 else dec32 (BitVec.ofNat 32 pre) }

/-- A Chisel operation other than CLD. -/
def chsBody (c : Nat) (p : Prog) (op : EngOp) : M Unit := do
  let d := op.desc
  let code := opcodeOf op
  let w0 := wordAt d 0
  let rows := fld (wordAt d 5) 63 48
  let j := chsJob p op
  let cols := j.cols
  let fmt := fun hi lo => fmtEntry op.fmts (fld w0 hi lo)
  let xb := fld w0 19 18
  require' c 1 (chsWords code d && chsFmts code d op.fmts op.cbs)
  require' c 1 (code ≠ 0x2B || decide (cols % j.qb = 0))
  require' c 1 (code ≠ 0x2C || j.curve.valid)
  let x ← opndCheck c p.ctx (fmt 55 51) 0 rows cols (wordAt d 1) (chsImm d)
  let y ← if usesY code then opndCheck c p.ctx (fmt 50 46) (fld w0 33 32) rows cols (wordAt d 2) (chsImm d) else pure opndNone
  let w ← if usesW code then opndCheck c p.ctx (fmt 40 36) (fld w0 31 30) rows cols (wordAt d 3) (chsImm d) else pure opndNone
  let zt ← operandRows c p.ctx false (fld (wordAt d 4) 31 0) (rowBytes j.z.width (if isReduce code then 1 else cols)) .w rows (fld (wordAt d 4) 63 32)
  let st ← if decide (code = 0x2B) || decide (xb ≠ 0) then
      operandRows c p.ctx false (fld (wordAt d 7) 63 32) ((cols + j.qb - 1) / j.qb) (if code = 0x2B then .w else .r) rows (fld (wordAt d 6) 31 0)
    else pure []
  let s ← get
  let fl ← chsRows c j { x := { x with bc := 0, scaled := decide (xb ≠ 0) }, y, w, zt, st } (whoCore s c) (List.range rows)
  modify fun s => numEvent s c 1 fl

/-- CLD (R100, R101). -/
def chsCldBody (c : Nat) (p : Prog) (op : EngOp) : M Unit := do
  let d := op.desc
  let w0 := wordAt d 0
  let a := fld (wordAt d 1) 63 32
  require' c 1 (decide (w0 &&& ~~~(fieldMask 63 56 ||| fieldMask 29 27) = 0) && decide (fld (wordAt d 1) 31 0 = 0) && decide (a % 64 = 0)
    && (d.drop 2).all fun w => decide (w = 0))
  let t ← operandRow c p.ctx false a 1088 .r
  let s ← get
  let r ← readRow (whoCore s c) t 1088
  let ok := curveOk r.bytes
  modify fun s => updProg (if ok then s else numEvent s c 1 evFMTERR) c fun p =>
    { p with curves := mapPut p.curves (fld w0 29 27) { valid := ok, poison := r.bad, bytes := r.bytes } }

/-! Commands. -/

def execChsAdd (core : CoreIx) (s : State) : Out := engineRun s core.val 1 0x20 (chsBody core.val)
def execChsSub (core : CoreIx) (s : State) : Out := engineRun s core.val 1 0x21 (chsBody core.val)
def execChsMul (core : CoreIx) (s : State) : Out := engineRun s core.val 1 0x22 (chsBody core.val)
def execChsFma (core : CoreIx) (s : State) : Out := engineRun s core.val 1 0x23 (chsBody core.val)
def execChsMax (core : CoreIx) (s : State) : Out := engineRun s core.val 1 0x24 (chsBody core.val)
def execChsMin (core : CoreIx) (s : State) : Out := engineRun s core.val 1 0x25 (chsBody core.val)
def execChsAbs (core : CoreIx) (s : State) : Out := engineRun s core.val 1 0x26 (chsBody core.val)
def execChsSel (core : CoreIx) (s : State) : Out := engineRun s core.val 1 0x27 (chsBody core.val)
def execChsDiv (core : CoreIx) (s : State) : Out := engineRun s core.val 1 0x28 (chsBody core.val)
def execChsRsqrt (core : CoreIx) (s : State) : Out := engineRun s core.val 1 0x29 (chsBody core.val)
def execChsCvt (core : CoreIx) (s : State) : Out := engineRun s core.val 1 0x2A (chsBody core.val)
def execChsQnt (core : CoreIx) (s : State) : Out := engineRun s core.val 1 0x2B (chsBody core.val)
def execChsCurve (core : CoreIx) (s : State) : Out := engineRun s core.val 1 0x2C (chsBody core.val)
def execChsRsum (core : CoreIx) (s : State) : Out := engineRun s core.val 1 0x30 (chsBody core.val)
def execChsRssq (core : CoreIx) (s : State) : Out := engineRun s core.val 1 0x31 (chsBody core.val)
def execChsRmax (core : CoreIx) (s : State) : Out := engineRun s core.val 1 0x32 (chsBody core.val)
def execChsRmin (core : CoreIx) (s : State) : Out := engineRun s core.val 1 0x33 (chsBody core.val)
def execChsRargmax (core : CoreIx) (s : State) : Out := engineRun s core.val 1 0x34 (chsBody core.val)
def execChsCld (core : CoreIx) (s : State) : Out := engineRun s core.val 1 0x3F (chsCldBody core.val)

end Sys2Proof.Machine
end

