-- ==== Sys2Proof/Machine/DtLink.lean ====
section
/-! DEFINITION. Dovetail as its users see it (R393-R395, R398-R400): live peers, requests out, and the bound channel
of a context with its acknowledgement word. -/

namespace Sys2Proof.Machine

/-! Message kinds of `Msg.dtSend`. -/

def dtREAD : Nat := 1
def dtREADREPLY : Nat := 2
def dtWRITE : Nat := 3
def dtWRITEACK : Nat := 4
def dtLOOKUP : Nat := 5
def dtROWS : Nat := 6
def dtPLOOKUP : Nat := 7
def dtPARTIAL : Nat := 8
def dtUPDATE : Nat := 9
def dtUPDATEACK : Nat := 10

def dtPkg (s : State) : Nat := wkf s .dt 0x100 7 0
def dtPorts (s : State) (p : Nat) : Nat := wkf s .dt (0x1000 + 8 * p) 15 0

/-- DT_ALIVE bit of a package (R408). -/
def aliveBit (s : State) (p : Nat) : Bool := rbit s .dt (0x200 + 8 * (p / 64)) (p % 64)

def setAlive (s : State) (p : Nat) (v : Bool) : State := setRf s .dt (0x200 + 8 * (p / 64)) (p % 64) (p % 64) (boolNat v)

/-- Traffic to the package goes somewhere (R394, R406). -/
def peerAlive (s : State) (p : Nat) : Bool := blkEn s .dt && decide (dtPorts s p ≠ 0) && aliveBit s p

/-- The port that traffic to a target CA leaves by (R394). -/
def dtPort (s : State) (p ca : Nat) : Nat := nthBit (dtPorts s p) 16 (Config.routeHash (ca / 4096))

/-- A message to a package; one to a package that no port reaches goes nowhere (R394). -/
def dtMsg (s : State) (p kind tag ca : Nat) (d : List Byte) (poison : Bool) : State :=
  if dtPorts s p = 0 then s else globalCtr (send s (.dtSend p kind tag ca d poison)) (80 + dtPort s p ca) d.length

/-- A request to a package that waits for its answer. -/
def dtRequest (s : State) (p core task eng : Nat) (k : DtKind) (kind ca : Nat) (d : List Byte) (poison : Bool) : State :=
  let t := s.nextTag
  dtMsg { s with nextTag := t + 1, dtOut := s.dtOut ++ [{ tag := t, peer := p, core, task, eng, kind := k }] } p kind t ca d poison

/-! Dispatch channels (R398-R400). -/

def chanInit : Chan := { bound := false, ctx := 0, src := 0, ring := 0, ack := 0, prod := 0, done := 0 }
def chan (s : State) (n : Nat) : Chan := mapGet (fun _ => chanInit) s.chans n
def setChan (s : State) (n : Nat) (c : Chan) : State := { s with chans := mapSet (fun _ => chanInit) s.chans n c }

def chanCons (s : State) (n : Nat) : Nat := rf s .dt (0x3018 + 32 * n) 31 0
def chanBound (s : State) (n : Nat) : Bool := rbit s .dt (0x3000 + 32 * n) 63

/-- The channel feeds its context (R398). -/
def chanLive (s : State) (n : Nat) : Bool := (chan s n).bound && chanBound s n

/-- The channel that feeds a context: the lowest-numbered one bound to it (R398). -/
def chanOf (s : State) (c : BitVec 12) : Option Nat :=
  (List.range 16).find? fun n => chanLive s n && decide ((chan s n).ctx = c)

def chanLog2 (s : State) (n : Nat) : Nat := fld (chan s n).ring 63 59
def chanBase (s : State) (n : Nat) : Nat := fld (chan s n).ring 51 6 * 64

/-- The producer word of a channel's ring. -/
def chanProd (s : State) (n : Nat) : BitVec 32 :=
  BitVec.ofNat 32 (ofBytes (gfeRead s whoNone (canon (chanBase s n)) 4 none).1.1)

/-- A bound channel's first read of PROD (R398): its commands begin there. -/
def bindProd (s : State) (n : Nat) : State :=
  let a := canon (chanBase s n)
  if !gfeReady s a 4 then gfePost s a 4 (.bind n)
  else setRf (setChan s n { chan s n with prod := chanProd s n }) .dt (0x3018 + 32 * n) 31 0 (chanProd s n).toNat

/-- Posted GFE accesses whose lines are free now are performed, in their order. -/
def performPosts (s : State) : State :=
  s.posts.foldl (fun s x => match x with
    | .write a d => gfeWrite s a d
    | .ref a up => refStep s a up
    | .fenceSet c f v => fenceWrite s c f v
    | .fenceAdd c f v => fenceAdd s c f v
    | .bind n => bindProd s n) { s with posts := [] }

/-- CA of command slot `i`. -/
def chanSlot (s : State) (n i : Nat) : Nat := chanBase s n + 64 + 64 * (i % 2 ^ chanLog2 s n)

/-- The acknowledgement word (R400). -/
def ackWord (s : State) (n : Nat) : Word :=
  let c := chan s n
  place 31 0 (chanCons s n) ||| place 61 32 c.done ||| place 62 62 (boolNat (rbit s (.ctx c.ctx) 0x10 62))
    ||| place 63 63 (boolNat (rbit s (.ctx c.ctx) 0x10 63))

/-- The request is an acknowledgement of a channel. -/
def isAck : DtKind → Bool
  | .ack _ => true
  | _ => false

/-- A write of the GFE is still to be performed: in this package, in host memory, or at a peer. A write of it as a release at SYSTEM waits
(R272, R400). -/
def gfeWriting (s : State) : Bool :=
  gfeWrites s || s.dtOut.any fun r => isAck r.kind

/-- An acknowledgement word leaves; one to a dead peer is discarded (R406). -/
def sendAck (s : State) (e : AckDue) : State :=
  if peerAlive s e.pkg then dtRequest s e.pkg 384 0 0 (.ack e.ch) dtWRITE e.ca (toBytes 8 e.word.toNat) false else raise s .dt 0x120 4

/-- An acknowledgement leaves once the writes before it are performed. -/
def queueAck (s : State) (e : AckDue) : State :=
  if gfeWriting s || !s.ackDue.isEmpty then { s with ackDue := s.ackDue ++ [e] } else sendAck s e

/-- The acknowledgements that wait are tried again, in their order. -/
def serveAcks (s : State) : State := s.ackDue.foldl queueAck { s with ackDue := [] }

/-- Posted GFE accesses, and then the acknowledgements that waited for them. -/
def servePosts (s : State) : State := serveAcks (performPosts s)

/-- R400: the worker writes the acknowledgement word, where EN is 1. -/
def chanAck (s : State) (n : Nat) : State :=
  let a := (chan s n).ack
  if !flag a 63 then s else queueAck s { ch := n, pkg := fld a 59 52, ca := fld a 51 3 * 8, word := ackWord s n }

/-- The acknowledgement of the channel that feeds a context, if one does. -/
def ctxAck (s : State) (c : BitVec 12) : State :=
  match chanOf s c with
  | some n => chanAck s n
  | none => s

end Sys2Proof.Machine
end

