-- ==== Sys2Proof/Machine/Gfe.lean ====
section
/-! DEFINITION. The global front end: context enable (R323), the submission ring and its watch line (R297, R324,
R325), commands (R326-R331), dispatch (R332-R337), completion records (R301, R338-R341), abort (R343) and the
watchdog (R344, R345). -/

namespace Sys2Proof.Machine

/-! The ring. -/

def ctxCons (s : State) (c : BitVec 12) : Nat := rf s (.ctx c) 0x0 31 0
def ringLog2 (s : State) (c : BitVec 12) : Nat := wkf s (.ctx c) 0x8048 63 59
def ringOk (s : State) (c : BitVec 12) : Bool := decide (6 ≤ ringLog2 s c) && decide (ringLog2 s c ≤ 16)

def ctxFaulted (s : State) (c : BitVec 12) : Bool := rbit s (.ctx c) 0x10 63
def ctxAborted (s : State) (c : BitVec 12) : Bool := rbit s (.ctx c) 0x10 62
def ctxAborting (s : State) (c : BitVec 12) : Bool := rbit s (.ctx c) 0x10 61

/-- The channel that feeds the context in place of its own ring (R398). -/
def feeder (s : State) (c : BitVec 12) : Option Nat := if ringOk s c then none else chanOf s c

/-- A context has a command in progress. -/
def cmdInProgress (s : State) (c : BitVec 12) : Bool :=
  (gctx s c).front.isSome || (gctx s c).call.isSome

/-- BOUND is written 0: the command in progress, if any, is finished, and no later one is processed; CONS keeps its value (R398). -/
def chanUnbind (s : State) (n : Nat) : State :=
  let c := chan s n
  let g := gctx s c.ctx
  let s := if decide (feeder s c.ctx = some n) && cmdInProgress s c.ctx then setGctx s c.ctx { g with orphan := true } else s
  setChan (setRf s .dt (0x3000 + 32 * n) 63 63 0) n { c with bound := false }

/-- Unprocessed commands stand in the ring, or in the channel that feeds the context. -/
def ringBusy (s : State) (c : BitVec 12) : Bool :=
  (gctx s c).orphan || match feeder s c with
  | some n => decide (chanCons s n ≠ (chan s n).prod.toNat)
  | none => ringOk s c && decide (ctxCons s c ≠ (gctx s c).prod.toNat)

/-- The GFE takes up a command of the context: a new one only while its block is enabled (R41). -/
def gfeTakes (s : State) (c : BitVec 12) : Bool := blkEn s .gfe || (gctx s c).call.isSome || (gctx s c).front.isSome

/-- The GFE may process a command of the context now (R41, R325, R342, R343). -/
def ctxReady (s : State) (c : BitVec 12) : Bool :=
  running s && gfeTakes s c && (gctx s c).enabled && ringBusy s c && !ctxFaulted s c && !ctxAborted s c && !ctxAborting s c

/-- R323: the enable of a context, after its working copy is taken. Nothing is processed until the arming read returns. -/
def ctxEnabled (s : State) (c : BitVec 12) : State :=
  let s := setReg s (.ctx c) 0x10 0
  let s := setRf s (.ctx c) 0x8068 31 0 0
  let s := (List.range 13).foldl (fun s i => setReg s (.ctx c) (0x1000 + 8 * i) 0) s
  let s := setGctx (recheckWaits s fun w => decide (w.1 = c.toNat)) c { gctxInit with enabled := true, lastProgress := (gctx s c).lastProgress, prod := BitVec.ofNat 32 (ctxCons s c) }
  let s := { s with atsCpl := mapDel s.atsCpl c.toNat }
  if ringOk s c then cxlRequest s (385 + c.toNat) 7 (headerLine s c) 0 [] false else s

/-- A ring slot's read that is under way brings the context nothing any more. -/
def forgetSlotRead (s : State) (c : BitVec 12) : State :=
  { s with hreqs := s.hreqs.map fun h => if h.core = 385 + c.toNat ∧ h.kind = 2 then { h with core := 384 } else h }

/-- A context is disabled: its watch entry is evicted (R297), a TASK that waits is dropped with its captures. -/
def ctxDisabled (s : State) (c : BitVec 12) : State :=
  let g := gctx s c
  let s := match g.capd with
    | some w => releaseCaps s w.caps
    | none => s
  let s := setGctx s c { g with enabled := false, watch := false, capd := none, call := none, waitOn := none, recheck := false, orphan := false, front := none, slot := none }
  let s := forgetSlotRead s c
  if g.watch then cxlRequest s 384 6 (headerLine s c) 0 [] false else s

/-- A header read returned PROD (R325, R297). `first`: it is the read of the enable (R323). -/
def headerArrived (s : State) (c : BitVec 12) (word0 : Word) (first : Bool) : State :=
  let p := BitVec.ofNat 32 (fld word0 31 0)
  let g := gctx s c
  if first then
    setRf (setGctx s c { g with watch := true, seen := true, header := word0, prod := p }) (.ctx c) 0x0 31 0 p.toNat
  else
    let s := setGctx s c { g with watch := true, header := word0, prod := p }
    let s := gfeRing s 0x20 c.toNat (place 31 0 p.toNat)
    if p = g.prod then globalCtr s 116 1
    else if 2 ^ ringLog2 s c < (p - BitVec.ofNat 32 (ctxCons s c)).toNat then
      raise (ctxFault s c 2) (.ctx c) 0x8020 2
    else s

/-- The watch entry of a context is being armed. -/
def arming (s : State) (c : BitVec 12) : Bool := s.hreqs.any fun h => h.core = 385 + c.toNat && h.kind = 7

/-- WATCH_REARM (R297): the header line is read again with RdShared; its GO brings the header. The cycles since the snoop response are
a bound of the rule and have no other effect. -/
def execWatchRearm (ctx : CtxIx) (_fclk : Fin 129) (s : State) : Out :=
  let g := gctx s ctx
  if running s && g.enabled && ringOk s ctx && !g.watch && !arming s ctx then
    done (cxlRequest s (385 + ctx.toNat) 7 (headerLine s ctx) 0 [] false)
  else idle s

/-! Commands. -/

/-- CONS of the ring or channel advances past a command (R325, R399, R400); that of an unbound channel keeps its value (R398). -/
def consStep (s : State) (c : BitVec 12) : State :=
  if (gctx s c).orphan then setGctx s c { gctx s c with orphan := false } else
  match feeder s c with
  | some n => chanAck (setRf s .dt (0x3018 + 32 * n) 31 0 (chanCons s n + 1)) n
  | none => setRf s (.ctx c) 0x0 31 0 (ctxCons s c + 1)

/-- R344, R325, R327, R400: a command retires, an entry of a command buffer before its CALL. Injected errors of the GFE's state and microcode store fire here (R425). -/
def retire (s : State) (c : BitVec 12) : State :=
  let s := (fireInjection (fireInjection (servePosts s) .gfe 5 none none).2 .gfe 6 none none).2
  let g := gctx s c
  let s := progress s c
  let g := { gctx s c with waitOn := none, recheck := false, capd := none, front := none, slot := none, call := g.call }
  match g.call with
  | some (ca, n, i) =>
    let ack := fun s => if g.orphan then s else ctxAck s c
    if i + 1 < n then ack (setGctx s c { g with call := some (ca, n, i + 1) })
    else progress (consStep (ack (setGctx s c { g with call := none })) c) c
  | none => consStep (setGctx s c g) c

/-- The host line of the ring slot at CONS (R324). -/
def slotLine (s : State) (c : BitVec 12) : Nat := wkf s (.ctx c) 0x8048 56 12 * 64 + ctxCons s c % 2 ^ ringLog2 s c

def setSlot (s : State) (c : BitVec 12) (d : List Byte) (p : Bool) : State := setGctx s c { gctx s c with slot := some (wordsOf 8 d, p) }

/-- The next command stands in the context's own ring. -/
def fromRing (s : State) (c : BitVec 12) : Bool :=
  (gctx s c).front.isNone && (gctx s c).call.isNone && (feeder s c).isNone

/-- The GFE reads the ring slot at CONS: the package's copy of the line, else by RdCurr (R293, R324). -/
def fetchSlot (s : State) (c : BitVec 12) : State :=
  let k := slotLine s c
  if lineBusy s true k || hostPending s k then s
  else
    match devLine s k with
    | some (_, l) =>
      let r := snoopAll s true k false
      match r.2.data with
      | some (d, p, _, _) => setSlot r.1 c d p
      | none => setSlot r.1 c l.data l.poison
    | none => cxlRequest s (385 + c.toNat) 2 k 0 [] false

/-- The context has a command that is ready to be taken up: its turn passes to the next one otherwise (R334, log entry 201). -/
def wantsTurn (s : State) (c : BitVec 12) : Bool :=
  ctxReady s c && (gctx s c).front.isNone && (!fromRing s c || (gctx s c).slot.isSome)

/-- R334: in the rotation no context with a command to take up comes before this one. -/
def myTurn (s : State) (c : BitVec 12) : Bool :=
  (gctx s c).front.isSome || s.gctx.all fun e =>
    decide ((c - s.turn).toNat ≤ (BitVec.ofNat 12 e.1 - s.turn).toNat) || !wantsTurn s (BitVec.ofNat 12 e.1)

/-- A turn of the rotation is used (R334). -/
def takeTurn (s : State) (c : BitVec 12) : State := if (gctx s c).front.isSome then s else { s with turn := c + 1 }

/-- R326: the context stops at a malformed command. -/
def malformed (s : State) (c : BitVec 12) : State := ctxAck (ctxFault (takeTurn s c) c 3) c

/-- Bytes read through the context's segments by the GFE (R327, R333): none where the check fails; with the poison. -/
def segRead (s : State) (c : BitVec 12) (a n : Nat) : Option (List Byte × Bool) × State :=
  if 2 ^ 51 ≤ a then (none, s)
  else match segCheck s c a n .r with
    | .error _ => (none, s)
    | .ok t =>
      if isHole s (canon a) || isHole s (canon (a + n - 1)) then (none, s)
      else
        let r := (segPieces t (n / 4096 + 2) a n).foldl (fun (st : (List Byte × Bool) × State) p =>
          let q := gfeRead st.2 (whoCtx c) p.1.addr p.2 p.1.key
          ((st.1.1 ++ q.1.1, st.1.2 || q.1.2), q.2)) (([], false), s)
        (some r.1, r.2)

/-- The lines that hold up such a read. -/
def segLines (s : State) (c : BitVec 12) (a n : Nat) : List Nat :=
  if 2 ^ 51 ≤ a then []
  else match segCheck s c a n .r with
    | .error _ => []
    | .ok t =>
      if isHole s (canon a) || isHole s (canon (a + n - 1)) then []
      else (segPieces t (n / 4096 + 2) a n).flatMap fun p => gfeLines s p.1.addr p.2

/-- SUB of a failed segment check of the GFE (R333). -/
def segSub (s : State) (c : BitVec 12) (a n : Nat) : Nat :=
  if 2 ^ 51 ≤ a then 1
  else match segCheck s c a n .r with
    | .error sub => sub
    | .ok _ => 4

/-- What a command delivered as `w` meets (R326, R327): it is the one that is next, it is not, or its slot or buffer entry
is poisoned (log entry 63). -/
inductive Next where
  | yes | no | bad
  deriving DecidableEq, Repr

def nextIs (s : State) (c : BitVec 12) (w : List Word) : Next :=
  match (gctx s c).front with
  | some h => if h = w then .yes else .no
  | none =>
  match (gctx s c).call with
  | none =>
    match feeder s c with
    | none => match (gctx s c).slot with
      | none => .no
      | some (d, p) => if p then .bad else if d = w then .yes else .no
    | some n =>
      let r := gfeRead s whoNone (canon (chanSlot s n (chanCons s n))) 64 none
      if r.1.2 then .bad else if wordsOf 8 r.1.1 = w then .yes else .no
  | some (ca, _, i) =>
    match (segRead s c (ca + 64 * i) 64).1 with
    | none => .bad
    | some (d, p) => if p then .bad else if wordsOf 8 d = w then .yes else .no

def cmdCode (w : List Word) : Nat := fld (wordAt w 0) 63 56

/-- Every bit of words `i` on is 0. -/
def zeroFrom (w : List Word) (i : Nat) : Bool := (w.drop i).all fun x => decide (x = 0)

/-- No bit outside `m`. -/
def onlyBits (w m : Word) : Bool := decide (w &&& ~~~m = 0)

def nopOk (w : List Word) : Bool := onlyBits (wordAt w 0) (fieldMask 63 56) && zeroFrom w 1

def waitOk (s : State) (w : List Word) : Bool :=
  let w0 := wordAt w 0
  let c : BitVec 12 := BitVec.ofNat 12 (fld w0 55 44)
  onlyBits w0 (fieldMask 63 32) && zeroFrom w 2
    && (!(gctx s c).enabled || decide (fld w0 43 32 < fenceCount s c))

def signalOk (s : State) (c : BitVec 12) (w : List Word) : Bool :=
  let w0 := wordAt w 0
  onlyBits w0 (fieldMask 63 55 ||| fieldMask 43 32) && zeroFrom w 2 && decide (fld w0 43 32 < fenceCount s c)

def callOk (s : State) (c : BitVec 12) (w : List Word) : Bool :=
  let ca := fld (wordAt w 1) 51 0
  let n := fld (wordAt w 2) 31 0
  onlyBits (wordAt w 0) (fieldMask 63 56) && onlyBits (wordAt w 1) (fieldMask 51 0) && onlyBits (wordAt w 2) (fieldMask 31 0)
    && zeroFrom w 3 && decide (ca % 64 = 0) && decide (1 ≤ n) && decide (n ≤ 2 ^ 20) && (gctx s c).call.isNone
    && inLocal ca (64 * n) && (match segCheck s c ca (64 * n) .r with
      | .ok _ => decide (ca < 2 ^ 51)
      | .error _ => false)

/-! The task descriptor (R332). -/

def tSer (w : List Word) : Bool := flag (wordAt w 0) 55
def tNtbl (w : List Word) : Nat := fld (wordAt w 0) 54 50
def tNlines (w : List Word) : Nat := fld (wordAt w 0) 49 45
def tSigen (w : List Word) : Bool := flag (wordAt w 0) 44
def tSigf (w : List Word) : Nat := fld (wordAt w 0) 43 32
def tTaskId (w : List Word) : Nat := fld (wordAt w 0) 31 0
def tEntry (w : List Word) : Nat := fld (wordAt w 2) 51 0
def tArgStep (w : List Word) : Bool := flag (wordAt w 3) 63
def tArgs (w : List Word) : Nat := fld (wordAt w 3) 51 0
def tTbl (w : List Word) : Nat := fld (wordAt w 4) 51 0
def tClmask (w : List Word) : Nat := fld (wordAt w 5) 63 16
def tCpc (w : List Word) : Nat := fld (wordAt w 5) 15 12
def tNcl (w : List Word) : Nat := fld (wordAt w 5) 11 6
def tSpan (w : List Word) : Nat := fld (wordAt w 5) 5 4
def tSpBase (w : List Word) : Nat := fld (wordAt w 6) 63 58
def tSpLen (w : List Word) : Nat := fld (wordAt w 6) 57 51
def tDrBase (w : List Word) : Nat := fld (wordAt w 6) 50 44
def tDrLen (w : List Word) : Nat := fld (wordAt w 6) 43 36

def taskOk (s : State) (c : BitVec 12) (w : List Word) : Bool :=
  onlyBits (wordAt w 1) (fieldMask 63 32) && onlyBits (wordAt w 2) (fieldMask 51 0)
    && onlyBits (wordAt w 3) (fieldMask 63 63 ||| fieldMask 51 0) && onlyBits (wordAt w 4) (fieldMask 51 0)
    && onlyBits (wordAt w 5) (fieldMask 63 4) && onlyBits (wordAt w 6) (fieldMask 63 36) && zeroFrom w 7
    && decide (tNtbl w ≤ 16) && decide (tNlines w ≤ 16) && decide (tEntry w % 8 = 0) && decide (tArgs w % 64 = 0)
    && decide (1 ≤ tCpc w) && decide (tCpc w ≤ 8) && decide (1 ≤ tNcl w) && decide (tNcl w ≤ 48) && decide (tSpan w ≠ 3)
    && decide (1 ≤ tSpLen w) && decide (tSpLen w ≤ 64) && decide (tDrLen w ≤ 128)
    && decide (tSpBase w + tSpLen w ≤ 64) && decide (tDrBase w + tDrLen w ≤ 128)
    && (!tSigen w || decide (tSigf w < fenceCount s c))

/-! Placement (R335). -/

def overlap (b1 l1 b2 l2 : Nat) : Bool := decide (0 < l1) && decide (0 < l2) && decide (b1 < b2 + l2) && decide (b2 < b1 + l1)

def placedTasks (s : State) (k : Nat) : List Task := s.tasks.filter fun t => placedAt t k

/-- A core may take the task now (R41, R335). -/
def coreQualifies (s : State) (w : List Word) (k : Nat) : Bool :=
  coreEnabled s k && blkEn s (bCore k) && blkEn s (bCluster (clusterOf k)) && !coreFenced s k && !clusterStale s (clusterOf k)
    && (!coreStale s k || rbit s (bCore k) 0x600 17)
    && decide ((placedTasks s k).length < 8)
    && (placedTasks s k).all fun t =>
      !overlap (tSpBase w) (tSpLen w) (tSpBase t.words) (tSpLen t.words)
        && !overlap (tDrBase w) (tDrLen w) (tDrBase t.words) (tDrLen t.words)

/-- The CSQ of a cluster holds fewer than 256 placed tasks. -/
def csqRoom (s : State) (cl : Nat) : Bool :=
  decide ((s.tasks.filter fun t => !t.finished && t.cores.any fun k => clusterOf k = cl).length < 256)

/-- Clusters that may serve, each with its qualifying cores, by `q`. -/
def offers (w : List Word) (q : Nat → Bool) : List (Nat × List Nat) :=
  (((List.range 48).filter fun cl => decide (tClmask w = 0) || (tClmask w).testBit cl).map fun cl =>
    (cl, ((cores8 cl).filter q).take (tCpc w))).filter fun e => decide (e.2.length = tCpc w)

/-- The clusters of a placement among offers, under SPAN. -/
def choose (w : List Word) (os : List (Nat × List Nat)) : Option (List Nat) :=
  let grp := fun cl => match tSpan w with
    | 0 => 0
    | 1 => regionOfCluster cl
    | _ => cl / 24
  (List.range 8).findSome? fun g =>
    let l := (os.filter fun e => decide (grp e.1 = g)).take (tNcl w)
    if l.length = tNcl w then some (l.flatMap Prod.snd) else none

/-- A placement exists on the part at all: judged on its enabled cores (log entry 60). -/
def placeable (s : State) (w : List Word) : Bool := (choose w (offers w (coreEnabled s))).isSome

def placement (s : State) (w : List Word) : Option (List Nat) :=
  choose w ((offers w (coreQualifies s w)).filter fun e => csqRoom s e.1)

def freeLines (s : State) : List Nat := (List.range 16).filter fun l => (strikeLine s l).task.isNone

/-- Dispatched tasks that have not ended. -/
def liveTasks (s : State) : List Task := s.tasks.filter fun t => !t.finished

def newTask (s : State) (c : BitVec 12) (w : List Word) (st : TaskStatus) : Task :=
  { id := s.nextTask, ctx := c, words := w, placed := false, cores := [], started := [], ended := [], lines := [],
    caps := [], capWords := [], args := [], faulted := false, tStart := 0, tEnd := s.stc, exc := none, status := st,
    numsum := 0, poisonCnt := 0, missCnt := 0, saved := [], early := [], finished := true, issuedRec := none }

/-- A task that ends with no core started (R333, R334), which is progress of its context beside the command's (R344); T_START is a free
value (log entry 61). -/
def endUnstarted (s : State) (c : BitVec 12) (w : List Word) (st : TaskStatus) (exc : Option (Nat × Nat)) : State :=
  let f := freeNat s
  let t := newTask f.2 c w st
  let t := match exc with
    | some (code, sub) => { t with faulted := true, exc := some { ecode := code, jigcode := 0, core := 0xFFFF, einfo := place 51 48 sub, stc := s.stc } }
    | none => t
  let s := { f.2 with tasks := f.2.tasks ++ [{ t with tStart := BitVec.ofNat 64 f.1 }], nextTask := s.nextTask + 1 }
  retire (globalCtr (ctxCtr (progress s c) c 0 1) 119 1) c

/-- TASK as it is reached (R334): SER, captures, and whether any placement exists. -/
def taskReached (s : State) (c : BitVec 12) (w : List Word) : State :=
  if (gctx s c).capd.isSome then s
  else if tSer w && (s.tasks.any fun t => decide (t.ctx = c) && !t.finished) then setGctx s c { gctx s c with front := some w }
  else
    let n := tNtbl w
    let h := if n = 0 then (some ([], false), s) else segRead s c (tTbl w) (8 * n)
    match h.1 with
    | none => endUnstarted h.2 c w .ok (some (4, segSub s c (tTbl w) (8 * n)))
    | some (d, p) =>
      if p then endUnstarted h.2 c w .ok (some (5, 0))
      else
        let r := captureAll ((wordsOf n d).map fun x => x.toNat) h.2
        match r.1 with
        | none => endUnstarted r.2 c w .tblerr none
        | some ds =>
          if placeable s w then
            let s := ds.foldl (fun s d => refStep s d.1 true) r.2
            setGctx s c { gctx s c with front := some w, capd := some { words := w, caps := ds.map Prod.fst, capWords := ds.map Prod.snd } }
          else endUnstarted r.2 c w .placeerr none

/-- The argument blocks of every rank (R333). -/
def readArgs (s : State) (c : BitVec 12) (w : List Word) (n : Nat) : Option (List (List Word) × Bool) × State :=
  (List.range n).foldl (fun (st : Option (List (List Word) × Bool) × State) r =>
    match st.1 with
    | none => st
    | some (l, p) =>
      let q := segRead st.2 c (tArgs w + (if tArgStep w then 64 * r else 0)) 64
      match q.1 with
      | none => (none, q.2)
      | some (d, p') => (some (l ++ [wordsOf 8 d], p || p'), q.2)) (some ([], false), s)

def argsSub (s : State) (c : BitVec 12) (w : List Word) (n : Nat) : Nat :=
  ((List.range n).findSome? fun r =>
    let a := tArgs w + (if tArgStep w then 64 * r else 0)
    match (segRead s c a 64).1 with
    | none => some (segSub s c a 64)
    | some _ => none).getD 0

/-- The task is sent to its CSQs (R334): placement, strike lines, wakes. -/
def taskPlaced (s : State) (c : BitVec 12) (p : Waiting) (cores : List Nat) : State :=
  let w := p.words
  let a := readArgs s c w cores.length
  match a.1 with
  | none => endUnstarted (releaseCaps a.2 p.caps) c w .ok (some (4, argsSub s c w cores.length))
  | some (args, bad) =>
    if bad then endUnstarted (releaseCaps a.2 p.caps) c w .ok (some (5, 0))
    else
      let s := a.2
      let lines := (freeLines s).take (tNlines w)
      let t := { newTask s c w .ok with placed := true, cores, lines, caps := p.caps, capWords := p.capWords, args, finished := false, tEnd := 0 }
      let s := { s with tasks := s.tasks ++ [t], nextTask := s.nextTask + 1 }
      let s := lines.foldl (fun s l => setStrikeLine s l { linesInit with task := some t.id }) s
      let s := cores.foldl requestWake s
      retire (gfeRing s 0x21 c.toNat (place 31 0 (tTaskId w))) c

/-- The lines that hold up a delivered command: its own slot, the handles and descriptors of a TASK, and the fence of a WAIT. -/
def cmdLines (s : State) (c : BitVec 12) (w : List Word) : List Nat :=
  let g := gctx s c
  let own := if g.front.isSome then [] else match g.call with
    | some (ca, _, i) => segLines s c (ca + 64 * i) 64
    | none => match feeder s c with
      | none => []
      | some n => gfeLines s (canon (chanSlot s n (chanCons s n))) 64
  if !own.isEmpty then own
  else if cmdCode w = 1 then
    if g.capd.isSome || decide (tNtbl w = 0) then []
    else
      let ls := segLines s c (tTbl w) (8 * tNtbl w)
      if !ls.isEmpty then ls
      else match (segRead s c (tTbl w) (8 * tNtbl w)).1 with
        | some (d, _) => (wordsOf (tNtbl w) d).flatMap fun h => handleLines s h.toNat
        | none => []
  else if cmdCode w = 2 then
    let t : BitVec 12 := BitVec.ofNat 12 (fld (wordAt w 0) 55 44)
    if (gctx s t).enabled then gfeLines s (canon (fenceCa s t (fld (wordAt w 0) 43 32))) 8 else []
  else []

/-- Does a delivered command run now? `some s'`: the context stopped at it instead, or waits for lines of memory. -/
def cmdGuard (s : State) (c : BitVec 12) (w : List Word) (code : Nat) (ok : Bool) : Option (Option State) :=
  if !ctxReady s c || decide (w.length ≠ 8) then none
  else if fromRing s c && (gctx s c).slot.isNone then some (some (fetchSlot s c))
  else if !myTurn s c then none
  else if !(cmdLines s c w).isEmpty then some (some (gfeAsk s (cmdLines s c w)))
  else match nextIs s c w with
    | .no => none
    | .bad => some (some (malformed s c))
    | .yes =>
      if cmdCode w = code then (if ok then some none else some (some (malformed s c)))
      else if 4 < cmdCode w then some (some (malformed s c)) else none

def execCmdNop (ctx : CtxIx) (w : List Word) (s : State) : Out :=
  match cmdGuard s ctx w 0 (nopOk w) with
  | none => idle s
  | some (some s') => done s'
  | some none => done (retire (takeTurn s ctx) ctx)

def execCmdTask (ctx : CtxIx) (w : List Word) (s : State) : Out :=
  match cmdGuard s ctx w 1 (taskOk s ctx w) with
  | none => idle s
  | some (some s') => done s'
  | some none => done (taskReached (takeTurn s ctx) ctx w)

/-- R329: the wait is evaluated when the GFE reaches the WAIT, and again after each GFE write to its fence (R328) and the enable
of its context. -/
def waitReached (s : State) (c : BitVec 12) (w : List Word) : State :=
  let t : BitVec 12 := BitVec.ofNat 12 (fld (wordAt w 0) 55 44)
  let f := fld (wordAt w 0) 43 32
  let g := gctx s c
  if g.waitOn.isSome && !g.recheck then s
  else if (gctx s t).enabled && decide ((wordAt w 1).toNat ≤ (fenceValue s t f).toNat) then retire s c
  else if g.waitOn.isSome then setGctx s c { g with recheck := false }
  else gfeRing (setGctx s c { g with waitOn := some (t.toNat, f), recheck := false, front := some w }) 0x22 c.toNat
    (place 55 44 t.toNat ||| place 43 32 f ||| place 31 0 (wordAt w 1).toNat)

def execCmdWait (ctx : CtxIx) (w : List Word) (s : State) : Out :=
  match cmdGuard s ctx w 2 (waitOk s w) with
  | none => idle s
  | some (some s') => done s'
  | some none => done (waitReached (takeTurn s ctx) ctx w)

/-- R330. -/
def signalReached (s : State) (c : BitVec 12) (w : List Word) : State :=
  let f := fld (wordAt w 0) 43 32
  if flag (wordAt w 0) 55 then
    let ids := (s.tasks.filter fun t => decide (t.ctx = c) && t.issuedRec.isNone).map Task.id
    retire (setGctx s c { gctx s c with after := (gctx s c).after ++ [{ fence := f, add := wordAt w 1, tasks := ids }] }) c
  else retire (fenceAdd s c f (wordAt w 1)) c

def execCmdSignal (ctx : CtxIx) (w : List Word) (s : State) : Out :=
  match cmdGuard s ctx w 3 (signalOk s ctx w) with
  | none => idle s
  | some (some s') => done s'
  | some none => done (signalReached (takeTurn s ctx) ctx w)

def execCmdCall (ctx : CtxIx) (w : List Word) (s : State) : Out :=
  match cmdGuard s ctx w 4 (callOk s ctx w) with
  | none => idle s
  | some (some s') => done s'
  | some none => done (setGctx (takeTurn s ctx) ctx { gctx s ctx with slot := none, call := some (fld (wordAt w 1) 51 0, fld (wordAt w 2) 31 0, 0) })

def execTaskPlace (ctx : CtxIx) (s : State) : Out :=
  match (gctx s ctx).capd with
  | none => idle s
  | some p =>
    if !ctxReady s ctx || decide (8192 ≤ (liveTasks s).length) || decide ((freeLines s).length < tNlines p.words) then idle s
    else match placement s p.words with
      | none => idle s
      | some cores =>
        let ls := (List.range cores.length).flatMap fun r => segLines s ctx (tArgs p.words + (if tArgStep p.words then 64 * r else 0)) 64
        done (if ls.isEmpty then taskPlaced s ctx p cores else gfeAsk s ls)

/-! Starting a part of a task (R337, R162, R333). -/

def idxIn (l : List Nat) (x : Nat) : Nat := (l.findIdx? (· == x)).getD 0

def startPart (s : State) (t : Task) (c : Nat) : State :=
  let s := (fireInjection s (bCluster (clusterOf c)) 4 none none).2
  let rank := idxIn t.cores c
  let p0 := progInit t.id t.ctx (BitVec.ofNat 32 (tTaskId t.words)) (BitVec.ofNat 52 (tEntry t.words))
  let args := t.args.getD rank []
  let p := (List.range 8).foldl (fun p i => setSreg p (BitVec.ofNat 6 (i + 1)) (wordAt args i)) p0
  let p := (t.early.filter fun x => x.1 = c).foldl (fun p x => addCredit p x.2.1 x.2.2) p
  let s := updTask s t.id fun x =>
    { x with tStart := if x.started.isEmpty then s.stc else x.tStart, started := x.started ++ [c] }
  let s := setCore s c { core s c with prog := some p, bundle := [], parkedSeq := false }
  let w2 := place 63 48 (fld (wordAt t.words 1) 63 48) ||| place 47 32 (fld (wordAt t.words 1) 47 32) ||| place 31 0 (tTaskId t.words)
  coreRing (traceRec s c 1 t.ctx.toNat w2 (place 15 0 rank)) c 0x01 t.ctx.toNat (place 31 0 (tTaskId t.words))

def execTaskCoreStart (core : CoreIx) (task : Nat) (s : State) : Out :=
  let c := core.val
  match taskOf s task with
  | none => idle s
  | some t =>
    let k := Sys2Proof.Machine.core s c
    if running s && blkEn s (bCore c) && placedAt t c && !t.started.contains c && k.prog.isNone && k.power = .c0 && !coreStale s c then
      done (startPart s t c)
    else done (if placedAt t c then requestWake s c else s)

/-! Completion records (R301, R338-R340). -/

/-- Writes of the task are performed at PACKAGE (R301): nothing of its cores is outstanding. -/
def taskWritesDone (s : State) (t : Task) : Bool :=
  t.cores.all fun c => (core s c).sbuf.isEmpty && hostWritesDone s c

def cplAddr (s : State) (c : BitVec 12) (n : Nat) : Nat :=
  wkf s (.ctx c) 0x8050 56 12 * 4096 + 64 * (n % 2 ^ wkf s (.ctx c) 0x8050 63 59)

/-- A record is issued: its number is used. -/
def recIssued (s : State) (t : Task) (n : Nat) : State :=
  updTask (setGctx s t.ctx { gctx s t.ctx with nrec := n + 1 }) t.id fun x => { x with issuedRec := some n }

/-- SIGF advances after a record's issue, as a release behind the record (R328, R332). -/
def sigAdd (s : State) (t : Task) : State := if tSigen t.words then fenceAdd s t.ctx (tSigf t.words) 1 else s

/-- A record goes to the offcut log; a context that becomes faulted by it is acknowledged (R340, R400). -/
def offcutAck (s : State) (c : BitVec 12) (ws : List Word) : State :=
  if ctxFaulted s c then offcutRecord s c ws else ctxAck (offcutRecord s c ws) c

def recOffcut (s : State) (t : Task) (n : Nat) (ws : List Word) : State :=
  dropTask (sigAdd (recIssued (offcutAck s t.ctx ws) t n) t) t.id

/-- A record's GO arrived (R340): delivered, or undeliverable on GO-Err. -/
def recordGo (s : State) (r : Rec) (ok : Bool) : State :=
  dropTask (if ok then s else offcutAck s r.ctx r.words) r.task

/-- A record is written to host line `k` (R293): in the device cache where it holds the line in M or E, else by ItoMWr. -/
def recordWrite (s : State) (r : Rec) (k : Nat) : State :=
  let s := (snoopAll s true k true).1
  let d := bytesOfWords r.words
  match devLine s k with
  | some (slot, l) =>
    if l.st = .m || l.st = .e then
      recordGo (putDev s slot { l with st := .m, data := d, poison := false, stamp := devStamp s }) r true
    else cxlRequest { dropDev s slot with recs := s.recs ++ [{ r with sentTo := some k }] } 384 3 k 0 d false
  | none => cxlRequest { s with recs := s.recs ++ [{ r with sentTo := some k }] } 384 3 k 0 d false

/-- A finished task's record is issued, or its translation or flush read requested first. -/
def recordStep (s0 : State) (t0 : Task) : State :=
  let s := updTask (releaseCaps s0 t0.caps) t0.id fun t => { t with caps := [], capWords := [] }
  let t := { t0 with caps := [], capWords := [] }
  let n := (gctx s t.ctx).nrec
  let ws := recordWords t n (taskStatus t) t.tEnd
  if (chanOf s t.ctx).isSome && decide (wkf s (.ctx t.ctx) 0x8050 63 59 = 0) then dropTask (sigAdd (recIssued s t n) t) t.id
  else if ctxFaulted s t.ctx || !atsOn s then recOffcut s t n ws
  else if flushOn s && !s.ep.flushed.contains t.id then
    if s.ep.flushWait.any fun f => f.task = some t.id then s else issueFlush s (some t.id)
  else
    let a := cplAddr s t.ctx n
    let ask (s : State) : State :=
      globalCtr (upstream { s with atsCpl := mapPut s.atsCpl t.ctx.toNat { cplEnt t.ctx (a / 4096) 0 4096 false false with rend := 0 } }
        (.atsReq (pasidOf s t.ctx) (atsAddr s (a / 4096)) false)) 117 1
    match mapFind? s.atsCpl t.ctx.toNat with
    | none => ask s
    | some e =>
      if e.rend = 0 then s
      else if a < e.start ∨ e.start + e.len ≤ a then ask s
      else if !e.w then recOffcut { s with atsCpl := mapDel s.atsCpl t.ctx.toNat } t n ws
      else
        let ha := e.target + (a - e.start)
        if lineBusy s true (ha / 64) || hostPending s (ha / 64) then s
        else
          let s := recIssued (performPackage s) t n
          let s := gfeRing { s with ep := { s.ep with flushed := s.ep.flushed.filter (· ≠ t.id) } } 0x24 t.ctx.toNat (wordAt ws 0)
          sigAdd (recordWrite s { ctx := t.ctx, task := t.id, words := ws, addr := a, sentTo := none } (ha / 64)) t

def execCplRecordIssue (task : Nat) (s : State) : Out :=
  match taskOf s task with
  | some t =>
    if t.finished && t.issuedRec.isNone && taskWritesDone s t then done (recordStep s t) else idle s
  | none => idle s

def execIoflushReadComplete (s : State) : Out :=
  match s.ep.flushWait with
  | f :: rest => if flushSent s then done { s with ep := { s.ep with flushWait := rest, flushed := s.ep.flushed ++ f.task.toList } } else idle s
  | [] => idle s

/-! AFTER signals, fence writes, abort, the watchdog. -/

/-- The tasks that an AFTER signal waits for have ended and their records are issued (R330); its add, a release, waits for their GO (R328). -/
def afterReady (s : State) (a : AfterSig) : Bool :=
  a.tasks.all fun id => match taskOf s id with
    | some t => t.issuedRec.isSome
    | none => true

def execAfterSignal (ctx : CtxIx) (s : State) : Out :=
  match (gctx s ctx).after with
  | a :: rest =>
    if !afterReady s a || !running s then idle s
    else if gfeWrites s then idle s
    else if !gfeReady s (canon (fenceCa s ctx a.fence)) 8 then done (gfeSnoop s (canon (fenceCa s ctx a.fence)) 8)
    else
      let s := fenceAdd (setGctx s ctx { gctx s ctx with after := rest }) ctx a.fence a.add
      let s := match chanOf s ctx with
        | some n => setChan s n { chan s n with done := ((chan s n).done + 1) % 2 ^ 30 }
        | none => s
      done (ctxAck (progress s ctx) ctx)
  | [] => idle s

/-- R331. -/
def fsetWritten (s : State) (c : BitVec 12) (val : Word) : State :=
  if flag val 63 ∧ fld val 11 0 < fenceCount s c then fenceWrite s c (fld val 11 0) (reg s (.ctx c) 0x8080) else s

/-- A task of an aborted context ends at every core (R343). -/
def abortTask (s : State) (t : Task) : State :=
  let s := updTask s t.id fun x => { x with status := .aborted }
  t.cores.foldl (fun s c =>
    match taskOf s t.id with
    | none => s
    | some t =>
      if t.ended.contains c then s
      else if ((prog? s c).map Prog.task) = some t.id then leaveCore s c 0
      else
        match mapFind? t.saved c with
        | some (_, p) => partEnd s c p 0
        | none => partEnd s c (progInit t.id t.ctx (BitVec.ofNat 32 (tTaskId t.words)) 0) 0) s

/-- CTX_ABORT.GO (R343 steps 1 and 2). -/
def abortStarted (s : State) (c : BitVec 12) : State :=
  if ctxAborting s c then s
  else
    let s := setRf s (.ctx c) 0x10 61 61 1
    let s := match (gctx s c).capd with
      | some w => releaseCaps s w.caps
      | none => s
    let s := setGctx s c { gctx s c with capd := none, call := none, waitOn := none, recheck := false, front := none, slot := none, after := [] }
    let s := forgetSlotRead s c
    (s.tasks.filter fun t => decide (t.ctx = c) && !t.finished).foldl abortTask s

def abortDone (s : State) (c : BitVec 12) : Bool :=
  s.tasks.all fun t => decide (t.ctx ≠ c) || (t.finished && t.issuedRec.isSome)

def execAbortComplete (ctx : CtxIx) (s : State) : Out :=
  if ctxAborting s ctx && abortDone s ctx then
    let s := match feeder s ctx with
      | some n => setRf s .dt (0x3018 + 32 * n) 31 0 (chan s n).prod.toNat
      | none => setRf s (.ctx ctx) 0x0 31 0 (gctx s ctx).prod.toNat
    let s := setRf (setRf s (.ctx ctx) 0x10 61 61 0) (.ctx ctx) 0x10 62 62 1
    done (ctxAck (raise (gfeRing s 0x26 ctx.toNat 0) (.ctx ctx) 0x8020 4) ctx)
  else idle s

/-- R345: the context has undone work. -/
def undoneWork (s : State) (c : BitVec 12) : Bool :=
  ((gctx s c).enabled && ringBusy s c) || (s.tasks.any fun t => decide (t.ctx = c) && !t.finished) || !(gctx s c).after.isEmpty

/-- The STALL cause with the fence waited on (R345): 0 where no cause of the table matches. -/
def stallCause (s : State) (c : BitVec 12) : Nat × Nat × Nat :=
  let g := gctx s c
  match g.waitOn with
  | some (t, f) => (1, t, f)
  | none =>
    if g.capd.isSome then (2, 0, 0)
    else if s.tasks.any fun t => decide (t.ctx = c) && !t.finished then (3, 0, 0) else (0, 0, 0)

def execWdogStall (ctx : CtxIx) (s : State) : Out :=
  let iv := rf s (.ctx ctx) 0x8070 31 0
  if decide (iv ≠ 0) && undoneWork s ctx && decide (1000 * iv ≤ (s.stc - (gctx s ctx).lastProgress).toNat)
      && !(gctx s ctx).stalled then
    let x := stallCause s ctx
    let s := setGctx s ctx { gctx s ctx with stalled := true }
    let s := setRf (setRf (setRf s (.ctx ctx) 0x10 60 59 x.1) (.ctx ctx) 0x10 56 45 x.2.1) (.ctx ctx) 0x10 44 33 x.2.2
    done (raise s (.ctx ctx) 0x8020 3)
  else idle s

end Sys2Proof.Machine
end

