-- ==== Sys2Proof/Machine/Reset.lean ====
section
/-! DEFINITION. Working copies and enables (R41, R42), resets (R368-R371), bring-up and microcode (R372-R374), the
banked state (R375-R379), FLR (R361). -/

namespace Sys2Proof.Machine

/-! Enables. -/

/-- R41: the working copy of a block's registers. -/
def takeWork (s : State) (b : Blk) : State :=
  let lo := blkBase b
  let hi := lo + blkSize b
  { s with work := s.work.filter (fun e => decide (e.1 < lo))
      ++ s.regs.filter (fun e => decide (lo ≤ e.1) && decide (e.1 < hi) && decide (e.2 ≠ 0))
      ++ s.work.filter (fun e => decide (hi ≤ e.1)) }

/-- R241: segments that break a rule are taken as invalid at the enable. -/
def takeSegs (s : State) (c : BitVec 12) : State :=
  (List.range 16).foldl (fun s n =>
    let o := 0x8200 + 16 * n
    if segTaken s c n then s else setWk s (.ctx c) o (setFld (wk s (.ctx c) o) 63 63 0)) s

/-- EN becomes 1: the working copy is taken and IDLE falls. -/
def enableBlock (s0 : State) (b : Blk) : State :=
  let s := takeWork s0 b
  let s := setRf (setRf s b (hdrOff b) 0 0 1) b (hdrOff b + 8) 0 0 0
  match b with
  | .ctx c => ctxEnabled (takeSegs (purgeXlt s c) c) c
  | .cluster cl => resizeWindow s cl.val (winWays s0 cl.val) (winWays s cl.val)
  | .dt => { setRf s .dt 0x100 31 24 (rf s .dt 0x100 31 24 + 1) with beaconHeard := false, lastBeacon := s.stc, offset := none }
  | _ => s

/-- What a block does as it stops accepting work (R41, R297, R398). -/
def disableBlock (s : State) (b : Blk) : State :=
  let s := setRf s b (hdrOff b) 0 0 0
  match b with
  | .ctx c => ctxDisabled s c
  | .dt => ((List.range 16).filter (chanBound s)).foldl chanUnbind s
  | _ => s

/-- No part of a task that was started at the core is left there, and nothing of its caches, buffers and Tongs is under way. -/
def coreDrained (s : State) (c : Nat) : Bool :=
  coreQuiet s c && s.tasks.all fun t => (mapFind? t.saved c).isNone

/-- The GFE has no command, task, record, page fault or invalidation under way. -/
def gfeDrained (s : State) : Bool :=
  s.tasks.isEmpty && s.recs.isEmpty && s.faults.isEmpty && s.migs.isEmpty && s.posts.isEmpty && s.inv.isEmpty && (s.hreqs.all fun h => decide (h.core ≠ 384))
    && s.gctx.all fun e => e.2.call.isNone && e.2.front.isNone && e.2.capd.isNone && e.2.after.isEmpty

/-- Work that a block accepted is finished (R41). -/
def drained (s : State) (b : Blk) : Bool :=
  match b with
  | .ctx c => (s.tasks.all fun t => decide (t.ctx ≠ c)) && (gctx s c).after.isEmpty && (s.faults.all fun f => decide (f.ctx ≠ c)) && s.migs.all fun m => decide (m.ctx ≠ c)
  | .gfe => gfeDrained s
  | .ep => s.ep.held.isEmpty && s.ep.flushWait.isEmpty && !s.ep.doeBusy && s.hreqs.isEmpty && s.bis.all fun b => b.answered
  | .pwr => s.power.wakeq.all fun e => e.2.isEmpty
  | .dbg => (s.fifos.all fun e => e.2.recs.isEmpty) && s.watchPend.all fun e => e.2.isNone
  | .fmp n => !portBusy s n.val && decide (rf s b 0x110 7 5 ≠ 4)
  | .dt => s.dtOut.isEmpty && s.served.isEmpty && s.ackDue.isEmpty && (s.gctx.all fun e => !e.2.orphan) && (List.range 16).all fun n => !chanLive s n
  | .stack n => s.shares.all fun x => decide (x.stack ≠ n.val) || x.answer.isSome
  | .drawer n => s.txns.all fun t => decide (t.stage ≠ .home) || decide (regionOfCluster t.cluster ≠ n.val)
  | .core n => coreDrained s n.val
  | .cluster n => ((cores8 n.val).all fun c => coreDrained s c && s.tasks.all fun t => !placedAt t c)
      && (cluster s n.val).trk.isEmpty && (fifo s n.val).recs.isEmpty

/-- BLK_DRAIN_DONE (R41). -/
def execBlkDrainDone (b : Blk) (s : State) : Out :=
  if !blkEn s b && !rbit s b (hdrOff b + 8) 0 && drained s b && regsLive s b then done (setRf s b (hdrOff b + 8) 0 0 1) else idle s

/-- The blocks that bring-up enables (R372). -/
def bringUpBlocks : List Blk :=
  [.gfe, .pwr, .dbg] ++ (List.range 48).map bCluster ++ (List.range 384).map bCore ++ (List.range 12).map bStack
    ++ (List.range 8).map bDrawer

/-! What resets do to fields and memory. -/

/-- R369, R376, R389: a powered expander stays as it is; `retrain`: its port is in TRAINING again. A port without power starts anew. -/
def keepSlots (s0 s : State) (retrain : Bool) : State :=
  (List.range 4).foldl (fun s n =>
    let w := reg s0 (bFmp n) 0x110
    if !flag w 1 then s else setReg s (bFmp n) 0x110 (if retrain then place 7 5 3 ||| place 1 0 3 else w)) s

/-- R48: fields take their reset values; sticky ones keep theirs. No prediction stands, so TEMPER_LOW does not hold (R436). -/
def resetFields (s : State) : State :=
  { s with
    regs := s.regs.filterMap fun e =>
      match locate e.1 with
      | none => none
      | some (b, o) =>
        let stk := fieldsMask (regFields b o) fun f => f.stk
        let v := (regDefault e.1 &&& ~~~stk) ||| (e.2 &&& stk)
        if v = regDefault e.1 then none else some (e.1, v)
    work := [], held := [], conds := mapSet (fun _ => false) s.conds (condKey .pwr 2) false }

def setCause (s : State) (c : Nat) : State := setRf s .gfe 0x3000 3 0 c

def setVer (s : State) : State :=
  setRf s .gfe 0x3110 63 32 (match s.mcImage with
    | some i => i.version.toNat
    | none => 0)

/-- TBL_LGEN adds 1 (R132, R369). -/
def bumpLgen (s : State) : State := setRf s .gfe 0x2018 7 0 (rf s .gfe 0x2018 7 0 + 1)

def zeroSpads (s : State) : State := zeroRange s (spadBase 0) (384 * spadSize)
def zeroDrawers (s : State) : State := zeroRange s (drawerBase 0) (384 * drawerSize)
def zeroWindows (s : State) : State := zeroRange s (winBase 0) (48 * 0x1000000)

def emptyKeys (s : State) : State := { s with keys := [], keyPend := [] }

/-- R371: dispatched tasks end, their captures are released, and RETIRED descriptors are DRAINED where they may be. -/
def endAllTasks (s : State) : State :=
  let caps := heldCaps s
  let s := releaseCaps s caps
  let s := caps.foldl (fun s a => (drainDesc s a).getD s) s
  s

/-- The links and requests of Dovetail vanish: ports down, requests forgotten. -/
def dtDown (s : State) : State := { s with dtOut := [], chans := [], peers := [], lastBeacon := s.stc, beaconHeard := false, slew := 0, slews := [] }

/-- What warm reset, FLR and bank entry share: tasks end, dirty lines are written back, the compute dies are cleared. -/
def stopCompute (s : State) : State := computeClear (dtDown (writeBackAll (endAllTasks s)))

/-- R382, R383: every generation number is set equal, with every unit that is not fenced rejoined. -/
def equalGens (s : State) : State :=
  let g := rf s .gfe 0x3010 15 0
  (List.range 48).foldl (fun s cl =>
    if clusterFenced s cl then s
    else
      let n := rf s (bCluster cl) 0x600 15 0
      let s := setRf (setRf s (bCluster cl) 0x600 63 48 g) (bCluster cl) 0x600 16 16 0
      (cores8 cl).foldl (fun s c => if coreFenced s c then s else setRf (setRf s (bCore c) 0x600 17 16 0) (bCore c) 0x600 15 0 n) s) s

/-- R382, R372: bring-up's last row. -/
def bringRun (s : State) : State :=
  let s := equalGens (zeroWindows (zeroSpads s))
  let s := bringUpBlocks.foldl enableBlock s
  setPhase { s with power := { s.power with computeOn := true }, epochAt := s.stc } 2

/-! The kinds of reset. -/

/-- Power-on reset (R368, R369): everything but the part itself and what has left. -/
def powerOnReset (s : State) : State :=
  let p := State.reset
  { p with pending := s.pending, freeCtr := s.freeCtr, harvest := s.harvest, out := s.out }

/-- A rail below its reset threshold for 20 ns is loss of the rail, and a power-on reset (R428, R368). -/
def railCheck (s : State) : State := if railLost s then powerOnReset s else s

/-- DIP_BEGIN: a rail's reading (R428, R429). -/
def execDipBegin (rail : Rail) (mv : BitVec 16) (s : State) : Out :=
  if railWatched s rail then
    let t := railCheck (noteRail s rail mv)
    done (match rail with
      | .core d => if railLost (noteRail s rail mv) then t else railReading t d.val mv
      | _ => t)
  else idle s

/-- 5 ns pass. -/
def passTime (s : State) : State := railCheck (tick s)

/-- Warm reset with a cause (R368, R369): PHASE INIT, PLLs locked. -/
def warmReset (s : State) (cause : Nat) : State :=
  let s := stopCompute s
  let s := servePosts { s with devc := [], hreqs := [], bis := [], refused := [], snps := [], filt := [], recs := [] }
  let s := zeroDrawers (zeroWindows (zeroSpads (emptyKeys s)))
  let s := bumpLgen (keepSlots s (resetFields s) true)
  let s := { s with mcImage := none, ep := { Endpoint.reset with linkUp := s.ep.linkUp, inta := s.ep.inta && s.ep.linkUp }, inject := [], wstart := [], fifos := [],
                    power := { s.power with computeOn := false } }
  setPhase (setCause s cause) 0

/-- AER registers that no reset of the function or its link changes: status, masks, severities and control (R365). -/
def keepAer (e e' : Endpoint) : Endpoint :=
  { e' with aerStatus := e.aerStatus, aerCorr := e.aerCorr, headers := e.headers,
            cfg := [0x108, 0x10C, 0x114, 0x118].foldl (fun m o => mapSet cfgDefault m o (mapGet cfgDefault e.cfg o)) e'.cfg }

/-- The endpoint as an FLR leaves it until it completes: decoders and the CXL.mem service stay (R361). -/
def flrEndpoint (e : Endpoint) : Endpoint :=
  keepAer e { Endpoint.reset with decoders := e.decoders, biIdSet := e.biIdSet, linkUp := e.linkUp, flr := true, inta := e.inta }

/-- FLR steps 1 to 4 (R361). -/
def flrReset (s : State) : State :=
  let ph := phase s
  let s := writeBackAll (endAllTasks { s with hreqs := [], ep := { s.ep with held := [] } })
  let s := serveAllSnoops { s with txns := [] }
  let s := computeClear (dtDown (devFlush { s with ep := { s.ep with flr := true } }))
  let s := emptyKeys (disableContexts s)
  let s := bumpLgen (keepSlots s (resetFields s) false)
  let s := { s with inject := [], wstart := [], fifos := [],
                    ep := flrEndpoint s.ep }
  let s := setVer (setCause (zeroDrawers (zeroSpads s)) 6)
  if s.mcImage.isSome then bringRun s else setPhase s (min ph 1)

/-! The banked state. -/

/-- The words of a context's manifest entry (R378). -/
def manifestWords (s : State) (c : BitVec 12) (indet : Nat) : List Word :=
  let r := fun o => reg s (.ctx c) o
  let flags := boolNat (blkEn s (.ctx c)) + 2 * boolNat (ctxFaulted s c) + 4 * boolNat (ctxAborted s c)
  [BitVec.ofNat 64 flags, BitVec.ofNat 64 (gctx s c).nrec, BitVec.ofNat 64 (rf s (.ctx c) 0x8068 31 0), BitVec.ofNat 64 indet,
    BitVec.ofNat 64 (ctxCons s c), r 0x8040, r 0x8048, r 0x8050, r 0x8058, r 0x8060, r 0x8070, r 0x8100, r 0x8108, r 0x8110,
    reg s .ep (0x8000 + 8 * c.toNat)]
  ++ (List.range 32).map fun i => r (0x8200 + 8 * i)

/-- Contexts with any register off its reset value. -/
def usedContexts (s : State) : List Nat :=
  (List.range 4096).filter fun c => s.regs.any fun e =>
    (decide (blkBase (.ctx (BitVec.ofNat 12 c)) ≤ e.1) && decide (e.1 < blkBase (.ctx (BitVec.ofNat 12 c)) + 0x10000))
      || decide (e.1 = blkBase .ep + 0x8000 + 8 * c)

/-- R378, step 5 of R376; `ind` gives the indeterminate tasks of each context. -/
def writeManifest (s : State) (trigger : Nat) (stc : Word) (ind : BitVec 12 → Nat) : State :=
  let a := rf s .ep 0x20018 51 12 * 4096
  let s := zeroRange s a 0x201000
  let hdr : List Word := [0x4D4E4B42, BitVec.ofNat 64 (rf s .ep 0x20010 63 32), BitVec.ofNat 64 trigger, stc,
    BitVec.ofNat 64 (rf s .gfe 0x2018 7 0), reg s .ep 0x20020]
  let s := setBytes s a (bytesOfWords hdr)
  (usedContexts s).foldl (fun s c =>
    setBytes s (a + 0x1000 + 512 * c) (bytesOfWords (manifestWords s (BitVec.ofNat 12 c) (ind (BitVec.ofNat 12 c))))) s

/-- Entry to the banked state (R376). -/
def bankEnter (s0 : State) (trigger : Nat) : State :=
  let s := { s0 with hreqs := [], snps := [], ep := { s0.ep with held := [] } }
  let s := indeterminate s
  let s := stopWrites s
  let s := { s with filt := [], bis := [] }
  let s := setRf (bumpLgen s) .ep 0x20010 63 32 (rf s .ep 0x20010 63 32 + 1)
  let s := setRf s .ep 0x20010 3 0 trigger
  let s := writeManifest s trigger s0.stc (indetCount s0)
  let s := disableContexts (servePosts (computeClear (dtDown s)))
  let s := { s with power := { s.power with computeOn := false } }
  setPhase (raise s .ep 0x20040 0) 3
where
  /-- Captures are released and dirty local lines written back (R371, R369). -/
  stopWrites (s : State) : State := writeBackAll (endAllTasks s)

/-- Bank discard (R379). -/
def bankDiscard (s : State) : State := warmReset (emptyKeys s) 8

/-- The clocks restart (R453): STATE 0 and RELEASED, and peer-liveness timers start anew (R452). -/
def quenchOver (s : State) : State :=
  if rf s .dbg 0x200 59 58 = 0 then s
  else
    let s := { s with qedge := none, peers := s.peers.map fun e => (e.1, { e.2 with lastBeat := s.stc }), lastBeacon := s.stc }
    let s := raise (setRf s .dbg 0x200 59 58 0) .dbg 0x100 3
    if phase s = 3 then s else takeHeldReacts s

/-- A host-loss trigger (R368, R376, R424): its cause code and its bit of BANK_POLICY. -/
def hostLoss (s0 : State) (cause bit : Nat) : State :=
  let s := quenchOver s0
  if phase s = 1 then warmReset s cause
  else if phase s = 3 then
    if bit = 3 ∧ !rbit s .ep 0x20000 3 then bankDiscard s else s
  else if rbit s .ep 0x20000 bit then
    if rf s .ep 0x20018 51 12 = 0 then raise (warmReset s cause) .ep 0x20040 2 else bankEnter s cause
  else if cause = 6 then flrReset s
  else warmReset s cause

/-- What the standard does to configuration space and decoders at a conventional reset of the link. -/
def linkReset (s : State) : State :=
  { s with ep := keepAer s.ep { Endpoint.reset with linkUp := s.ep.linkUp, cfgReady := s.ep.cfgReady, inta := s.ep.inta } }

def execPowerOnReset (s : State) : Out := done (powerOnReset s)

/-- RST_CTL (R374). -/
def rstCtl (s : State) (val : Word) : State := if flag val 63 ∧ fld val 15 0 = 0x57A7 then hostLoss s 3 3 else s

def execHotReset (s : State) : Out := done (linkReset (hostLoss s 4 0))

def execSurpriseLinkDown (s : State) : Out :=
  let s := linkReset (hostLoss s 5 1)
  done (raise { s with ep := { s.ep with linkUp := false } } .ep 0x100 1)

def execLinkUp (s : State) : Out :=
  let s := { s with ep := { s.ep with linkUp := true } }
  done (if intaLevel s && s.ep.inta then send s .assertInta else s)

/-- R370: a retrain loses nothing and sets no event. -/
def execLinkRetrain (s : State) : Out := done s

def execFlrComplete (s : State) : Out :=
  if s.ep.flr then done (raise { s with ep := { s.ep with flr := false, cfgReady := true } } .ep 0x100 0) else idle s

/-! Re-attach (R379, R424). -/

/-- BANK_CTL (R379): REATTACH begins the re-attach; DISCARD ends the banked state. -/
def bankCtl (s : State) (val : Word) : State :=
  if phase s ≠ 3 then s
  else if flag val 63 then { s with power := { s.power with computeOn := true } }
  else if flag val 62 then bankDiscard s
  else s

/-- The held reactions are taken before PHASE becomes RUN (R424). -/
def reattached (s : State) : State :=
  let s := setVer (setCause (keepSlots s (resetFields s) false) 7)
  let s := takeHeldReacts s
  let s := if s.mcImage.isSome then bringRun s else setPhase s 1
  raise s .ep 0x20040 1

def execReattachComplete (s : State) : Out :=
  if phase s = 3 && s.power.computeOn then done (reattached s) else idle s

/-! Bring-up and microcode (R372-R374). -/

def execBringupPllLock (s : State) : Out :=
  if phase s = 0 && !s.power.plls then
    done { s with stcRun := true, power := { s.power with plls := true, hourAt := s.stc } }
  else idle s

def execBringupConfigReady (s : State) : Out :=
  if s.power.plls && !s.ep.cfgReady then done { s with ep := { s.ep with cfgReady := true } } else idle s

def execBringupBsmReady (s : State) : Out :=
  if phase s = 0 && s.power.plls && s.ep.cfgReady then done (setPhase (raise (zeroDrawers s) .gfe 0x3120 0) 1) else idle s

/-- Bytes of stack memory from a CA, with their poison; none where they leave the stacks. -/
def stackBytes (s : State) (a n : Nat) : Option (List Byte × Bool) :=
  if a + n ≤ 12 * stackSize then
    some (memBytes s a n, (List.range (n / 64 + 2)).any fun i => decide (a / 64 * 64 + 64 * i < a + n) && chunkPoison s (a / 64 + i))
  else none

/-- Lines of a range that the host may hold (R299). -/
def hostLines (s : State) (a n : Nat) : List Nat :=
  (s.filt.filter fun e => e.2.testBit 8 && decide (a / 64 ≤ e.1) && decide (e.1 * 64 < a + n) && !hostSnoopOk s e.1 false).map Prod.fst

/-- The image at MC_SRC (R373): none where it cannot be read; its length from the header, capped at 8 MiB. -/
def readImage (s : State) : Option McImage :=
  let a := rf s .gfe 0x3100 51 12 * 4096
  match stackBytes s a 1024 with
  | none => none
  | some (h, p) =>
    let n := max 1024 (min (2 ^ 23) (ofBytes ((h.drop 8).take 4)))
    if p then none
    else match stackBytes s a n with
      | none => none
      | some (d, p') => some { version := BitVec.ofNat 32 (ofBytes ((d.drop 4).take 4)), bytes := d, poisoned := p' }

/-- The first failing check of an image (R373, R374); 0 where all pass. -/
def imageCode (i : McImage) : Nat :=
  let u32 := fun o => ofBytes ((i.bytes.drop o).take 4)
  if u32 0 ≠ 0x4D434E39 ∨ u32 12 ≠ 9 then 1
  else if u32 8 < 1024 ∨ 2 ^ 23 < u32 8 then 2
  else if i.poisoned then 5
  else if !Config.signatureOk i.bytes then 3
  else if i.version.toNat < Config.minVer.toNat then 4
  else 0

/-- Lines of the image that the host must give up before they are read (R299). -/
def imageLines (s : State) : List Nat :=
  let a := rf s .gfe 0x3100 51 12 * 4096
  let h := hostLines s a 1024
  if h.isEmpty then hostLines s a ((readImage s).elim 1024 fun i => i.bytes.length) else h

/-- MC_CMD (R373): the store is erased and the load begins; outside BSM, CODE becomes 6. -/
def mcCmd (s : State) (val : Word) : State :=
  if !flag val 63 then s
  else if phase s ≠ 1 then setRf s .gfe 0x3110 7 0 6
  else gfeAsk (setRf (setRf { s with mcImage := none } .gfe 0x3110 63 32 0) .gfe 0x3110 8 8 1) (imageLines s)

def execMcLoadDone (s : State) : Out :=
  if !rbit s .gfe 0x3110 8 then idle s
  else if !(imageLines s).isEmpty then done (gfeAsk s (imageLines s))
  else
    let i := readImage s
    let s1 := setRf s .gfe 0x3110 8 8 0
    let code := (i.map imageCode).getD 5
    let s2 := setRf s1 .gfe 0x3110 7 0 code
    if code = 0 then done (setVer { s2 with mcImage := i })
    else done (raise s2 .gfe 0x3120 2)

def execBringupRun (s : State) : Out :=
  if phase s = 1 && s.mcImage.isSome && !rbit s .gfe 0x3110 8 then done (raise (bringRun s) .gfe 0x3120 1) else idle s

end Sys2Proof.Machine
end

