-- ==== Sys2Proof/Machine/Endpoint.lean ====
section
/-! DEFINITION. The endpoint's configuration space (R347-R351, R359-R363), HDM decoders (R352), the DOE mailbox (R353), the
expansion ROM and the cut list (R355-R357). -/

namespace Sys2Proof.Machine

/-- The function answers configuration requests normally (R361, R372). -/
def cfgUp (s : State) : Bool := s.ep.linkUp && s.ep.cfgReady && !s.ep.flr

/-- A configuration request: performed where the function answers, and Request Retry Status before it is ready and during an FLR (R361,
R372). -/
def cfgCmd (s : State) (f : State → State) : Out :=
  if cfgUp s then done (f s) else if s.ep.linkUp then done (send s .retryStatus) else idle s

/-! HDM decoders (R352). -/

def decoderInit : Decoder := { committed := false, base := 0, size := 0, dpa := 0, bi := false, failed := false }

def decoder (s : State) (n : Nat) : Decoder :=
  mapGet (fun _ => decoderInit) s.ep.decoders n

def setDecoder (s : State) (n : Nat) (d : Decoder) : State :=
  { s with ep := { s.ep with decoders := mapSet (fun _ => decoderInit) s.ep.decoders n d } }

def decoderOk (s : State) (n base size dpa : Nat) : Bool :=
  decide (base % 0x10000000 = 0) && decide (size % 0x10000000 = 0) && decide (0 < size) && decide (dpa % 0x10000000 = 0)
    && decide (dpa + size ≤ 12 * stackSize)
    && (List.range 4).all fun k => decide (k = n) || !(decoder s k).committed || !overlap dpa size (decoder s k).dpa (decoder s k).size

/-- A commit; one that fails leaves the decoder uncommitted (Commit Error). -/
def execHdmDecoderCommit (dec : Fin 4) (base size dpa : Nat) (bi : Bool) (s : State) : Out :=
  if s.ep.linkUp then
    let ok := decoderOk s dec.val base size dpa
    done (setDecoder s dec.val { committed := ok, base, size, dpa, bi, failed := !ok })
  else idle s

/-- The DPA and BI bit of a host physical address (R352). -/
def hdmDpa (s : State) (hpa : Nat) : Option (Nat × Bool) :=
  (List.range 4).findSome? fun n =>
    let d := decoder s n
    if d.committed && decide (d.base ≤ hpa) && decide (hpa < d.base + d.size) then some (d.dpa + (hpa - d.base), d.bi) else none

/-! The cut list and the ROM (R355-R357). -/

/-- One bit of CRC-32 (IEEE 802.3, reflected). -/
def crcStep (c : Nat) : Nat := if c % 2 = 1 then c / 2 ^^^ 0xEDB88320 else c / 2

def crc32 (bs : List Byte) : Nat :=
  bs.foldl (fun c b => (List.range 8).foldl (fun c _ => crcStep c) (c ^^^ b.toNat)) 0xFFFFFFFF ^^^ 0xFFFFFFFF

/-- Bytes 0x00C to 0x0FF of the cut list. -/
def cutTail (s : State) : List Byte :=
  toBytes 2 0x0009 ++ toBytes 2 Config.stepping.toNat ++ toBytes 8 Config.serial.toNat
    ++ [0x0F, 2, 4, 6, 8, 12] ++ toBytes 2 48 ++ [0x0F, 0] ++ toBytes 2 0xFFFF ++ toBytes 2 128 ++ toBytes 2 4096
    ++ [64, 64, 16, 32] ++ List.replicate 20 0
    ++ ((List.range 64).map fun i => BitVec.ofNat 8 (boolsNat ((List.range 8).map fun j => coreEnabled s (8 * i + j))))
    ++ List.replicate 128 0

def cutList (s : State) : List Byte :=
  toBytes 4 0x4C545543 ++ toBytes 2 1 ++ toBytes 2 256 ++ toBytes 4 (crc32 (cutTail s)) ++ cutTail s

/-- Where the ROM header's pointer finds the PCI data structure: on a dword behind the header's 28 bytes, not given by the manual. -/
def pcirAt : Nat := 0x1C + 4 * (Config.romByte 0x18).toNat

/-- The bytes that the PCI expansion ROM header and its data structure fix (R348, R355), by offset: the signature, the pointer, "PCIR",
the identifiers, the structure's length, the class code and code type 0xF0. -/
def romHeader : List (Nat × Byte) :=
  let at_ := fun (o : Nat) (bs : List Byte) => (List.range bs.length).map fun i => (o + i, bs.getD i 0)
  at_ 0 (toBytes 2 0xAA55) ++ at_ 0x18 (toBytes 2 pcirAt) ++ at_ pcirAt (toBytes 4 0x52494350 ++ toBytes 2 0x1F6A ++ toBytes 2 0x9A90)
    ++ at_ (pcirAt + 0x0A) (toBytes 2 0x1C) ++ at_ (pcirAt + 0x0D) [0, 0, 0x12] ++ at_ (pcirAt + 0x14) [0xF0]

def romByteAt (s : State) (o : Nat) : Byte :=
  if Config.cutOff.toNat ≤ o ∧ o < Config.cutOff.toNat + 256 then (cutList s).getD (o - Config.cutOff.toNat) 0
  else (((romHeader.find? fun e => e.1 = o).map Prod.snd).getD (Config.romByte o))

def execRomRead (off len : Nat) (s : State) : Out :=
  if claims s && cfgBit s 0x30 0 && decide (off + len ≤ 0x1000000) then
    done (send (globalCtr s 73 len) (.cpl ((List.range len).map fun i => romByteAt s (off + i)) false))
  else done (refuseRead s)

/-! The DOE mailbox (R353). -/

/-- A data object: vendor ID and type, its length in dwords, and the payload padded to a dword. It answers a request that came through
the mailbox registers in the read mailbox, and one that came as a row of its own at once (log entry 223). -/
def doeSend (s : State) (vid ty : Nat) (p : List Byte) : State :=
  let pad := p ++ List.replicate ((4 - p.length % 4) % 4) 0
  let o := toBytes 4 (vid + ty * 65536) ++ toBytes 4 (pad.length / 4 + 2) ++ pad
  if s.ep.doeBusy then
    { s with ep := { s.ep with doeBusy := false, doeOut := (List.range (o.length / 4)).map fun i => BitVec.ofNat 32 (ofBytes ((o.drop (4 * i)).take 4)) } }
  else send s (.doe o)

def doeDiscovery (ix : BitVec 8) (s : State) : State :=
  let e : Nat × Nat × Nat := match ix.toNat with
    | 0 => (1, 0, 1)
    | 1 => (1, 1, 2)
    | 2 => (0x1E98, 2, 0)
    | _ => (0xFFFF, 0xFF, 0)
  doeSend s 1 0 (toBytes 2 e.1 ++ toBytes 1 e.2.1 ++ toBytes 1 e.2.2)

def execDoeDiscovery (ix : BitVec 8) (s : State) : Out := cfgCmd s (doeDiscovery ix)

/-- DOE Abort: the exchange ends, and both mailboxes are empty. -/
def doeAbort (s : State) : State := { s with ep := { s.ep with doeBusy := false, doeIn := [], doeOut := [], doeErr := false } }

def execDoeAbort (s : State) : Out := cfgCmd s doeAbort

/-- An SPDM 1.2 answer: version byte, response code, two parameters, and the rest. -/
def spdmSend (s : State) (ver code p1 p2 : Nat) (rest : List Byte) : State :=
  doeSend s 1 1 (toBytes 1 ver ++ toBytes 1 code ++ toBytes 1 p1 ++ toBytes 1 p2 ++ rest)

/-- SPDM ERROR with a code. -/
def spdmError (s : State) (code : Nat) : State := spdmSend s 0x12 0x7F code 0 []

def setSpdm (s : State) (n : Nat) : State := { s with ep := { s.ep with spdm := n } }

/-- A message that needs the session at stage `n` at least; UnexpectedRequest otherwise. -/
def spdmAt (n : Nat) (f : State → State) (s : State) : State := if n ≤ s.ep.spdm then f s else spdmError s 4

def getVersion (s : State) : State := setSpdm (spdmSend s 0x10 0x04 0 0 ([0, 1] ++ toBytes 2 0x1200)) 1

def execGetVersion (s : State) : Out := cfgCmd s getVersion

/-- CERT_CAP, CHAL_CAP and MEAS_CAP with signatures. -/
def getCapabilities (ver : BitVec 8) : State → State :=
  spdmAt 1 fun s =>
    if ver.toNat = 0x12 then
      setSpdm (spdmSend s 0x12 0x61 0 0 ([0, 0, 0, 0] ++ toBytes 4 0x16 ++ toBytes 4 0x40000 ++ toBytes 4 0x40000)) (max 2 s.ep.spdm)
    else spdmError s 0x41

def execGetCapabilities (ver : BitVec 8) (_ : BitVec 32) (s : State) : Out := cfgCmd s (getCapabilities ver)

/-- ECDSA P-384 and SHA-384, where the requester offers them. -/
def negotiateAlgorithms (asym hash : BitVec 32) : State → State :=
  spdmAt 2 fun s =>
    setSpdm (spdmSend s 0x12 0x63 0 0
      (toBytes 2 52 ++ [1, 0] ++ toBytes 4 4 ++ toBytes 4 (asym &&& 0x80).toNat ++ toBytes 4 (hash &&& 0x2).toNat ++ List.replicate 20 0)) 3

def execNegotiateAlgorithms (asym hash : BitVec 32) (s : State) : Out := cfgCmd s (negotiateAlgorithms asym hash)

def chainDigest : List Byte := toBytes 48 (Config.sha384 Config.certChain).toNat

def getDigests : State → State := spdmAt 3 fun s => spdmSend s 0x12 0x01 0 1 chainDigest

def execGetDigests (s : State) : Out := cfgCmd s getDigests

def getCertificate (off len : BitVec 16) : State → State :=
  spdmAt 3 fun s =>
    let n := Config.certChain.length
    if n ≤ off.toNat then spdmError s 1
    else
      let p := (Config.certChain.drop off.toNat).take len.toNat
      spdmSend s 0x12 0x02 0 0 (toBytes 2 p.length ++ toBytes 2 (n - off.toNat - p.length) ++ p)

def execGetCertificate (off len : BitVec 16) (s : State) : Out := cfgCmd s (getCertificate off len)

def challenge (nonce : BitVec 256) : State → State :=
  spdmAt 3 fun s =>
    let f := freeNat s
    let body := chainDigest ++ toBytes 32 f.1 ++ List.replicate 48 0 ++ toBytes 2 0
    spdmSend f.2 0x12 0x03 0 1 (body ++ Config.spdmSign (toBytes 32 nonce.toNat ++ body))

def execChallenge (nonce : BitVec 256) (s : State) : Out := cfgCmd s (challenge nonce)

/-- Measurement `i`: 1 the boot ROM, 2 the accepted microcode image, all zeros while there is none, 3 the cut list. -/
def measurement (s : State) (i : Nat) : List Byte :=
  if i = 1 then toBytes 48 Config.romDigest.toNat
  else if i = 2 then (match s.mcImage with
    | some m => toBytes 48 (Config.sha384 m.bytes).toNat
    | none => List.replicate 48 0)
  else toBytes 48 (Config.sha384 (cutList s)).toNat

/-- A measurement block: index, DMTF specification, size, type, value size, value. -/
def measBlock (s : State) (i : Nat) : List Byte :=
  toBytes 1 i ++ [1] ++ toBytes 2 51 ++ toBytes 1 (i - 1) ++ toBytes 2 48 ++ measurement s i

def getMeasurements (op : BitVec 8) : State → State :=
  spdmAt 3 fun s =>
    let o := op.toNat
    let ans := fun (p1 : Nat) (is : List Nat) =>
      let rec' := is.flatMap (measBlock s)
      let f := freeNat s
      let body := toBytes 1 is.length ++ toBytes 3 rec'.length ++ rec' ++ toBytes 32 f.1 ++ toBytes 2 0
      spdmSend f.2 0x12 0x60 p1 0 (body ++ Config.spdmSign body)
    if o = 0 then ans 3 [] else if o = 0xFF then ans 0 [1, 2, 3] else if o ≤ 3 then ans 0 [o] else spdmError s 1

def execGetMeasurements (op : BitVec 8) (s : State) : Out := cfgCmd s (getMeasurements op)

/-! CDAT (R353): the header, one DSMAS, and one DSLBIS with latency and bandwidth. -/

/-- A byte that makes the sum of all zero. -/
def sumByte (bs : List Byte) : Byte := bs.foldl (fun a b => a - b) 0

def cdatDsmas : List Byte := [0, 0] ++ toBytes 2 24 ++ [0, 0, 0, 0] ++ toBytes 8 0 ++ toBytes 8 (12 * stackSize)

/-- The one DSLBIS of R353: access latency, 400 units of 1,000 ps in its first entry, and access bandwidth, 55,000 units of 2 MB/s in its
second (log entry 224). -/
def cdatDslbis : List Byte := [1, 0] ++ toBytes 2 24 ++ [0, 0, 0, 0] ++ toBytes 8 1000 ++ toBytes 2 400 ++ toBytes 2 55000 ++ toBytes 2 0

def cdatBody : List (List Byte) := [cdatDsmas, cdatDslbis]

def cdatHeader : List Byte :=
  let h : List Byte := toBytes 4 (16 + 48) ++ [1]
  h ++ [sumByte (h ++ cdatBody.flatten)] ++ List.replicate 10 0

def cdatRead (entry : BitVec 16) (s : State) : State :=
  match (cdatHeader :: cdatBody)[entry.toNat]? with
  | some e => doeSend s 0x1E98 2 ([0, 0] ++ toBytes 2 (if entry.toNat + 1 ≤ cdatBody.length then entry.toNat + 1 else 0xFFFF) ++ e)
  | none => doeSend s 0x1E98 2 [1, 0, 0xFF, 0xFF]

def execCdatRead (entry : BitVec 16) (s : State) : Out := cfgCmd s (cdatRead entry)

/-! The mailbox registers (R350). -/

/-- An SPDM request by its bytes: version, code, two parameters, the rest. -/
def spdmRequest (b : List Byte) (s : State) : State :=
  let u := fun (o n : Nat) => ofBytes ((b.drop o).take n)
  match u 1 1 with
  | 0x84 => getVersion s
  | 0xE1 => getCapabilities (BitVec.ofNat 8 (u 0 1)) s
  | 0xE3 => negotiateAlgorithms (BitVec.ofNat 32 (u 8 4)) (BitVec.ofNat 32 (u 12 4)) s
  | 0x81 => getDigests s
  | 0x82 => getCertificate (BitVec.ofNat 16 (u 4 2)) (BitVec.ofNat 16 (u 6 2)) s
  | 0x83 => challenge (BitVec.ofNat 256 (u 4 32)) s
  | 0xE0 => getMeasurements (BitVec.ofNat 8 (u 3 1)) s
  | _ => spdmError s 7

/-- DOE Go: the object in the write mailbox is taken. One whose length is not its own sets DOE Error; one of an unknown type is discarded. -/
def doeGo (s : State) : State :=
  let ws := s.ep.doeIn
  let w := fun i => (ws.getD i 0).toNat
  let s := { s with ep := { s.ep with doeIn := [], doeOut := [] } }
  if ws.length < 2 ∨ w 1 % 2 ^ 18 ≠ ws.length % 2 ^ 18 then { s with ep := { s.ep with doeErr := true } }
  else
    let b := (ws.drop 2).flatMap fun x => toBytes 4 x.toNat
    let go := { s with ep := { s.ep with doeBusy := true } }
    match w 0 % 2 ^ 24 with
    | 0x000001 => doeDiscovery (BitVec.ofNat 8 (w 2)) go
    | 0x010001 => spdmRequest b go
    | 0x021E98 => cdatRead (BitVec.ofNat 16 (w 2 / 2 ^ 16)) go
    | _ => s

/-- A write of the dword `v` to one of the mailbox registers: control, with Abort and Go; the write mailbox; the read mailbox, which then
shows the answer's next dword. -/
def doeWrite (s : State) (off : Nat) (v m : BitVec 32) : State :=
  let x := v &&& m
  if off = 0x1C8 then (if x.getLsbD 0 then doeAbort s else if x.getLsbD 31 then doeGo s else s)
  else if off = 0x1D0 then { s with ep := { s.ep with doeIn := (s.ep.doeIn ++ [x]).take (2 ^ 16) } }
  else { s with ep := { s.ep with doeOut := s.ep.doeOut.drop 1 } }

/-! Configuration writes. -/

/-- Bits of a configuration dword that a write changes; those the manual leaves to the standard follow it (log entry 6). -/
def cfgRw (o : Nat) : BitVec 32 :=
  match o with
  | 0x04 => 0x546
  | 0x0C => 0xFF
  | 0x10 => 0xFC000000
  | 0x14 => 0xFFFFFFFF
  | 0x18 => 0xF0000000
  | 0x1C => 0xFFFFFFFF
  | 0x24 => 0xFFFFFFF0
  | 0x30 => 0xFF000001
  | 0x3C => 0xFF
  | 0x50 => 0x00710000
  | 0x54 => 0xFFFFFFFC
  | 0x58 => 0xFFFFFFFF
  | 0x5C => 0xFFFF
  | 0x60 => 0x1
  | 0x78 => 0x79FF
  | 0x80 => 0xC0
  | 0x98 => 0x101F
  | 0x108 => 0x07FFF030
  | 0x10C => 0x07FFF030
  | 0x114 => 0x0000F1C1
  | 0x118 => 0x00000540
  | 0x15C => 0x5
  | 0x1E4 => 0x801F0000
  | 0x1F4 => 0x00010000
  | 0x204 => 0x1
  | 0x20C => 0xFFFFFFFF
  | _ => 0

/-- Bits of a configuration dword that a 1 clears. -/
def cfgRw1c (o : Nat) : BitVec 32 :=
  match o with
  | 0x04 => 0xF9000000
  | 0x78 => 0x000F0000
  | 0x204 => 0x00030000
  | _ => 0

/-- R362: Bus Master Enable changes. -/
def setBme (s : State) (v : Bool) : State :=
  let w := cfgWord s 0x04
  releaseHeld (setCfg s 0x04 (if v then w ||| 4 else w &&& ~~~4))

/-- R360: MSI Enable changes to 1. -/
def msiEnabled (s : State) : State := { setCfg s 0x50 (cfgWord s 0x50 ||| 0x10000) with ep := { (setCfg s 0x50 (cfgWord s 0x50 ||| 0x10000)).ep with msiArm := true } }

/-- R360: the vector is unmasked; a pending message is sent if IRQ is still 1. -/
def msiUnmasked (s : State) : State :=
  let s := setCfg s 0x60 (cfgWord s 0x60 &&& ~~~1)
  if s.ep.msiPend then
    let s := { s with ep := { s.ep with msiPend := false } }
    if msiEn s && irq s then upstream s (.msi ((cfgWord s 0x54).toNat + 2 ^ 32 * (cfgWord s 0x58).toNat) ((cfgWord s 0x5C).setWidth 16)) else s
  else s

/-- R363: PowerState becomes D3hot, or D0 again with all state kept (R350). -/
def setPowerState (s : State) (d3 : Bool) : State :=
  let w := cfgWord s 0x44
  let s := setCfg s 0x44 (if d3 then w ||| 3 else w &&& ~~~3)
  let s := { s with ep := { s.ep with d3hot := d3 } }
  releaseHeld s

/-- R351: Page Request Enable returns to 1, or PRI Reset is set. -/
def priCleared (s : State) : State := { s with ep := { s.ep with priBlocked := false } }

/-- FLR (R361). -/
def flrStart (s : State) : State :=
  let banked := phase s = 3 || rbit s .ep 0x20000 2
  let t := hostLoss s 6 2
  if banked then { t with ep := flrEndpoint t.ep } else { t with ep := { t.ep with flr := true } }

/-- What a write of a configuration dword starts, from its old value `o`, after the plain fields are written; `v` is
the value written. -/
def cfgEffects (s : State) (off : Nat) (o v m : BitVec 32) : State :=
  let rose := fun (i : Nat) => !o.getLsbD i && (v &&& m).getLsbD i
  let fell := fun (i : Nat) => o.getLsbD i && m.getLsbD i && !v.getLsbD i
  match off with
  | 0x04 => if rose 2 then releaseHeld s else s
  | 0x44 =>
    if m.getLsbD 0 then
      (if v.getLsbD 0 && v.getLsbD 1 then setPowerState s true
       else if !v.getLsbD 0 && !v.getLsbD 1 then setPowerState s false else s)
    else s
  | 0x50 => if rose 16 then msiEnabled s else s
  | 0x60 => if fell 0 then msiUnmasked s else s
  | 0x78 => if (v &&& m).getLsbD 15 then flrStart s else s
  | 0x104 => clearUncorr s (v &&& m)
  | 0x110 => { s with ep := { s.ep with aerCorr := s.ep.aerCorr &&& ~~~(v &&& m) } }
  | 0x1C8 | 0x1D0 | 0x1D4 => doeWrite s off v m
  | 0x204 => if rose 0 || (v &&& m).getLsbD 1 then sendPageReqs (priCleared s) else if fell 0 then failUnsent s else s
  | 0x20C => sendPageReqs s
  | _ => s

/-- A write of the bits `m` of a configuration dword. -/
def cfgWrite (s : State) (off : Nat) (v m : BitVec 32) : State :=
  let o := cfgWord s off
  let rw := cfgRw off &&& m
  let n := ((o &&& ~~~rw) ||| (v &&& rw)) &&& ~~~(v &&& m &&& cfgRw1c off)
  cfgEffects (setCfg s off n) off o v m

/-- The dword mask of a write of `size` bytes at byte `b` of it. -/
def cfgMask (b size : Nat) : BitVec 32 := BitVec.ofNat 32 ((2 ^ (8 * size) - 1) <<< (8 * b))

def execConfigurationWrite (off size : Nat) (val : BitVec 32) (s : State) : Out :=
  if !s.ep.linkUp || decide (4096 ≤ off) || !(size = 1 || size = 2 || size = 4) || decide (off % size ≠ 0) then idle s
  else if cfgUp s && decide (0x400 ≤ off) then .refused .ioDieConfiguration
  else cfgCmd s fun s => (cfgWrite s (off / 4 * 4) (val <<< (8 * (off % 4))) (cfgMask (off % 4) size))

def execMsiEnable (s : State) : Out := cfgCmd s fun s => if msiEn s then s else msiEnabled s
def execMsiUnmask (s : State) : Out := cfgCmd s msiUnmasked
def execBmeClear (s : State) : Out := cfgCmd s fun s => setBme s false
def execBmeSet (s : State) : Out := cfgCmd s fun s => setBme s true
def execD3hotEnter (s : State) : Out := cfgCmd s fun s => setPowerState s true
def execD0Return (s : State) : Out := cfgCmd s fun s => setPowerState s false

/-- Page Request Enable is written 0 and back to 1. -/
def execPriReenable (s : State) : Out := cfgCmd s fun s => cfgWrite (cfgWrite s 0x204 0 1) 0x204 1 1

def execFlrInitiate (s : State) : Out := cfgCmd s flrStart

end Sys2Proof.Machine
end

