-- ==== Sys2Proof/Machine/Dcache.lean ====
section
/-! DEFINITION. The data caches' coherence requests on their way (R247-R251, R282-R289), the write-back buffer, the
host's CXL.mem and CXL.cache messages (R292-R300), and the answers to the complex's own requests (R293, R366). -/

namespace Sys2Proof.Machine

/-- The line a command names: host lines are numbered from 2^52. -/
def lineHost (x : Nat) : Bool := decide (2 ^ 52 ≤ x)
def lineNo (x : Nat) : Nat := x % 2 ^ 52

def setTxn (s : State) (t : Txn) : State :=
  { s with txns := s.txns.map fun u => if u.core = t.core ∧ u.line = t.line ∧ u.host = t.host then t else u }

/-- A request comes to its next order point behind those that are there (R282, R286, R287). -/
def moveTxn (s : State) (t : Txn) : State :=
  { s with txns := (s.txns.filter fun u => !(decide (u.core = t.core) && decide (u.line = t.line) && decide (u.host = t.host))) ++ [t] }

def dropTxn (s : State) (t : Txn) : State :=
  { s with txns := s.txns.filter fun u => !(decide (u.core = t.core) && decide (u.line = t.line) && decide (u.host = t.host)) }

/-- Another request for the line is past the ring: in the same cluster at any stage, elsewhere at the line's
location controller or beyond (R282, R286, R287). -/
def lineHeld (s : State) (t : Txn) : Bool :=
  s.txns.any fun u => decide (u.line = t.line) && decide (u.host = t.host) && u.core ≠ t.core
    && (u.stage = .loc || u.stage = .host || u.stage = .data || (u.stage = .home && decide (u.cluster = t.cluster)))

/-- Some of the holders has the line in M or E, so no other cache holds it (R283). -/
def soleCopy (s : State) (host : Bool) (k : Nat) (hs : List Holder) : Bool :=
  hs.any fun h => match holderLine s host k h with
    | some (_, l) => l.st = .m || l.st = .e
    | none => false

/-- An ownership request that carries the data of an O copy is a copy for the others (R284): a read is supplied by it, an ownership
request takes the data over. `near`: those whose clusters are snooped. -/
def txnCopy (s : State) (t : Txn) (near : Txn → Bool) : State × SnoopRes :=
  match s.txns.find? fun u => decide (u.line = t.line) && decide (u.host = t.host) && u.core ≠ t.core && u.dirty
      && (u.stage = .home || u.stage = .loc) && near u with
  | none => (s, snoopNone)
  | some u => (setTxn s (if t.own then { u with dirty := false, data := [], poison := false } else { u with shared := true }),
      { data := some (u.data, u.poison, u.key, u.cc), dirty := true, found := true, eng := false })

/-- What a snoop brought joins the request: a read served from an M, O or E copy ends here; an ownership request
does where the copy was the only one (R284). Otherwise it goes on to `next`. -/
def afterSnoop (t : Txn) (r : SnoopRes) (sole : Bool) (next : TxStage) : Txn :=
  match r.data with
  | some (d, p, _, _) =>
    { t with data := d, poison := p, dirty := true, shared := true, stage := if !t.own || sole then .data else next }
  | none => { t with shared := t.shared || r.found, stage := next }

/-- An engine write whose line a data cache takes over is accepted by the controller first (R264, R284). -/
def engPerform (s : State) (t : Txn) (r : SnoopRes) : State :=
  match r.data with
  | some (d, p, key, _) => if t.own && r.eng then chunkWrite s whoNone t.line 0 d p key else s
  | none => s

/-- A read through a range with CC at 1 whose data came from another copy also allocates in its cluster's cache (R253). -/
def readAlloc (s : State) (t : Txn) : State :=
  if !t.own && t.cc && !t.host && ccacheable (t.line * 64) && !clusterFenced s t.cluster
      && (findLine (cluster s t.cluster).ccache false t.line).isNone then
    ccInsert s t.cluster { line := t.line, host := false, st := .s, data := t.data, poison := t.poison, cc := true, key := t.key, stamp := 0, pres := 0 }
  else s

/-- RING_REQUEST_GRANT (R282): the arbiter grants the oldest request for the line. -/
def ringGrant (s : State) (t : Txn) : State :=
  let s := flushWb (clusterCtr s t.cluster 9 1) t.host t.line
  let hs := (clusterHolders t.cluster).filter (· ≠ .dc t.core)
  let sole := soleCopy s t.host t.line hs
  let hit := (findLine (cluster s t.cluster).ccache t.host t.line).isSome
  let s := if !t.host && ccacheable (t.line * 64) then clusterCtr s t.cluster (if hit then 0 else 1) 1 else s
  let r := snoopHolders s t.host t.line t.own hs
  let s := engPerform r.1 t r.2
  let u := afterSnoop t r.2 sole .home
  moveTxn (if u.stage = .data then readAlloc s u else s) u

def execRingRequestGrant (cluster : ClusterIx) (line : Nat) (s : State) : Out :=
  match s.txns.find? fun t => decide (t.cluster = cluster.val) && decide (t.line = lineNo line) && decide (t.host = lineHost line) && t.stage = .ring with
  | some t => if running s && !lineHeld s t then done (ringGrant s t) else idle s
  | none => idle s

def snoopMerge (a b : SnoopRes) : SnoopRes :=
  { data := match b.data with | some d => some d | none => a.data, dirty := a.dirty || b.dirty, found := a.found || b.found, eng := a.eng || b.eng }

/-- A home agent snoops the flagged clusters of its region but `self`; a bit is cleared where the snoop finds no copy
or invalidates every copy (R286, R288). -/
def snoopRegion (s : State) (host : Bool) (k : Nat) (own : Bool) (rg : Nat) (self : Option Nat) : State × SnoopRes :=
  (List.range 6).foldl (fun (st : State × SnoopRes) i =>
    let cl := rg * 6 + i
    if some cl ≠ self && (dirBits st.1 rg (dirKey host k)).testBit i then
      let r := snoopHolders st.1 host k own (clusterHolders cl)
      let s := if own || !r.2.found then setDirBits r.1 rg (dirKey host k) (dirBits r.1 rg (dirKey host k) &&& (63 - 2 ^ i)) else r.1
      (s, snoopMerge st.2 r.2)
    else st) (s, snoopNone)

def regionHolders (rg : Nat) (self : Option Nat) : List Holder :=
  (List.range 6).flatMap fun i => if some (rg * 6 + i) = self then [] else clusterHolders (rg * 6 + i)

/-- The directory's entry of a request that has passed it: its cluster's bit may be set early (R286, R288). -/
def noteDir (s : State) (rg : Nat) (t : Txn) : State :=
  setDirBits s rg (dirKey t.host t.line) (dirBits s rg (dirKey t.host t.line) ||| 2 ^ (t.cluster % 6))

/-- HOME_AGENT_REQUEST (R286): injected directory errors fire at this check (R425). -/
def homeRequest (s : State) (rg : Nat) (t : Txn) : State :=
  let s := (fireInjection (fireInjection s (bDrawer rg) 2 none none).2 (bDrawer rg) 3 none none).2
  let s := flushWb s t.host t.line
  let sole := soleCopy s t.host t.line (regionHolders rg (some t.cluster))
  let x := txnCopy s t fun u => decide (regionOfCluster u.cluster = rg)
  let r := snoopRegion x.1 t.host t.line t.own rg (some t.cluster)
  let u := afterSnoop t (snoopMerge r.2 x.2) sole .loc
  let s := noteDir (engPerform r.1 t r.2) rg t
  moveTxn (if u.stage = .data then readAlloc s u else s) u

def execHomeAgentRequest (region : Fin 8) (line : Nat) (s : State) : Out :=
  match s.txns.find? fun t => decide (regionOfCluster t.cluster = region.val) && decide (t.line = lineNo line) && decide (t.host = lineHost line)
      && t.stage = .home with
  | some t =>
    if running s && blkEn s (.drawer region) && !lineHeld s t && dirRoom s region.val t.host t.line then done (homeRequest s region.val t) else idle s
  | none => idle s

/-- The other regions that a location controller, or for a host line the device cache, has flagged. -/
def flaggedRegions (s : State) (t : Txn) : List Nat :=
  (List.range 8).filter fun rg => rg ≠ regionOfCluster t.cluster &&
    (if t.host then decide (dirBits s rg (dirKey true t.line) ≠ 0) else (filter s t.line).testBit rg)

def snoopRegions (s : State) (t : Txn) : State × SnoopRes :=
  (flaggedRegions s t).foldl (fun (st : State × SnoopRes) rg =>
    let r := snoopRegion st.1 t.host t.line t.own rg none
    let s := if !t.host && (t.own || !r.2.found) then setFilter r.1 t.line (filter r.1 t.line &&& (511 - 2 ^ rg)) else r.1
    (s, snoopMerge st.2 r.2)) (txnCopy s t fun _ => true)

/-- The line in the requester's own cache. -/
def ownLine (s : State) (t : Txn) : Option CLine := (findLine (core s t.core).dcache t.host t.line).map Prod.snd

/-- The data of a CA line that no cache supplied: the requester's copy, or memory, which a cluster cache also
takes where the access allocates (R253). -/
def locMemory (s : State) (t : Txn) : State × Txn :=
  match ownLine s t with
  | some l => (s, { t with data := l.data, poison := l.poison })
  | none =>
    if t.noData then (s, { t with data := List.replicate 64 0 })
    else
      let held := if isHole s (t.line * 64) && !portDrains s (t.line * 64) then
          ((toBytes 64 (freeNat s).1, true), (freeNat s).2)
        else chunkRead s { whoCore s t.core with jig := false } t.line 0 64 t.key
      let t := { t with data := held.1.1, poison := held.1.2 }
      if !t.own && t.cc && ccacheable (t.line * 64) && !clusterFenced s t.cluster then
        (ccInsert held.2 t.cluster { line := t.line, host := false, st := .s, data := t.data, poison := t.poison, cc := true, key := t.key, stamp := 0, pres := 0 },
          { t with shared := true })
      else (held.2, t)

/-- LOCATION_REQUEST for a CA line (R287, R299). -/
def locRequest (s : State) (t : Txn) : State :=
  let s := match caKind (t.line * 64) with
    | .stack n _ => (fireInjection s (bStack n) 6 none none).2
    | _ => s
  if !hostSnoopOk s t.line t.own then sendBis s t.line t.own
  else
    let s := flushWb (useBis s t.line) false t.line
    let r := snoopRegions s t
    let s := engPerform r.1 t r.2
    let s := setFilter s t.line (filter s t.line ||| 2 ^ regionOfCluster t.cluster)
    let t := afterSnoop t r.2 true .data
    let t := { t with stage := .data, shared := t.shared || hostBit s t.line }
    if t.dirty then setTxn (readAlloc s t) t
    else
      let m := locMemory s t
      setTxn m.1 m.2

/-- LOCATION_REQUEST for a host line (R292, R293): the device cache serves it, or asks the host. An O holder that asks for ownership
keeps its own data (R284). -/
def devRequest (s : State) (t : Txn) : State :=
  let s := flushWb s true t.line
  match devLine s t.line with
  | some (slot, l0) =>
    if t.own && !(l0.st = .m || l0.st = .e) then
      if hostPending s t.line then s
      else setTxn (cxlRequest s t.core (if t.own then 1 else 0) t.line 0 [] false) { t with stage := .host }
    else
      let r := snoopRegions s t
      let v := devCheck r.1 (((devLine r.1 t.line).map Prod.snd).getD l0)
      let l := v.1
      let t := { afterSnoop t r.2 true .data with stage := .data }
      let t := { t with shared := t.shared || l.st = .s }
      let s := globalCtr (putDev v.2 slot { l with stamp := devStamp s }) 112 1
      setTxn s (if t.dirty then t else match ownLine s t with
        | some x => { t with data := x.data, poison := x.poison }
        | none => { t with data := l.data, poison := l.poison })
  | none =>
    if hostPending s t.line then s
    else setTxn (globalCtr (cxlRequest s t.core (if t.own then 1 else 0) t.line 0 [] false) 113 1) { t with stage := .host }

def execLocationRequest (line : Nat) (s : State) : Out :=
  match s.txns.find? fun t => decide (t.line = lineNo line) && decide (t.host = lineHost line) && t.stage = .loc with
  | some t =>
    if running s && !lineHeld s t && (t.host || filterRoom s t.line) then done (if t.host then devRequest s t else locRequest s t) else idle s
  | none => idle s

/-! The host's snoops (R294). -/

/-- A snoop arrives: behind those of its line that wait. -/
def snoopArrives (s : State) (k kind : Nat) : State := serveSnoops { s with snps := s.snps ++ [{ line := k, kind }] } k

def execSnpinv (hpa : Nat) (s : State) : Out := if s.ep.linkUp then done (snoopArrives s (hpa / 64) 0) else idle s

def execSnpdata (hpa : Nat) (s : State) : Out := if s.ep.linkUp then done (snoopArrives s (hpa / 64) 1) else idle s

def execSnpcur (hpa : Nat) (s : State) : Out := if s.ep.linkUp then done (snoopArrives s (hpa / 64) 2) else idle s

/-! The data cache. -/

/-- The lowest-numbered invalid unlocked way, else the least recently used unlocked way (R248, R250). -/
def dcVictim (m : SMap CLine) (mask set : Nat) : Nat :=
  let ways := (List.range 4).filter fun w => !mask.testBit w
  match ways.find? fun w => (mapFind? m (4 * set + w)).isNone with
  | some w => 4 * set + w
  | none =>
    (ways.foldl (fun (b : Nat × Nat) w =>
      match mapFind? m (4 * set + w) with
      | some l => if l.stamp < b.2 then (4 * set + w, l.stamp) else b
      | none => b) (4 * set + 3, 2 ^ 64)).1

def lockMaskOf (s : State) (c : Nat) : Nat := ((prog? s c).map fun p => p.lockMask.toNat).getD 0

/-- Put a line into a slot of a data cache, most recently used. -/
def dcPut (s : State) (c slot : Nat) (l : CLine) : State :=
  let k := core s c
  setCore s c { k with stamp := k.stamp + 1, dcache := mapPut k.dcache slot { l with stamp := k.stamp + 1 } }

/-- The slot for a fill and the state with a dirty victim moved to the write-back buffer; none while that is full. -/
def dcRoom (s : State) (t : Txn) : Option (Nat × State) :=
  let c := t.core
  let k := core s c
  match findLine k.dcache t.host t.line with
  | some (slot, _) => some (slot, s)
  | none =>
    let slot := dcVictim k.dcache (lockMaskOf s c) t.set
    match mapFind? k.dcache slot with
    | some v =>
      if isDirty v.st then
        (if k.wb.isSome then none else some (slot, setCore s c { k with wb := some v, dcache := mapDel k.dcache slot }))
      else some (slot, setDcache s c (mapDel k.dcache slot))
    | none => some (slot, s)

/-- The fill of a request is over. -/
def dropFill (s : State) (c : Nat) (t : Txn) : State :=
  setCore s c { core s c with fills := (core s c).fills.filter fun f => !(decide (f.line = t.line) && decide (f.host = t.host)) }

/-- The access that waits for a line of a port that drains has been accepted (R390). -/
def noteAccepted (s : State) (t : Txn) : State :=
  if !t.host && portDrains s (t.line * 64) && (core s t.core).fills.any (fun f => decide (f.line = t.line) && !f.host && !f.prefetch) then
    setCore s t.core { core s t.core with accepted := (core s t.core).accepted ++ [t.line] }
  else s

/-- LINE_FILL_DONE (R248): the whole line has arrived. -/
def execLineFillDone (core : CoreIx) (line : Nat) (s : State) : Out :=
  let c := core.val
  match s.txns.find? fun t => decide (t.core = c) && decide (t.line = lineNo line) && decide (t.host = lineHost line) && t.stage = .data with
  | none => idle s
  | some t =>
    if !running s then idle s
    else match dcRoom s t with
      | none => idle s
      | some (slot, s) =>
        let l : CLine := { line := t.line, host := t.host, st := if t.own then .m else if t.shared then .s else .e,
                           data := if t.noData then List.replicate 64 0 else t.data, poison := !t.noData && t.poison,
                           cc := t.cc, key := t.key, stamp := 0, pres := 0 }
        let s := noteAccepted s t
        let s := dropFill (notePresence (dcPut (dropTxn s t) c slot l) t.host t.line (clusterOf c)) c t
        done (servePosts (if t.host then serveSnoops s t.line else s))

/-- WB_BUFFER_DRAIN (R248, R285). -/
def execWbBufferDrain (core : CoreIx) (s : State) : Out :=
  if running s && (Machine.core s core.val).wb.isSome then done (flushWbOf s core.val) else idle s

/-! Recalls (R289). -/

/-- The copies in a region are invalidated; dirty data is written to the location controller, a host line's to the
device cache. -/
def recallRegion (s : State) (host : Bool) (k rg : Nat) : State :=
  let r := snoopRegion s host k true rg none
  match r.2.data with
  | some (d, p, key, _) => if r.2.dirty then (if host then devWriteBack r.1 k d p else chunkWrite r.1 whoNone k 0 d p key) else r.1
  | none => r.1

/-- DIR_RECALL: a region's directory replaces the line's entry, or (none) the location controller's filter does; the host's copy is
recalled too, and its BIRspI frees the entry (R289, R299). -/
def execDirRecall (region : Option (Fin 8)) (line : Nat) (s : State) : Out :=
  let host := lineHost line
  let k := lineNo line
  if !running s || lineBusy s host k then idle s
  else match region with
    | some rg => done (recallRegion (flushWb s host k) host k rg.val)
    | none =>
      if host then idle s
      else
        let s := (List.range 8).foldl (fun s rg => recallRegion s false k rg) (flushWb s false k)
        let s := setFilter s k (filter s k &&& 256)
        done (if hostBit s k && !(s.bis.any fun b => decide (b.line = k) && b.inv && !b.answered) then sendBis s k true else s)

/-! The host's messages. -/

/-- The stacks' controllers serve CXL.mem (R376, R423, R452). -/
def memServes (s : State) : Bool := s.ep.linkUp && !s.ep.d3hot && decide (phase s ≠ 0)

/-- HOST_MEMRD (R299, R300). A line that a cache supplies goes to the host as it is stored, encrypted under its key (R258, R352). `caches`: the read may leave a copy at the host, for which the line's filter needs an entry (R287). -/
def execHostMemrd (hpa : Nat) (caches : Bool) (s : State) : Out :=
  if stopped s || !memServes s then idle s
  else match hdmDpa s hpa with
    | none => done (send s .unsupported)
    | some (a, bi) =>
      let k := a / 64
      if bi && (lineBusy s false k || (caches && !filterRoom s k)) then idle s
      else
        let r : State × SnoopRes := if bi then snoopAll s false k false else (s, snoopNone)
        let q : (List Byte × Bool) × State := match r.2.data with
          | some (d, p, key, _) => ((chunkCipher r.1 k key d, p), r.1)
          | none => chunkRead r.1 whoNone k 0 64 none
        let s := if bi && caches then setHostBit (useBis q.2 k) k true else q.2
        done (globalCtr (send s (.memData q.1.1 q.1.2)) 77 64)

/-- HOST_MEMWR: 64 bytes (R299, R300). -/
def execHostMemwr (hpa : Nat) (data : List Byte) (poison : Bool) (s : State) : Out :=
  if stopped s || !memServes s then idle s
  else match hdmDpa s hpa with
    | none => done (send s .unsupported)
    | some (a, bi) =>
      let k := a / 64
      if bi && lineBusy s false k then idle s
      else
        let s := if bi then (snoopAll s false k true).1 else s
        done (globalCtr (send (chunkWrite s whoNone k 0 ((data ++ List.replicate 64 0).take 64) poison none) .memCmp) 76 64)

/-- BIRSP (R299): `inv` is BIRspI, which clears the host bit; dirty host data is written first, with the Poison bit it came with
(R367). -/
def execBirsp (line : Nat) (inv : Bool) (data : Option (List Byte × Bool)) (s : State) : Out :=
  match s.bis.find? fun b => decide (b.line = line) && !b.answered with
  | none => idle s
  | some b =>
    if stopped s || (b.inv && !inv) then idle s
    else
      let s := match data with
        | some (d, poison) => chunkWrite s whoNone line 0 ((d ++ List.replicate 64 0).take 64) poison none
        | none => s
      let s := if inv then setHostBit s line false else s
      done (servePosts { s with bis := s.bis.filterMap fun x =>
        if x.line = line && !x.answered then (if inv then none else some { x with answered := true }) else some x })

/-! Answers to the complex's CXL.cache requests (R293, R366). -/

def dropReq1 (s : State) (h : HostReq) : State := { s with hreqs := s.hreqs.erase h }

/-- Requests of data caches that waited for the host go on at the device cache. -/
def resumeHost (s : State) (k : Nat) : State :=
  { s with txns := s.txns.map fun t => if t.host && decide (t.line = k) && t.stage = .host then { t with stage := .loc } else t }

def line64 (d : List Byte) : List Byte := (d ++ List.replicate 64 0).take 64

/-- The data of a RdCurr for a core's volatile or NC load. -/
def ncArrive (s : State) (h : HostReq) (d : List Byte) (p : Bool) : State :=
  setCore s h.core { core s h.core with
    ncLine := some { line := h.line, host := true, st := .s, data := line64 d, poison := p, cc := false, key := none, stamp := 0, pres := 0 } }

/-- The header read of a watch entry returned (R297). -/
def watchArrives (s : State) (h : HostReq) (d : List Byte) : State :=
  let c : BitVec 12 := BitVec.ofNat 12 (h.core - 385)
  if (gctx s c).enabled && decide (headerLine s c = h.line) then headerArrived s c (BitVec.ofNat 64 (ofBytes (d.take 8))) (!(gctx s c).seen) else s

/-- A ring slot's RdCurr returned (R324). -/
def slotArrives (s : State) (h : HostReq) (d : List Byte) (p : Bool) : State :=
  let c : BitVec 12 := BitVec.ofNat 12 (h.core - 385)
  if 385 ≤ h.core ∧ ctxReady s c ∧ fromRing s c ∧ slotLine s c = h.line then setSlot s c (line64 d) p else s

/-- A request is granted. -/
def goArrives (s : State) (h : HostReq) (g : Grant) (d : List Byte) (p : Bool) : State :=
  let s := globalCtr (dropReq1 s h) 74 d.length
  let st := match g with
    | .m => Moesi.m
    | .e => .e
    | _ => .s
  match h.kind with
  | 0 => resumeHost (devInstall s h.line st (line64 d) p) h.line
  | 1 => resumeHost (devInstall s h.line (if st = .s then .e else st) (line64 d) p) h.line
  | 2 => if h.core < 384 then ncArrive s h d p else slotArrives s h d p
  | 3 => match (if h.core = 384 then s.recs.find? fun r => r.sentTo = some h.line else none) with
    | some r => recordGo s r true
    | none => s
  | 7 => watchArrives s h d
  | _ => s

/-- The grant fits the request: RdShared is granted S or E, RdOwn E or M (R293). -/
def grantFits (kind : Nat) (g : Grant) : Bool :=
  match kind with
  | 0 => g = .s || g = .e
  | 7 => g = .s
  | 1 => g = .e || g = .m
  | _ => true

def execCxlGo (hpa : Nat) (grant : Grant) (data : List Byte) (poison : Bool) (s : State) : Out :=
  match s.hreqs.find? fun h => h.line = hpa / 64 with
  | some h =>
    if !stopped s && grantFits h.kind grant && (decide (2 ≤ h.kind) || devRoom s h.line) then
      done (servePosts (serveSnoops (goArrives s h grant data poison) h.line))
    else idle s
  | none => idle s

/-- A data cache's request for a host line failed: its access completes with a poisoned line used once, and allocates nothing (R293). -/
def fillFails (z : List Byte) (s : State) (t : Txn) : State :=
  let hint := (core s t.core).fills.any fun f => decide (f.line = t.line) && f.host && f.prefetch
  let s := dropFill (dropTxn s t) t.core t
  if hint then s
  else setCore s t.core { core s t.core with
    ncLine := some { line := t.line, host := true, st := .s, data := z, poison := true, cc := false, key := none, stamp := 0, pres := 0 } }

/-- The request ends without data: reads complete poisoned, writes are discarded (R293, R366). A poisoned line
that a read receives is used once. -/
def goFails (s : State) (h : HostReq) : State :=
  let f := freeNat (dropReq1 s h)
  let s := f.2
  let z := toBytes 64 f.1
  match h.kind with
  | 0 | 1 =>
    let waiting := s.txns.filter fun t => t.host && decide (t.line = h.line) && t.stage = .host
    if !waiting.isEmpty then waiting.foldl (fillFails z) s
    else if h.kind = 1 then (if h.core < 384 then ncArrive s h z true else s)
    else { s with refused := mapPut s.refused (h.line * 512 + h.core) z }
  | 2 => if h.core < 384 then ncArrive s h z true else slotArrives s h z true
  | 3 => match (if h.core = 384 then s.recs.find? fun r => r.sentTo = some h.line else none) with
    | some r => recordGo s r false
    | none => s
  | _ => s

def execCxlGoErr (hpa : Nat) (s : State) : Out :=
  match s.hreqs.find? fun h => h.line = hpa / 64 with
  | some h => if !stopped s then done (servePosts (serveSnoops (goFails s h) h.line)) else idle s
  | none => idle s

/-- What a completion timeout raises (R365, R366, R411). -/
def timedOut (s : State) : State := raiseFault (raise (signalUncorr s 14) .ep 0x100 3) .ep 2 none none

/-- COMPLETION_TIMEOUT (R366): only reads time out, and not while Completion Timeout Disable is set. Where no read of the line is
outstanding, it is the oldest flush read (R295), whose data is not used. -/
def execCompletionTimeout (hpa : Nat) (s : State) : Out :=
  match s.hreqs.find? fun h => h.line = hpa / 64 && (h.kind = 0 || h.kind = 1 || h.kind = 2 || h.kind = 7) with
  | some h =>
    if !ctoDisable s && !stopped s then done (timedOut (servePosts (serveSnoops (goFails s h) h.line))) else idle s
  | none =>
    match s.ep.flushWait with
    | f :: rest =>
      if flushSent s && !ctoDisable s && !stopped s then
        done (timedOut { s with ep := { s.ep with flushWait := rest, flushed := s.ep.flushed ++ f.task.toList } })
      else idle s
    | [] => idle s

end Sys2Proof.Machine
end

