-- ==== Sys2Proof/Machine/Rows.lean ====
section
/-! DEFINITION. Rows of tables: their element values (R111), their encoding (R135), row-state words (R125), pooling
sums (R118, R119) and the update rules of MUPD (R133, R134). -/

namespace Sys2Proof.Machine

/-! Element values (R111). -/

/-- The values of an affine row's scale and bias. -/
def affinePair (d : List Word) (f : Fmt) (bs : List Byte) : Num × Num :=
  let o := (rowBytes f.width (dDim d) + 3) / 4 * 4
  let n := if dScb d then 2 else 4
  let g := fun k => decodeFloat (if dScb d then fmtFp16 else fmtFp32) (ofBytes ((bs.drop k).take n))
  (g o, g (o + n))

/-- Elements of a row that is not PQ, and NV of a NaN block scale (R61). A NaN that scale × element + bias forms of infinities is
the element's value and sets no NV (log entry 173). -/
def plainVals (d : List Word) (f : Fmt) (cbs : SMap Codebook) (bs : List Byte) : List Num × Nat :=
  let n := dDim d
  let el := fun sc i => decodeEl f cbs sc (elemBits f.width bs i)
  match dRfmt d with
  | 1 =>
    let b := blkElems (dBlk d)
    let e := rowBytes f.width n
    let sc := fun i => scaleNum (dSf d) ((bs.getD (e + i / b) 0).toNat)
    ((List.range n).map fun i => scaledEl (sc i) (el true i), nvIf ((List.range (n / b)).any fun i => sc (i * b) = .nan))
  | 2 =>
    let a := affinePair d f bs
    ((List.range n).map fun i => (numAdd .rne (numMul a.1 (el false i)).1 a.2).1, 0)
  | _ => ((List.range n).map fun i => el false i, 0)

/-- The code of subvector `m` of a PQ row. -/
def pqCode (d : List Word) (bs : List Byte) (m : Nat) : Nat := elemBits (dPqBits d) bs m

/-- Bytes of one centroid, and where centroid `c` of codebook `m` lies. -/
def pqBytes (d : List Word) (f : Fmt) : Nat := rowBytes f.width (dDim d / dPqM d)
def pqCa (d : List Word) (f : Fmt) (m c : Nat) : Nat := dPqCb d + (m * 2 ^ dPqBits d + c) * pqBytes d f

/-! Encoding (R135). -/

/-- Finite values, -0 as +0. -/
def finiteVals (vs : List Num) : List Num :=
  vs.filterMap fun v => match v with
    | .fin n m e => some (if m = 0 then zeroNum else .fin n m e)
    | _ => none

def maxOf (vs : List Num) : Num := (vs.drop 1).foldl (numPick true) (vs.headD zeroNum)
def minOf (vs : List Num) : Num := (vs.drop 1).foldl (numPick false) (vs.headD zeroNum)

/-- Largest element value of an integer format without a block scale. -/
def maxInt (f : Fmt) : Num := .fin false (if f.cls = 1 then 2 ^ (f.width - 1) - 1 else 2 ^ f.width - 1) 0

/-- Codes of the scale and bias that an affine row takes; a codebook row keeps its own (`old`). Their rounding sets no numeric event (log
entry 209). -/
def affineCodes (d : List Word) (f : Fmt) (old : List Byte) (vs : List Num) : Nat × Nat :=
  let sf := if dScb d then fmtFp16 else fmtFp32
  let n := if dScb d then 2 else 4
  let o := (rowBytes f.width (dDim d) + 3) / 4 * 4
  if f.isCb then (ofBytes ((old.drop o).take n), ofBytes ((old.drop (o + n)).take n))
  else
    let fin := finiteVals vs
    if f.cls = 1 then
      let mag := maxOf (fin.map Num.abs)
      (if mag.isZero then 0 else (encodeFloat sf .rup (numDiv mag (maxInt f)).1).1, 0)
    else
      let b := (encodeFloat sf .rdn (minOf fin)).1
      let mag := (numAdd .rne (maxOf fin) (decodeFloat sf b).negate).1
      (if mag.isZero then 0 else (encodeFloat sf .rup (numDiv mag (maxInt f)).1).1, b)

/-- The element of an affine row for a value: a finite value less the bias, over the scale, rounded once. -/
def affineEl (f : Fmt) (cbs : SMap Codebook) (sc bi v : Num) : Nat × Nat :=
  let x := match v, sc, bi with
    | .fin _ _ _, .fin _ m _, .fin _ _ _ => if m = 0 then zeroNum else (numDiv (numAdd .rne v bi.negate).1 sc).1
    | .fin _ _ _, _, _ => zeroNum
    | x, _, _ => x
  encodeEl f cbs false .rne x

/-- A row's payload from its element values, filled with zeros to the stride (R111), and the flags set. -/
def encodeRow (d : List Word) (f : Fmt) (cbs : SMap Codebook) (old : List Byte) (vs : List Num) : List Byte × Nat :=
  let r : List Byte × Nat :=
    match dRfmt d with
    | 1 =>
      let o := readoutRow f cbs .rne (dQmode d) (blkElems (dBlk d)) vs
      (packRow f.width o.1 ++ o.2.1.map (BitVec.ofNat 8), o.2.2)
    | 2 =>
      let sf := if dScb d then fmtFp16 else fmtFp32
      let n := if dScb d then 2 else 4
      let o := (rowBytes f.width (dDim d) + 3) / 4 * 4
      let c := affineCodes d f old vs
      let es := vs.map (affineEl f cbs (decodeFloat sf c.1) (decodeFloat sf c.2))
      let p := packRow f.width (es.map Prod.fst)
      (p ++ List.replicate (o - p.length) 0 ++ toBytes n c.1 ++ toBytes n c.2, es.foldl (fun a q => a ||| q.2) 0)
    | _ =>
      let es := vs.map (encodeEl f cbs false .rne)
      (packRow f.width (es.map Prod.fst), es.foldl (fun a q => a ||| q.2 ||| nanFlag f q.1) 0)
  (r.1 ++ List.replicate (dStride d - r.1.length) 0, r.2)

/-- A write must encode rows of this table and cannot (R135): PQ rows, and block rows with QMODE 0. -/
def encodeBarred (d : List Word) : Bool := decide (dRfmt d = 3) || (decide (dRfmt d = 1) && decide (dQmode d = 0))

/-! Row-state words (R125). -/

def rsLoc (w : Word) : Nat := fld w 63 62
def rsPool (w : Word) : Nat := fld w 50 50
def rsSlot (w : Word) : Nat := fld w 49 24
def rsHot (w : Word) : Bool := flag w 60
def rsVer (w : Word) : Nat := fld w 23 0

/-- BUSY holds the row only under the current lock generation. -/
def rsBusy (s : State) (w : Word) : Bool := flag w 59 && decide (fld w 58 51 = rf s .gfe 0x2018 7 0)

def rsLock (s : State) (w : Word) : Word := setFld (setFld w 59 59 1) 58 51 (rf s .gfe 0x2018 7 0)
def rsUnlock (w : Word) : Word := setFld w 59 59 0

/-- The flip of a commit to a slot (R130). -/
def rsCommit (w : Word) (p i : Nat) : Word :=
  let w1 := setFld (setFld (setFld w 63 62 1) 50 50 p) 49 24 i
  setFld (setFld (setFld w1 59 59 0) 23 0 (rsVer w + 1)) 61 61 (boolNat (!rsHot w))

/-- The CA of a slot's bit word in its pool's bitmap: directly after the pool's last slot, rounded up to 64 bytes. -/
def poolCnt (d : List Word) (p : Nat) : Nat := if p = 0 then dPool0Cnt d else dPool1Cnt d
def bitmapCa (d : List Word) (p : Nat) : Nat := (slotCa d p (poolCnt d p) + 63) / 64 * 64

/-! Update rules (R133, R134). -/

def ruleValid (r : Option (BitVec 128)) : Bool :=
  match r with
  | some v => decide (bitsN v.toNat 71 64 ≤ 2)
  | none => false

def ruleKind (v : BitVec 128) : Nat := bitsN v.toNat 71 64
def ruleF32 (v : BitVec 128) (lo : Nat) : Num := dec32 (BitVec.ofNat 32 (bitsN v.toNat (lo + 31) lo))

/-- √ of a value, with a sticky last bit. -/
def numSqrt (x : Num) : Num :=
  match x with
  | .fin neg m e =>
    if m = 0 then x
    else if neg then .nan
    else
      let e' := if e % 2 = 0 then e else e - 1
      let m' := (if e % 2 = 0 then m else 2 * m) * 2 ^ 128
      let r := isqrt m'
      .fin false (2 * r + (if r * r = m' then 0 else 1)) ((e' - 128) / 2 - 1)
  | .inf neg => if neg then .nan else x
  | .nan => .nan

def f32op (x : Num) : Num := (to32 .rne x).1

/-- Element values after an update with merged gradient `g`, and the optimiser's new state (R134). Its FP32 steps set no numeric event (log
entry 203). -/
def applyRule (v : BitVec 128) (w g : List Num) (opt : Num) : List Num × Num :=
  let g := if v.toNat.testBit 72 then
      let cl := ruleF32 v 96
      g.map fun x => numPick false (numPick true x cl.negate) cl
    else g
  let lr := ruleF32 v 0
  let fma := fun a b c => f32op (numAdd .rne (numMul a b).1 c).1
  match ruleKind v with
  | 0 => (List.zipWith (fun a b => f32op (numAdd .rne a b).1) w g, opt)
  | 1 => (List.zipWith (fun a b => fma lr.negate b a) w g, opt)
  | _ =>
    let a := f32op (numAdd .rne opt (f32op (numDiv (reduceRow 0x31 .rne g) (numOfInt g.length 0)).1)).1
    let den := f32op (numAdd .rne (f32op (numSqrt a)) (ruleF32 v 32)).1
    (List.zipWith (fun x y => fma lr.negate (f32op (numDiv y den).1) x) w g, a)

/-! Pooling (R118, R119). -/

/-- The rows that pool exactly, and those that pool in FP32 order. -/
def poolExact (f : Fmt) : Bool := decide (f.width ≤ 8)
def poolOrdered (n : Nat) : Bool := decide (n ≤ 2)

/-- One row joins a bag exactly: its elements times its weight. -/
def poolAdd (accs : List Acc) (vs : List Num) (wgt : Option (BitVec 32)) : List Acc × Nat :=
  (accs.zip vs).foldl (fun (st : List Acc × Nat) q =>
    let c := match wgt with
      | some w => numMul q.2 (dec32 w)
      | none => (q.2, false)
    let r := contribute q.1 c.1
    (st.1 ++ [r.1], st.2 ||| r.2 ||| nvIf c.2)) ([], 0)

/-- One row joins a bag in FP32 order (R119); its steps set no numeric event (log entry 204). -/
def poolAdd32 (sums : List (BitVec 32)) (vs : List Num) (wgt : Option (BitVec 32)) : List (BitVec 32) :=
  List.zipWith (fun a v =>
    let x := enc32 .rne v
    add32 a (match wgt with
      | some w => mul32 x w
      | none => x)) sums vs

/-- The factor of a mean: 1 ÷ n rounded to FP32 (R118). -/
def meanOf (pmode n : Nat) (v : Num) : Num × Bool :=
  if pmode = 1 ∧ 0 < n then numMul v (f32op (numDiv (numOfInt 1 0) (numOfInt n 0)).1) else (v, false)

/-! Partials of pool units (R123). -/

/-- Trailing zero bits of a nonzero number, up to `n`. -/
def trailing : Nat → Nat → Nat
  | 0, _ => 0
  | n + 1, v => if v % 2 = 0 then trailing n (v / 2) + 1 else 0

def accPlain (a : Acc) : Bool := !(a.nan || a.pinf || a.ninf || a.wov || a.trunc)

/-- The bits below the lowest one that any element has. -/
def partialShift (accs : List Acc) : Nat :=
  accs.foldl (fun m a => if a.value = 0 then m else min m (trailing 224 a.value.toInt.natAbs)) 224

/-- Bytes of an element in the narrowest exact form: 8, 16 or 32. -/
def partialForm (accs : List Acc) : Nat :=
  let sh := partialShift accs
  let fits := fun bits => accs.all fun a => accPlain a && decide (-(2 ^ (bits - 1) : Int) ≤ a.value.toInt / 2 ^ sh) && decide (a.value.toInt / 2 ^ sh < (2 ^ (bits - 1) : Int))
  if fits 64 then 8 else if fits 128 then 16 else 32

def partialBytes (accs : List Acc) (deferred : Nat) : Nat := 16 + accs.length * partialForm accs + 8 * deferred

end Sys2Proof.Machine
end

