-- ==== Sys2Proof/Machine/TongsBase.lean ====
section
/-! DEFINITION. What the Tongs operations share: descriptor fields (R142), scratchpad areas (R115), rows read and
written by row request (R114, R239), lookups (R126), the row-state words and the veneer pools (R125, R128, R130). -/

namespace Sys2Proof.Machine

/-! Operation descriptors (R142). -/

def oSlot (d : List Word) : Nat := fld (wordAt d 0) 55 52
def oSlot2 (d : List Word) : Nat := fld (wordAt d 0) 51 48
def oFmt (d : List Word) : Nat := fld (wordAt d 0) 47 43
def oRnd (d : List Word) : Nat := fld (wordAt d 0) 42 41
def oOxp (d : List Word) : Bool := flag (wordAt d 0) 40
def oIdx64 (d : List Word) : Bool := flag (wordAt d 0) 39
def oWgt (d : List Word) : Bool := flag (wordAt d 0) 38
def oPmode (d : List Word) : Nat := fld (wordAt d 0) 37 36
def oRaw (d : List Word) : Bool := flag (wordAt d 0) 35
def oResume (d : List Word) : Bool := flag (wordAt d 0) 34
def oCount (d : List Word) : Nat := fld (wordAt d 0) 31 0
def oIdx (d : List Word) : Nat := fld (wordAt d 1) 63 32
def oOff (d : List Word) : Nat := fld (wordAt d 1) 31 0
def oWgtA (d : List Word) : Nat := fld (wordAt d 2) 63 32
def oData (d : List Word) : Nat := fld (wordAt d 2) 31 0
def oStride (d : List Word) : Nat := fld (wordAt d 3) 63 32
def oWork (d : List Word) : Nat := fld (wordAt d 3) 31 0
def oWorkRows (d : List Word) : Nat := fld (wordAt d 4) 63 32
def oList (d : List Word) : Nat := fld (wordAt d 4) 31 0
def oUrule (d : List Word) : Nat := fld (wordAt d 5) 63 60
def oCa1 (d : List Word) : Nat := fld (wordAt d 5) 51 0
def oArg2 (d : List Word) : Nat := fld (wordAt d 6) 51 0
def oArg3 (d : List Word) : Nat := fld (wordAt d 7) 51 0

/-- The bits of each word that an operation uses (R142). -/
def oUsed (code : Nat) (wgt : Bool) : List Word :=
  let op := fieldMask 63 56
  let ts := fieldMask 55 52
  let cnt := fieldMask 31 0
  let hi := fieldMask 63 32
  let lo := fieldMask 31 0
  let ca := fieldMask 51 0
  let f := fieldMask 47 43
  let i64 := fieldMask 39 39
  let raw := fieldMask 35 35
  let pm := fieldMask 37 36
  match code with
  | 0x40 => [op ||| ts ||| f ||| fieldMask 42 41 ||| i64 ||| raw ||| cnt, hi, lo, hi, 0, 0, 0, 0]
  | 0x41 => [op ||| ts ||| f ||| fieldMask 42 36 ||| cnt, hi ||| lo, lo ||| (if wgt then hi else 0), hi, 0, 0, 0, 0]
  | 0x42 => [op ||| ts ||| f ||| i64 ||| raw ||| cnt, hi, lo, hi, 0, 0, 0, 0]
  | 0x43 => [op ||| ts ||| f ||| i64 ||| cnt, hi, lo, hi ||| lo, hi, fieldMask 63 60, 0, 0]
  | 0x44 => [op ||| ts ||| f ||| i64 ||| raw ||| cnt, hi, lo, hi, lo, 0, 0, 0]
  | 0x45 => [op ||| ts ||| pm ||| cnt, 0, 0, 0, lo, 0, 0, 0]
  | 0x46 => [op ||| ts ||| i64 ||| pm ||| cnt, hi, 0, 0, 0, 0, 0, 0]
  | 0x47 => [op ||| ts ||| fieldMask 51 48 ||| fieldMask 34 34, 0, 0, 0, 0, ca, ca, ca]
  | 0x48 => [op, 0, lo, 0, 0, ca, ca, ca]
  | 0x49 => [op ||| ts, 0, 0, 0, 0, 0, ca, ca]
  | _ => [op, 0, lo, 0, 0, 0, 0, 0]

/-- Every bit outside the used ones is 0, and fields lie in their ranges (R103, R142). -/
def oOk (code : Nat) (d : List Word) : Bool :=
  ((oUsed code (oWgt d)).zip d).all (fun q => decide (q.2 &&& ~~~q.1 = 0))
    && decide (oPmode d ≤ 1) && (!(oRaw d || oOxp d) || (decide (oFmt d = 0) && decide (oRnd d = 0)))

/-- DESCERR: an operation rejected for its table (R144). -/
def rejectDesc {α : Type} (c : Nat) : M α := rejectAt c 0x260 1

def requireDesc (c : Nat) (ok : Bool) : M Unit := if ok then return () else rejectDesc c

/-- The table of an operation; one that names none is rejected (R142). -/
def needSlot (c : Nat) (p : Prog) (slot : Nat) : M (Nat × List Word) := do
  let s ← get
  match tableOf s p slot with
  | none => rejectDesc c
  | some t => return t

/-- The table of an operation that decodes or encodes its rows (`codes`), checked against the task's entry (R107). -/
def needTable (c : Nat) (p : Prog) (op : EngOp) (slot : Nat) (codes : Bool) : M (Nat × List Word) := do
  let t ← needSlot c p slot
  let f := fmtEntry op.fmts (dFmt t.2)
  require' c 2 (!codes || (fmtUsable f op.cbs && descFmtOk t.2 f))
  return t

def rowFmt (op : EngOp) (d : List Word) : Fmt := fmtEntry op.fmts (dFmt d)

/-! Scratchpad areas (R115). -/

/-- An area whose length the descriptor gives lies in the scratchpad. -/
def areaOk (c off len : Nat) : M Unit :=
  if spadSize < off + len then throw (.exc 4 5 (spadBase c + off) 0) else return ()

/-- Bytes that `n` rows of `len` bytes span at a stride. -/
def span (n stride len : Nat) : Nat := if n = 0 then 0 else (n - 1) * stride + len

def spRead (c : Nat) (ctx : BitVec 12) (off n : Nat) : M Row := do
  if n = 0 then return rowNil
  let t ← operandRow c ctx false off n .r
  let s ← get
  readRow (whoCore s c) t n

/-- A result row, with its poisoned chunks counted (R120). -/
def spWrite (c : Nat) (ctx : BitVec 12) (off : Nat) (r : Row) : M Unit := do
  if r.bytes.isEmpty then return ()
  let t ← operandRow c ctx false off r.bytes.length .w
  let s ← get
  writeRow c (whoCore s c) t r

def spNum (c : Nat) (ctx : BitVec 12) (off n : Nat) : M Nat := do
  let r ← spRead c ctx off n
  return ofBytes r.bytes

/-- Index `i` of an operation's list. -/
def idxAt (c : Nat) (ctx : BitVec 12) (d : List Word) (i : Nat) : M Nat :=
  if oIdx64 d then spNum c ctx (oIdx d + 8 * i) 8 else spNum c ctx (oIdx d + 4 * i) 4

def idxBytes (d : List Word) : Nat := if oIdx64 d then 8 else 4

/-! Counts and events. -/

def tblEvent (c bit : Nat) : M Unit := modify fun s => engEvent s c 0x260 (2 ^ bit)

/-- A default row took a row's place, or a write was not applied (R116, R141): event bit 2 OOR or 3 MISSING. -/
def noteMissing (s : State) (c bit n : Nat) : State :=
  if n = 0 then s
  else ctxCtr (updProg (engEvent s c 0x260 (2 ^ bit)) c fun p => { p with missCnt := satAdd64 p.missCnt n }) (ctxOf s c) 12 n

/-- A poisoned source row was skipped (R120). -/
def notePoisoned (s : State) (c : Nat) : State := countPoison (engEvent s c 0x260 16) c 1

/-- Row requests of one row (R114). -/
def rowReqs (d : List Word) : Nat := (dStride d + 127) / 128 + boolNat (dLive d)

def countReqs (s : State) (c : Nat) (d : List Word) : State := ctxCtr (coreCtr s c 4 (rowReqs d)) (ctxOf s c) 3 (rowReqs d)

def setProgress (s : State) (c : Nat) (op : EngOp) (n : Nat) : State := updOp s c 2 op.ord fun o => { o with progress := n }

/-! Rows by row request (R114, R239): 128 bytes each. -/

/-- What checks and translates an access. -/
abbrev Acc1 := Nat → Nat → Perm → M (List (Target × Nat))

/-- How an agent reaches rows: its accesses, who it is, and what it records of a hole and of the poisoned chunks it writes. -/
structure RowPort where
  acc : Acc1
  who : Who
  hole : Nat → M Unit
  bad : Nat → M Unit

def portRead (q : RowPort) (a n : Nat) : M Row := do
  let ts ← q.acc a n .r
  readPieces q.who ts

/-- Chunk by chunk: what a hole covers is free bytes, poisoned (R21, R238). -/
def portReadParts (q : RowPort) : List (Nat × Nat × Nat) → M Row
  | [] => return rowNil
  | (k, off, n) :: rest => do
    let x ← catchHole (portRead q (k * 64 + off) n) fun ea => do
      q.hole ea
      freeRow n
    let y ← portReadParts q rest
    return x.append y

def reqRead (q : RowPort) : Nat → Nat → Nat → M Row
  | 0, _, _ => return rowNil
  | k + 1, a, n => do
    if n = 0 then return rowNil
    let l := min n 128
    let x ← catchHole (portRead q a l) fun _ => portReadParts q (parts a l)
    let y ← reqRead q k (a + l) (n - l)
    return x.append y

def portWrite (q : RowPort) (perm : Perm) (a : Nat) (r : Row) : M Unit := do
  let ts ← q.acc a r.bytes.length perm
  writePieces q.who ts r
  let s ← get
  q.bad (badPieces s ts r)

/-- Chunk by chunk: what a hole covers is discarded. -/
def portWriteParts (q : RowPort) (perm : Perm) : List (Nat × Nat × Nat) → Row → M Unit
  | [], _ => return ()
  | (k, off, n) :: rest, r => do
    catchHole (portWrite q perm (k * 64 + off) { bytes := r.bytes.take n, pois := r.pois.take n }) q.hole
    portWriteParts q perm rest { bytes := r.bytes.drop n, pois := r.pois.drop n }

def reqWrite (q : RowPort) (perm : Perm) : Nat → Nat → Row → M Unit
  | 0, _, _ => return ()
  | k + 1, a, r => do
    if r.bytes.isEmpty then return ()
    let l := min r.bytes.length 128
    let x : Row := { bytes := r.bytes.take l, pois := r.pois.take l }
    catchHole (portWrite q perm a x) fun _ => portWriteParts q perm (parts a l) x
    reqWrite q perm k (a + l) { bytes := r.bytes.drop l, pois := r.pois.drop l }

/-- A hole met by the operation at the front of a core's Tongs: the fault is recorded for its end (R21). -/
def noteHole (c ea : Nat) : M Unit := do
  let s ← get
  match (prog? s c).bind fun p => nextOp p 2 with
  | some op => noteHoleAt c 2 op ea
  | none => return ()

def holeFault (c : Nat) (op : EngOp) : M Unit := holeFaultAt c 2 op

/-- A task's Tongs; `counts`: the poisoned chunks it writes count (R105, R120, R257). -/
def taskPort (s : State) (c : Nat) (ctx : BitVec 12) (counts : Bool) : RowPort :=
  { acc := engAccess c 2 ctx, who := whoCore s c, hole := noteHole c,
    bad := fun n => modify fun s => if counts then countPoison s c n else s }

/-- Reads and writes of a task's Tongs. -/
def rdRow (c : Nat) (ctx : BitVec 12) (a n : Nat) : M Row := do
  let s ← get
  reqRead (taskPort s c ctx false) (n / 128 + 1) a n

/-- A row is written; all of it is poisoned where the engine has had a parity error (R411). -/
def wrRow (c : Nat) (ctx : BitVec 12) (a : Nat) (r : Row) : M Unit := do
  let s ← get
  let par := (((prog? s c).bind fun p => nextOp p 2).map EngOp.parity).getD false
  reqWrite (taskPort s c ctx true) .w (r.bytes.length / 128 + 1) a { r with pois := r.pois.map fun x => x || par }

/-- An 8-byte word, and its atomic replacement (R128: a compare-and-swap needs A, R239). -/
def rdWord (c : Nat) (ctx : BitVec 12) (a : Nat) : M Word := do
  let r ← rdRow c ctx a 8
  return BitVec.ofNat 64 (ofBytes r.bytes)

def casWord (c : Nat) (ctx : BitVec 12) (a : Nat) (w : Word) : M Unit := do
  let s ← get
  reqWrite (taskPort s c ctx false) .a 1 a (cleanRow (toBytes 8 w.toNat))

/-! Requests to peers (R395, R401, R402). -/

/-- The local row number of a row at its owner (R401). -/
def localRow (d : List Word) (r : Nat) : Nat := r / dStripe d / dNpeers d * dStripe d + r % dStripe d

/-- The table fields that an owner compares (R401). -/
def remoteOf (d : List Word) : RemoteTable :=
  { fmt := BitVec.ofNat 5 (dFmt d), rfmt := BitVec.ofNat 4 (dRfmt d), dim := BitVec.ofNat 16 (dDim d),
    stride := BitVec.ofNat 16 (fld (wordAt d 2) 31 16), blk := BitVec.ofNat 2 (dBlk d), sf := BitVec.ofNat 1 (boolNat (dSf d)),
    scb := BitVec.ofNat 1 (boolNat (dScb d)), pqm := BitVec.ofNat 8 (dPqM d), pqbits := BitVec.ofNat 4 (dPqBits d) }

/-- The same as a request carries them. -/
def remoteBytes (d : List Word) : List Byte :=
  let q := remoteOf d
  toBytes 1 q.fmt.toNat ++ toBytes 1 q.rfmt.toNat ++ toBytes 2 q.dim.toNat ++ toBytes 2 q.stride.toNat ++ toBytes 1 q.blk.toNat
    ++ toBytes 1 q.sf.toNat ++ toBytes 1 q.scb.toNat ++ toBytes 1 q.pqm.toNat ++ toBytes 1 q.pqbits.toNat

/-- Owners of some rows, each once. -/
def ownersOf (d : List Word) (rs : List (Nat × Nat)) : List Nat := (rs.map fun q => ownerOf d q.2).dedup

/-- LOOKUPs for rows (position, row): one message per live owner; rows of dead owners are answered as vanished. -/
def sendLookups (s : State) (c : Nat) (op : EngOp) (d : List Word) (rs : List (Nat × Nat)) : State :=
  (ownersOf d rs).foldl (fun s o =>
    let mine := rs.filter fun q => ownerOf d q.2 = o
    if peerAlive s o then
      let t := s.nextTag
      let s := dtRequest s o c (taskAt s c) 2 (.lookup 0 (mine.map Prod.fst)) dtLOOKUP (dBase d)
        (remoteBytes d ++ mine.flatMap fun q => toBytes 8 (localRow d q.2)) false
      updOp s c 2 op.ord fun x => { x with tags := x.tags ++ [t] }
    else updOp s c 2 op.ord fun x => { x with rows := mine.foldl (fun m q => mapPut m q.1 none) x.rows }) s

/-- A row's bytes with one mark for all. -/
def rowOf (bs : List Byte) (bad : Bool) : Row := { bytes := bs, pois := bs.map fun _ => bad }

/-- A row as it is stored: its payload, with zeros to the end of the stride (R111). -/
def storedRow (d : List Word) (bs : List Byte) (bad : Bool) : Row := rowOf (bs ++ List.replicate (dStride d - bs.length) 0) bad

/-! Lookups (R116, R126, R141). -/

/-- A row as a lookup finds it: the descriptor that decodes it, its payload (none: a row of zeros), and the event bit of
a default row. -/
structure LRow where
  desc : List Word
  row : Option Row
  miss : Option Nat
  deriving DecidableEq, Repr

/-- A location that has vanished: a far-memory port with nothing linked (R141, R386). -/
def vanished (s : State) (a : Nat) : Bool :=
  decide (a < 2 ^ 51) && match caKind (canon a) with
    | .far p _ => !farOnline s p
    | _ => false

/-- The same for a task's row, a translated one included (R141, R307). -/
def goneAt (c : Nat) (ctx : BitVec 12) (a : Nat) : M Bool := do
  let s ← get
  if a < 2 ^ 51 then return vanished s a
  if 2 ^ 52 ≤ a || !flag (wk s (.ctx ctx) 0x8100) 63 then return false
  let e ← xltEnt c 1 ctx a Perm.r.bit a a
  let s ← get
  return !e.host && vanished s (e.target + (a - e.start))

/-- The reader of a lookup: payload bytes at a CA. -/
abbrev Rd := Nat → Nat → M Row

/-- What a lookup uses: whether it decodes the row, its reads, what has vanished, and rows that a forward table keeps at a peer. -/
structure Finder where
  codes : Bool
  rd : Rd
  gone : Nat → M Bool
  peer : List Word → Nat → M (Option LRow)

def defaultRow (rd : Rd) (d : List Word) (f : Fmt) (bit : Nat) : M LRow := do
  if dDef d = 0 then return { desc := d, row := none, miss := some bit }
  let r ← rd (dDef d) (payloadLen d f)
  return { desc := d, row := some r, miss := some bit }

/-- The forward table where it may be followed (R126): its descriptor is read as any row, and checked under R107, against the entry of
the task where rows are decoded or encoded (`codes`). -/
def forwardOf (rd : Rd) (codes : Bool) (fmts : SMap Word) (cbs : SMap Codebook) (d : List Word) : M (Option (List Word)) := do
  if dFwd d = 0 || !inLocal (dFwd d) 128 then return none
  let x ← rd (dFwd d) 128
  let t := wordsOf 16 x.bytes
  let f := fmtEntry fmts (dFmt t)
  return if !x.bad && descOk t && (!codes || (fmtUsable f cbs && descFmtOk t f)) && decide (dFwd t = 0) && decide (dDim t = dDim d) then some t
    else none

/-- Where a row-state word points in a table: none for LOC 0b10 and 0b11. -/
def locOf (d : List Word) (r : Nat) (w : Word) : Option Nat :=
  if rsLoc w = 0 then some (homeCa d r) else if rsLoc w = 1 then some (slotCa d (rsPool w) (rsSlot w)) else none

/-- Where a row's current content is: nowhere (R126), at a CA, or at the peer that a forward table names. -/
inductive RowLoc where
  | lost
  | at (t : List Word) (a : Nat)
  | peer (t : List Word)
  deriving DecidableEq, Repr

/-- The current content of row `r` of a forward table, by its row-state word `w`. -/
def forwardLoc (t : List Word) (r : Nat) (w : Word) : RowLoc :=
  if dPlace t = 4 ∧ rsLoc w = 0 then .peer t
  else match locOf t r w with
    | some a => .at t a
    | none => .lost

/-- The location of a row's current content, by its row-state words (R126; log entries 211, 212). -/
def currentLoc (q : Finder) (fmts : SMap Word) (cbs : SMap Codebook) (d : List Word) (r : Nat) : M RowLoc := do
  let word := fun a => do
    let x ← q.rd a 8
    return BitVec.ofNat 64 (ofBytes x.bytes)
  if !dLive d then return .at d (homeCa d r)
  let w ← word (rowStateCa d r)
  if rsLoc w = 2 then
    match ← forwardOf q.rd q.codes fmts cbs d with
    | none => return .lost
    | some t =>
      if !dLive t then return forwardLoc t r 0
      let w2 ← word (rowStateCa t r)
      return forwardLoc t r w2
  else return match locOf d r w with
    | some a => .at d a
    | none => .lost

/-- A lookup of row `r`. -/
def lookupRow (q : Finder) (fmts : SMap Word) (cbs : SMap Codebook) (d : List Word) (r : Nat) : M LRow := do
  let f := fmtEntry fmts (dFmt d)
  if dRows d ≤ r then defaultRow q.rd d f 2
  else
    match ← currentLoc q fmts cbs d r with
    | .lost => defaultRow q.rd d f 3
    | .peer t =>
      match ← q.peer t r with
      | some x => return x
      | none => defaultRow q.rd d f 3
    | .at t a =>
      if ← q.gone a then defaultRow q.rd d f 3
      else
        let x ← q.rd a (rowLen t (fmtEntry fmts (dFmt t)))
        return { desc := t, row := some x, miss := none }

/-- The row of a forward table at a peer: asked for, and taken from the answer (R126, R401, R402). -/
def peerRow (c : Nat) (op : EngOp) (t : List Word) (r : Nat) : M (Option LRow) := do
  let s ← get
  let asked := fun o : EngOp => (mapFind? o.rows r).isSome || !o.tags.isEmpty
  if !asked (curOp s c 2 op) then modify fun s => sendLookups s c op t [(r, r)]
  let s ← get
  let o := curOp s c 2 op
  match mapFind? o.rows r with
  | none => throw .wait
  | some x =>
    modify fun s => updOp s c 2 op.ord fun o => { o with rows := o.rows.filter fun e => e.1 ≠ r, marks := o.marks.filter (· ≠ r) }
    return x.map fun bs => { desc := t, row := some (rowOf (bs.take (payloadLen t (rowFmt op t))) (o.marks.contains r)), miss := none }

/-! Epoch tags (R126, R127): a lookup is outstanding from its start until its last read has returned. -/

def openLookup (s : State) (c a r : Nat) : State :=
  if s.lookups.any fun l => decide (l.core = c) && decide (l.task = taskAt s c) && decide (l.desc = a) && decide (l.row = r) && !l.fin then s
  else { s with lookups := s.lookups ++ [{ core := c, task := taskAt s c, desc := a, row := r, tag := epoch s, fin := false }] }

/-- The core's lookups that `q` names have finished. -/
def closeLookups (s : State) (c : Nat) (q : Lookup → Bool) : State :=
  { s with lookups := s.lookups.map fun l => if decide (l.core = c) && decide (l.task = taskAt s c) && q l then { l with fin := true } else l }

def taggedLookup (c : Nat) (ctx : BitVec 12) (op : EngOp) (tbl : Nat × List Word) (r : Nat) : M LRow := do
  modify fun s => if r < dRows tbl.2 then openLookup s c tbl.1 r else s
  let x ← lookupRow { codes := !oRaw op.desc, rd := rdRow c ctx, gone := goneAt c ctx, peer := peerRow c op } op.fmts op.cbs tbl.2 r
  modify fun s => closeLookups s c fun l => decide (l.desc = tbl.1) && decide (l.row = r)
  return x

/-- The element values of a looked-up row, NV, and whether anything it used is poisoned (R111, R120). -/
def rowValues (rd : Rd) (fmts : SMap Word) (cbs : SMap Codebook) (x : LRow) : M (List Num × Nat × Bool) := do
  let d := x.desc
  let f := fmtEntry fmts (dFmt d)
  match x.row with
  | none => return (List.replicate (dDim d) zeroNum, 0, false)
  | some r =>
    if dRfmt d = 3 then
      let n := dDim d / dPqM d
      let rec sub : List Nat → M (List Num × Bool)
        | [] => return ([], false)
        | m :: ms => do
          let q ← rd (pqCa d f m (pqCode d r.bytes m)) (pqBytes d f)
          let t ← sub ms
          return (((List.range n).map fun i => decodeEl f cbs false (elemBits f.width q.bytes i)) ++ t.1, q.bad || t.2)
      let v ← sub (List.range (dPqM d))
      return (v.1, 0, r.bad || v.2)
    else
      let v := plainVals d f cbs r.bytes
      return (v.1, v.2, r.bad)

/-! Veneer pools (R130). -/

/-- The free slots of a pool, read from its bitmap. -/
def freeSlots (c : Nat) (ctx : BitVec 12) (d : List Word) (p : Nat) : M (List Nat) := do
  let n := poolCnt d p
  let r ← rdRow c ctx (bitmapCa d p) ((n + 63) / 64 * 8)
  return (List.range n).filter fun i => (ofBytes ((r.bytes.drop (i / 8)).take 1)).testBit (i % 8)

def setSlotBit (c : Nat) (ctx : BitVec 12) (d : List Word) (p i : Nat) (free : Bool) : M Unit := do
  let a := bitmapCa d p + i / 64 * 8
  let w ← rdWord c ctx a
  casWord c ctx a (setFld w (i % 64) (i % 64) (boolNat free))

/-- R131: room for `n` more pending copy-backs or slot releases. -/
def moverRoom (s : State) (c n : Nat) : Bool :=
  decide ((s.copyBacks.filter fun b => b.core = c).length + (s.slotRels.filter fun b => b.core = c).length + n ≤ 4096)

def queueRel (s : State) (c : Nat) (ctx : BitVec 12) (d : List Word) (r p i : Nat) : State :=
  { s with slotRels := s.slotRels ++ [{ core := c, ctx, desc := d, row := r, pool := p, slot := i, epoch := epoch s }] }

def queueBack (s : State) (c : Nat) (ctx : BitVec 12) (d : List Word) (r p i len : Nat) : State :=
  { s with copyBacks := s.copyBacks ++ [{ core := c, ctx, desc := d, row := r, pool := p, slot := i, len, epoch := epoch s }] }

end Sys2Proof.Machine
end

