-- ==== Sys2Proof/Machine/Tongs.lean ====
section
/-! DEFINITION. Tongs lookups (R113-R124): GATHER, POOL with its stack-side and remote shares, SCATTER, and URLD. -/

namespace Sys2Proof.Machine

/-- Items of an operation in order. -/
def runItems (f : Nat → M Unit) : List Nat → M Unit
  | [] => return ()
  | i :: is => do
    f i
    runItems f is

/-- The items an operation has not done. -/
def itemsFrom (p n : Nat) : List Nat := (List.range n).drop p

/-- OFMT of a lookup: a valid entry other than codebook and E8M0 (R117). -/
def outFmtOk (f : Fmt) : Bool := f.valid && !f.isCb && !f.isE8m0

/-- A row a peer returned, as a lookup finds it. -/
def remoteRow (rd : Rd) (op : EngOp) (d : List Word) (pos r : Nat) : M LRow := do
  let f := rowFmt op d
  if dRows d ≤ r then defaultRow rd d f 2
  else match (mapFind? op.rows pos).getD none with
    | some bs => return { desc := d, row := some (rowOf (bs.take (payloadLen d f)) (op.marks.contains pos)), miss := none }
    | none => defaultRow rd d f 3

/-- Lookups of a PLACE 4 table's rows begin: each takes its epoch tag, and the owners are asked (R126, R401). -/
def askRows (s : State) (c : Nat) (op : EngOp) (t : Nat × List Word) (rs : List (Nat × Nat)) : State :=
  sendLookups (rs.foldl (fun s q => openLookup s c t.1 q.2) s) c op t.2 rs

/-- Wait until every peer request of the operation is answered. -/
def awaitTags (c : Nat) (op : EngOp) : M EngOp := do
  let s ← get
  let o := curOp s c 2 op
  if o.tags.isEmpty then return o else throw .wait

/-! GATHER (R117). -/

/-- A gathered row is written out and counted. -/
def putGather (c : Nat) (p : Prog) (op : EngOp) (d : List Word) (i : Nat) (x : LRow) : M Unit := do
  let w := op.desc
  let off := oData w + i * oStride w
  if oRaw w then
    let r := match x.row with
      | some r => rowOf r.bytes r.bad
      | none => cleanRow (List.replicate (rowLen d (rowFmt op d)) 0)
    spWrite c p.ctx off r
  else
    let f := fmtEntry op.fmts (oFmt w)
    let v ← rowValues (rdRow c p.ctx) op.fmts op.cbs x
    let es := v.1.map (encodeEl f op.cbs false (rndOf (oRnd w)))
    spWrite c p.ctx off (packedRow f.width (es.map Prod.fst) (es.map fun _ => v.2.2))
    modify fun s => numEvent s c 2 (es.foldl (fun a q => a ||| q.2 ||| nanFlag f q.1) v.2.1)
  modify fun s =>
    let s := match x.miss with
      | some b => noteMissing s c b 1
      | none => s
    setProgress (countReqs s c d) c op (i + 1)

def gatherBody (c : Nat) (p : Prog) (op : EngOp) : M Unit := do
  let w := op.desc
  require' c 2 (oOk 0x40 w)
  let t ← needTable c p op (oSlot w) (!oRaw w)
  let f := fmtEntry op.fmts (oFmt w)
  require' c 2 (oRaw w || outFmtOk f)
  let len := if oRaw w then rowLen t.2 (rowFmt op t.2) else rowBytes f.width (dDim t.2)
  areaOk c (oIdx w) (idxBytes w * oCount w)
  areaOk c (oData w) (span (oCount w) (oStride w) len)
  if dPlace t.2 = 4 then
    if !op.sent then
      let is ← (List.range (oCount w)).mapM fun i => do let r ← idxAt c p.ctx w i; pure (i, r)
      modify fun s => askRows (updOp s c 2 op.ord fun o => { o with sent := true }) c op t (is.filter fun q => q.2 < dRows t.2)
    let op ← awaitTags c op
    modify fun s => closeLookups s c fun l => l.desc = t.1
    runItems (fun i => do
      let r ← idxAt c p.ctx w i
      let x ← remoteRow (rdRow c p.ctx) op t.2 i r
      putGather c p op t.2 i x) (itemsFrom op.progress (oCount w))
  else
    runItems (fun i => do
      let r ← idxAt c p.ctx w i
      let x ← taggedLookup c p.ctx op t r
      putGather c p op t.2 i x) (itemsFrom op.progress (oCount w))
  holeFault c op

/-! POOL (R118-R124). -/

/-- A bag so far: exact sums, FP32 sums, and what its rows showed. -/
structure Bag where
  accs : List Acc
  sums : List (BitVec 32)
  bad : Bool
  flags : Nat
  oor : Nat
  missing : Nat
  deriving DecidableEq, Repr

def bagEmpty (dim : Nat) : Bag :=
  { accs := List.replicate dim accZero, sums := List.replicate dim 0, bad := false, flags := 0, oor := 0, missing := 0 }

/-- A looked-up row joins a bag. -/
def bagAdd (rd : Rd) (op : EngOp) (exact : Bool) (b : Bag) (wgt : Option (BitVec 32)) (x : LRow) : M Bag := do
  let v ← rowValues rd op.fmts op.cbs x
  let b := { b with bad := b.bad || v.2.2, flags := b.flags ||| v.2.1, oor := b.oor + boolNat (x.miss = some 2),
                    missing := b.missing + boolNat (x.miss = some 3) }
  if exact then
    let q := poolAdd b.accs v.1 wgt
    return { b with accs := q.1, flags := b.flags ||| q.2 }
  else return { b with sums := poolAdd32 b.sums v.1 wgt }

/-- Rows with their weights join a bag in order. -/
def bagRows (rd : Rd) (op : EngOp) (exact : Bool) (look : Nat → Nat → M LRow) : Bag → List (Nat × Nat × Option (BitVec 32)) → M Bag
  | b, [] => return b
  | b, (pos, r, wgt) :: rest => do
    let x ← look pos r
    let b ← bagAdd rd op exact b wgt x
    bagRows rd op exact look b rest

/-- The index and weight entries of a bag (R115). -/
def bagEntries (c : Nat) (ctx : BitVec 12) (w : List Word) (lo hi : Nat) : M (List (Nat × Nat × Option (BitVec 32))) :=
  ((List.range hi).drop lo).mapM fun i => do
    let r ← idxAt c ctx w i
    if oWgt w then
      let v ← spNum c ctx (oWgtA w + 4 * i) 4
      pure (i, r, some (BitVec.ofNat 32 v))
    else pure (i, r, none)

/-- The row that a finished bag writes, with its flags (R118). -/
def bagRow (op : EngOp) (exact : Bool) (n : Nat) (b : Bag) : Row × Nat :=
  let w := op.desc
  if oOxp w then
    ({ bytes := b.accs.flatMap accBytes, pois := List.replicate (32 * b.accs.length) b.bad }, b.accs.foldl (fun a x => a ||| accFlags x) 0)
  else
    let f := fmtEntry op.fmts (oFmt w)
    let vs := if exact then b.accs.map accNum else b.sums.map fun x => (dec32 x, 0)
    let es := vs.map fun v =>
      let m := meanOf (oPmode w) n v.1
      let q := encodeEl f op.cbs false (rndOf (oRnd w)) m.1
      (q.1, v.2 ||| nvIf m.2 ||| q.2 ||| nanFlag f q.1 ||| (if v.1 = .nan then evNANOUT else 0))
    (packedRow f.width (es.map Prod.fst) (es.map fun _ => b.bad), es.foldl (fun a q => a ||| q.2) 0)

/-- A finished bag is written out and counted. -/
def putBag (c : Nat) (p : Prog) (op : EngOp) (d : List Word) (exact : Bool) (i n : Nat) (b : Bag) : M Unit := do
  let r := bagRow op exact n b
  spWrite c p.ctx (oData op.desc + i * oStride op.desc) r.1
  modify fun s =>
    let s := noteMissing (noteMissing (numEvent s c 2 (b.flags ||| r.2)) c 2 b.oor) c 3 b.missing
    let s := (List.range n).foldl (fun s _ => countReqs s c d) s
    updOp s c 2 op.ord fun o => { o with progress := i + 1, sent := false, sums := [], deferred := [], rows := [], marks := [] }

/-- A bag's shares to the pool units (R122), each row's home checked first (R239). -/
def sendShares (c : Nat) (p : Prog) (op : EngOp) (d : List Word) (b : Nat) (es : List (Nat × Nat × Option (BitVec 32))) : M Unit := do
  let s ← get
  let n := payloadLen d (rowFmt op d)
  runItems (fun r => do
    match segCheck s p.ctx (homeCa d r) n .r with
    | .error sub => throw (.exc 4 sub (homeCa d r) 0)
    | .ok _ => return ()) (es.map fun e => e.2.1)
  let stk := fun r => homeCa d r / stackSize
  if es.any fun e => !blkEn s (bStack (stk e.2.1)) then throw .wait
  modify fun s => { updOp s c 2 op.ord (fun o => { o with sent := true }) with
    shares := s.shares ++ ((es.map fun e => stk e.2.1).dedup.map fun k =>
      { core := c, stack := k, bag := b, desc := d, fmts := op.fmts, cbs := op.cbs,
        rows := (es.filter fun e => stk e.2.1 = k).map (fun e => (e.2.1, e.2.2)), mean := false, answer := none }) }
  throw .wait

/-- A partial joins a bag (R75): where the counts would exceed the limit the operation is rejected with LIMIT. -/
def bagJoin (c : Nat) (b : Bag) (accs : List Acc) : M Bag := do
  if (b.accs.zip accs).any fun q => accLimit < q.1.count + q.2.count then rejectNum c 2 6
  return { b with accs := List.zipWith accMerge b.accs accs, flags := accs.foldl (fun a x => a ||| accFlags x) b.flags }

/-- The partials of a bag's shares are added, and the rows the pool units deferred are fetched (R122, R124). -/
def joinShares (c : Nat) (p : Prog) (op : EngOp) (t : Nat × List Word) : Bag → List Share → M Bag
  | b, [] => return b
  | b, sh :: rest => do
    match sh.answer with
    | none => throw .wait
    | some (accs, dfr, bad) =>
      let b ← bagJoin c { b with bad := b.bad || bad } accs
      let rows := dfr.filterMap fun i => (sh.rows[i]?).map fun q => (0, q.1, q.2)
      let b ← bagRows (rdRow c p.ctx) op true (fun _ r => taggedLookup c p.ctx op t r) b rows
      joinShares c p op t b rest

/-- PLOOKUPs of a bag's shares (R402); a dead owner's share is answered as vanished (R141). -/
def sendPlookups (s : State) (c : Nat) (op : EngOp) (d : List Word) (b : Nat) (es : List (Nat × Nat × Option (BitVec 32))) : State :=
  (ownersOf d (es.map fun e => (e.1, e.2.1))).foldl (fun s o =>
    let mine := (es.filter fun e => ownerOf d e.2.1 = o).map fun e => (e.2.1, e.2.2)
    if peerAlive s o then
      let t := s.nextTag
      let s := dtRequest s o c (taskAt s c) 2 (.plookup b mine) dtPLOOKUP (dBase d)
        (remoteBytes d ++ toBytes 1 (boolNat (oWgt op.desc)) ++ mine.flatMap fun q => toBytes 8 (localRow d q.1) ++ match q.2 with
          | some v => toBytes 4 v.toNat
          | none => []) false
      updOp s c 2 op.ord fun x => { x with tags := x.tags ++ [t] }
    else updOp s c 2 op.ord fun x => { x with deferred := x.deferred ++ mine.map Prod.snd }) s

/-- The partials that owners returned join a bag. -/
def bagJoinAll (c : Nat) : Bag → List (Nat × List Acc) → M Bag
  | b, [] => return b
  | b, q :: rest => do
    let b ← bagJoin c b q.2
    bagJoinAll c b rest

/-- One bag of a PLACE 4 table. -/
def remoteBag (c : Nat) (p : Prog) (op0 : EngOp) (tbl : Nat × List Word) (exact : Bool) (i : Nat) (es : List (Nat × Nat × Option (BitVec 32))) : M Bag := do
  let d := tbl.2
  let s ← get
  let inR := es.filter fun e => e.2.1 < dRows d
  if !(curOp s c 2 op0).sent then
    modify fun s =>
      let s := updOp s c 2 op0.ord fun o => { o with sent := true }
      if exact then sendPlookups (inR.foldl (fun s e => openLookup s c tbl.1 e.2.1) s) c op0 d i inR
      else askRows s c op0 tbl (inR.map fun e => (e.1, e.2.1))
  let op ← awaitTags c op0
  modify fun s => closeLookups s c fun l => l.desc = tbl.1
  let rd := rdRow c p.ctx
  if exact then
    let b ← bagJoinAll c { bagEmpty (dDim d) with bad := op.marks.contains i } op.sums
    let b ← bagRows rd op true (fun _ _ => defaultRow rd d (rowFmt op d) 3) b (op.deferred.map fun v => (0, 0, v))
    bagRows rd op true (fun _ _ => defaultRow rd d (rowFmt op d) 2) b (es.filter fun e => dRows d ≤ e.2.1)
  else bagRows rd op false (fun pos r => remoteRow rd op d pos r) (bagEmpty (dDim d)) es

/-- One bag whose rows the pool units sum. -/
def stackBag (c : Nat) (p : Prog) (op : EngOp) (t : Nat × List Word) (i : Nat) (es : List (Nat × Nat × Option (BitVec 32))) : M Bag := do
  let s ← get
  let rd := rdRow c p.ctx
  let inR := es.filter fun e => e.2.1 < dRows t.2
  if !(curOp s c 2 op).sent && !inR.isEmpty then sendShares c p op t.2 i inR
  let s ← get
  let b ← joinShares c p op t (bagEmpty (dDim t.2)) (s.shares.filter fun x => decide (x.core = c) && decide (x.bag = i))
  modify fun s => { s with shares := s.shares.filter fun x => !(decide (x.core = c) && decide (x.bag = i)) }
  bagRows rd op true (fun _ _ => defaultRow rd t.2 (rowFmt op t.2) 2) b (es.filter fun e => dRows t.2 ≤ e.2.1)

def poolBody (c : Nat) (p : Prog) (op : EngOp) : M Unit := do
  let w := op.desc
  require' c 2 (oOk 0x41 w)
  let t ← needTable c p op (oSlot w) true
  let rf := rowFmt op t.2
  let exact := poolExact rf
  require' c 2 ((exact || poolOrdered (dFmt t.2)) && (oOxp w || outFmtOk (fmtEntry op.fmts (oFmt w))) && (exact || !oOxp w))
  requireDesc c (exact || !dSsp t.2)
  let n := oCount w
  let len := if oOxp w then 32 * dDim t.2 else rowBytes (fmtEntry op.fmts (oFmt w)).width (dDim t.2)
  areaOk c (oOff w) (4 * (n + 1))
  areaOk c (oData w) (span n (oStride w) len)
  let offs ← spRead c p.ctx (oOff w) (4 * (n + 1))
  let off := fun i => elemBits 32 offs.bytes i
  require' c 2 ((List.range n).all fun i => decide (off i ≤ off (i + 1)) && decide (off (i + 1) - off i < 2 ^ 24))
  runItems (fun i => do
    let es ← bagEntries c p.ctx w (off i) (off (i + 1))
    let b ← if dPlace t.2 = 4 then remoteBag c p op t exact i es
      else if dSsp t.2 then stackBag c p op t i es
      else bagRows (rdRow c p.ctx) op exact (fun _ r => taggedLookup c p.ctx op t r) (bagEmpty (dDim t.2)) es
    putBag c p op t.2 exact i es.length b) (itemsFrom op.progress n)
  holeFault c op

/-! The pool unit's side (R122, R123). -/

/-- A pool unit's read for a core: no check of its own. -/
def poolRead (c : Nat) (ctx : BitVec 12) (a n : Nat) : M Row := do
  let s ← get
  let acc : Acc1 := fun a n _ => match govSeg s ctx a with
    | some (_, _, t) => return segPieces t 2 a n
    | none => return [({ host := false, io := false, addr := canon a, cc := false, key := none }, n)]
  reqRead { acc, who := { whoCore s c with jig := false }, hole := fun _ => return (), bad := fun _ => return () } (n / 128 + 1) a n

/-- The sum of a share: the partial, the deferred positions, and poison. -/
def shareSum (c : Nat) (ctx : BitVec 12) (sh : Share) (op : EngOp) : List (Nat × Nat × Option (BitVec 32)) → Bag → List Nat → M (Bag × List Nat)
  | [], b, dfr => return (b, dfr)
  | (i, r, wgt) :: rest, b, dfr => do
    let d := sh.desc
    let rd := poolRead c ctx
    let home ← if dLive d then do
        let x ← rd (rowStateCa d r) 8
        pure (decide (rsLoc (BitVec.ofNat 64 (ofBytes x.bytes)) = 0))
      else pure true
    if home then
      let x ← rd (homeCa d r) (payloadLen d (fmtEntry sh.fmts (dFmt d)))
      let b ← bagAdd rd op true b wgt { desc := d, row := some x, miss := none }
      shareSum c ctx sh op rest b dfr
    else shareSum c ctx sh op rest b (dfr ++ [i])

/-- POOL_UNIT_SHARE: the oldest unanswered share of a stack. -/
def execPoolUnitShare (stack : Fin 12) (s : State) : Out :=
  match s.shares.find? fun x => decide (x.stack = stack.val) && x.answer.isNone with
  | none => idle s
  | some sh =>
    match prog? s sh.core with
    | none => idle s
    | some p => match nextOp p 2 with
      | none => idle s
      | some op =>
        if !running s then idle s else
        let es := (List.range sh.rows.length).map fun i => (i, (sh.rows.getD i (0, none)))
        match (shareSum sh.core p.ctx sh op es (bagEmpty (dDim sh.desc)) []).run s with
        | .error _ s' => done s'
        | .ok (b, dfr) s' =>
          let r := fireInjection s' (bStack stack.val) 5 none none
          let s' := globalCtr r.2 (32 + stack.val) (partialBytes b.accs dfr.length)
          let s' := { s' with shares := s'.shares.map fun x => if x = sh then { x with answer := some (b.accs, dfr, b.bad || r.1) } else x }
          done (numEvent s' sh.core 2 (b.flags &&& evNV))

/-! SCATTER (R117, R121). -/

/-- Source row `i` in scratchpad, for rows of table `d`; none where it is poisoned (R120). -/
def sourceRow (c : Nat) (p : Prog) (op : EngOp) (d : List Word) (i : Nat) : M (Option Row) := do
  let w := op.desc
  let n := if oRaw w then rowLen d (rowFmt op d) else rowBytes (fmtEntry op.fmts (oFmt w)).width (dDim d)
  let r ← spRead c p.ctx (oData w + i * oStride w) n
  return if r.bad then none else some r

/-- The stored row that a source row gives, filled to the stride, and the flags set. A codebook row of an affine table keeps the scale and
bias of the row it replaces, `old`, and takes their mark (R120, R135). -/
def encodeSource (op : EngOp) (d : List Word) (old : M Row) (x : Row) : M (Row × Nat) := do
  if oRaw op.desc then return (storedRow d x.bytes false, 0)
  let rf := rowFmt op d
  let o ← if dRfmt d = 2 && rf.isCb then old else pure rowNil
  let q := encodeRow d rf op.cbs o.bytes ((rowEls (fmtEntry op.fmts (oFmt op.desc)) op.cbs false (dDim d) x).map Prod.fst)
  return (rowOf q.1 o.bad, q.2)

/-- The scale and bias of an affine row at a CA, at their place in its payload (R111). -/
def pairRow (rd : Rd) (d : List Word) (f : Fmt) (a : Nat) : M Row := do
  let o := (rowBytes f.width (dDim d) + 3) / 4 * 4
  let x ← rd (a + o) (if dScb d then 4 else 8)
  return { bytes := List.replicate o 0 ++ x.bytes, pois := x.pois }

def scatterLen (op : EngOp) (d : List Word) : Nat :=
  if oRaw op.desc then rowLen d (rowFmt op d) else rowBytes (fmtEntry op.fmts (oFmt op.desc)).width (dDim d)

/-- An UPDATE to the owner of a row (R403); a dead owner's row is counted missing (R141). -/
def sendUpdate (s : State) (c : Nat) (op : EngOp) (d : List Word) (r : Nat) (x : Row) : State :=
  let o := ownerOf d r
  if peerAlive s o then
    let t := s.nextTag
    let s := dtRequest s o c (taskAt s c) 2 .update dtUPDATE (dBase d) (remoteBytes d ++ toBytes 8 (localRow d r) ++ x.bytes) x.bad
    updOp s c 2 op.ord fun x => { x with tags := x.tags ++ [t] }
  else noteMissing s c 3 1

/-- An encoding write that must keep the scale and bias of the row it replaces (R135). -/
def keepsPair (op : EngOp) (d : List Word) : Bool := !oRaw op.desc && decide (dRfmt d = 2) && (rowFmt op d).isCb

/-- The row whose scale and bias a row of a SCATTER keeps: in this package, or as its owner answered. -/
def replacedRow (c : Nat) (p : Prog) (op : EngOp) (d : List Word) (r i : Nat) : M Row := do
  if dPlace d = 4 then
    let s ← get
    let o := curOp s c 2 op
    return rowOf (((mapFind? o.rows i).getD none).getD []) (o.marks.contains i)
  pairRow (rdRow c p.ctx) d (rowFmt op d) (homeCa d r)

def scatterItem (c : Nat) (p : Prog) (op : EngOp) (d : List Word) (i : Nat) : M Unit := do
  let r ← idxAt c p.ctx op.desc i
  let s ← get
  let lost := decide (dPlace d = 4) && keepsPair op d && ((mapFind? (curOp s c 2 op).rows i).getD none).isNone
  if dRows d ≤ r then modify fun s => noteMissing s c 2 1
  else if lost then modify fun s => noteMissing s c 3 1
  else
    match ← sourceRow c p op d i with
    | none => modify fun s => notePoisoned s c
    | some x =>
      let gone ← if dPlace d = 4 then pure false else goneAt c p.ctx (homeCa d r)
      if gone then modify fun s => noteMissing s c 3 1
      else
        let q ← encodeSource op d (replacedRow c p op d r i) x
        if dPlace d ≠ 4 then wrRow c p.ctx (homeCa d r) q.1
        modify fun s =>
          let s := numEvent s c 2 q.2
          if dPlace d = 4 then sendUpdate s c op d r q.1 else s
  modify fun s => setProgress (countReqs s c d) c op (i + 1)

def scatterBody (c : Nat) (p : Prog) (op : EngOp) : M Unit := do
  let w := op.desc
  require' c 2 (oOk 0x42 w)
  let t ← needTable c p op (oSlot w) (!oRaw w)
  requireDesc c (!dLive t.2 && (oRaw w || !encodeBarred t.2))
  require' c 2 (oRaw w || outFmtOk (fmtEntry op.fmts (oFmt w)))
  areaOk c (oIdx w) (idxBytes w * oCount w)
  areaOk c (oData w) (span (oCount w) (oStride w) (scatterLen op t.2))
  if dPlace t.2 = 4 && keepsPair op t.2 then
    if !op.sent then
      let is ← (List.range (oCount w)).mapM fun i => do let r ← idxAt c p.ctx w i; pure (i, r)
      modify fun s => sendLookups (updOp s c 2 op.ord fun o => { o with sent := true }) c op t.2 (is.filter fun q => q.2 < dRows t.2)
    let _ ← awaitTags c op
  let s ← get
  runItems (scatterItem c p op t.2) (itemsFrom (curOp s c 2 op).progress (oCount w))
  let _ ← awaitTags c op
  holeFault c op

/-! URLD (R133). -/

def urldBody (c : Nat) (p : Prog) (op : EngOp) : M Unit := do
  let w := op.desc
  require' c 2 (oOk 0x4A w)
  areaOk c (oData w) 256
  let r ← spRead c p.ctx (oData w) 256
  modify fun s => updProg s c fun p =>
    { p with rules := (List.range 16).foldl (fun m i => mapPut m i (BitVec.ofNat 128 (ofBytes ((r.bytes.drop (16 * i)).take 16)))) p.rules }

def execTngGather (core : CoreIx) (s : State) : Out := engineRun s core.val 2 0x40 (gatherBody core.val)
def execTngPool (core : CoreIx) (s : State) : Out := engineRun s core.val 2 0x41 (poolBody core.val)
def execTngScatter (core : CoreIx) (s : State) : Out := engineRun s core.val 2 0x42 (scatterBody core.val)
def execTngUrld (core : CoreIx) (s : State) : Out := engineRun s core.val 2 0x4A (urldBody core.val)

end Sys2Proof.Machine
end

