-- ==== Sys2Proof/Machine/TongsWrite.lean ====
section
/-! DEFINITION. Tongs writers of LIVE rows (R128-R140): the row lock, veneer slots, STAGE, COMMIT, MUPD, MIGRATE, RESHARD with
its journal, TSWAP, TSCRUB, copy-backs and slot releases. -/

namespace Sys2Proof.Machine

/-! The lock and the slot of the row that an operation writes next. -/

/-- The location of a row has vanished (R141). -/
def rowGone (c : Nat) (ctx : BitVec 12) (d : List Word) (r : Nat) (w : Word) : M Bool :=
  match locOf d r w with
  | some a => goneAt c ctx a
  | none => return true

/-- Where a writer finds row `r`: the table it is in and its row-state word; `none` where a write is not applied (R126, R141).
`follow`: a forwarded row is taken in the forward table (R130), unless that is a peer's (log entry 184). -/
def writerRow (c : Nat) (ctx : BitVec 12) (op : EngOp) (d : List Word) (r : Nat) (follow : Bool) : M (Option (List Word × Word)) := do
  let w ← rdWord c ctx (rowStateCa d r)
  if rsLoc w ≤ 1 then return if ← rowGone c ctx d r w then none else some (d, w)
  if !(follow && rsLoc w = 2) then return none
  match ← forwardOf (rdRow c ctx) (!oRaw op.desc) op.fmts op.cbs d with
  | none => return none
  | some t =>
    if !dLive t || dPlace t = 4 || (!oRaw op.desc && encodeBarred t) || dRows t ≤ r then return none
    let w2 ← rdWord c ctx (rowStateCa t r)
    return if ← rowGone c ctx t r w2 then none else some (t, w2)

/-- Take the lock of a row (R130), or find that the write is not applied (then counted, with no table). A held row
makes the operation wait. -/
def lockRow (c : Nat) (ctx : BitVec 12) (op : EngOp) (d : List Word) (r : Nat) (follow : Bool) : M Unit := do
  match ← writerRow c ctx op d r follow with
  | none =>
    modify fun s => noteMissing (updOp s c 2 op.ord fun o => { o with locked := true, parked := false, ldesc := [], slot := none }) c 3 1
  | some (t, w) =>
    let s ← get
    if rsBusy s w then
      set (updOp s c 2 op.ord fun o => { o with parked := true })
      throw .wait
    casWord c ctx (rowStateCa t r) (rsLock s w)
    modify fun s => updOp s c 2 op.ord fun o =>
      { o with locked := true, parked := false, ldesc := t, lepoch := epoch s, slot := none }

/-- The pool that a row's new content goes to (R130, R136). -/
def slotPool (op : EngOp) (w : Word) : Nat := if opcodeOf op = 0x46 || rsHot w then 1 else 0

/-- Take a free slot, or wait for one with NOSLOT set once (R130). Which free slot is a free value. -/
def allocSlot (c : Nat) (ctx : BitVec 12) (op : EngOp) (t : List Word) (r : Nat) : M Unit := do
  let w ← rdWord c ctx (rowStateCa t r)
  let p := slotPool op w
  let fs ← freeSlots c ctx t p
  if fs.isEmpty then
    modify fun s => if (curOp s c 2 op).noted then s
      else updOp (engEvent s c 0x260 32) c 2 op.ord fun o => { o with noted := true }
    throw .wait
  let s ← get
  let f := freeNat s
  set f.2
  let i := fs.getD (f.1 % fs.length) 0
  setSlotBit c ctx t p i false
  modify fun s => updOp s c 2 op.ord fun o => { o with slot := some i, noted := false }

/-- The operation gives the row up and goes on to the next. -/
def rowDone (s : State) (c : Nat) (op : EngOp) (i : Nat) : State :=
  updOp s c 2 op.ord fun o => { o with locked := false, parked := false, ldesc := [], slot := none, noted := false, progress := i + 1 }

def unlockRow (c : Nat) (ctx : BitVec 12) (t : List Word) (r : Nat) : M Unit := do
  let w ← rdWord c ctx (rowStateCa t r)
  casWord c ctx (rowStateCa t r) (rsUnlock w)

/-- The payload of a locked row (R111). -/
def currentRow (c : Nat) (ctx : BitVec 12) (op : EngOp) (t : List Word) (r : Nat) : M Row := do
  let w ← rdWord c ctx (rowStateCa t r)
  rdRow c ctx ((locOf t r w).getD (homeCa t r)) (rowLen t (rowFmt op t))

/-- The flip of a locked row to `w2`, with the release of the slot it leaves and its copy-back (R128, R130). -/
def flipRow (c : Nat) (ctx : BitVec 12) (op : EngOp) (t : List Word) (r : Nat) (w w2 : Word) (back : Option (Nat × Nat)) : M Unit := do
  let s ← get
  if !moverRoom s c (boolNat (rsLoc w = 1) + boolNat back.isSome) then throw .wait
  casWord c ctx (rowStateCa t r) w2
  modify fun s =>
    let s := if rsLoc w = 1 then queueRel s c ctx t r (rsPool w) (rsSlot w) else s
    match back with
    | some (p, i) => queueBack s c ctx t r p i (rowLen t (rowFmt op t))
    | none => s

/-- A locked row that can no longer be written is given up: its slot is free again, and it is counted (R141). -/
def giveUpRow (c : Nat) (ctx : BitVec 12) (op : EngOp) (t : List Word) (r pool : Nat) : M Unit := do
  let s ← get
  match (curOp s c 2 op).slot with
  | some k => setSlotBit c ctx t pool k true
  | none => pure ()
  unlockRow c ctx t r
  modify fun s => noteMissing (updOp s c 2 op.ord fun o => { o with slot := none, ldesc := [] }) c 3 1

/-- COMMIT's flip to a slot. -/
def commitRow (c : Nat) (ctx : BitVec 12) (op : EngOp) (t : List Word) (r p i : Nat) : M Unit := do
  let w ← rdWord c ctx (rowStateCa t r)
  flipRow c ctx op t r w (rsCommit w p i) (if rsHot w then none else some (p, i))

/-! STAGE (R130). -/

/-- Entry `i` of a STAGE's list: row, pool and slot, locked word; a skipped row's entry is all zeros (its word is not
BUSY). -/
def listEntry (c : Nat) (ctx : BitVec 12) (op : EngOp) (i : Nat) (e : Option (Nat × Nat × Nat × Word)) : M Unit :=
  let bs := match e with
    | some (r, p, k, w) => toBytes 8 r ++ toBytes 8 (place 50 50 p ||| place 49 24 k).toNat ++ toBytes 8 w.toNat
    | none => List.replicate 24 0
  spWrite c ctx (oList op.desc + 24 * i) (cleanRow bs)

/-- The scale and bias of a locked row's current content. -/
def currentPair (c : Nat) (ctx : BitVec 12) (op : EngOp) (t : List Word) (r : Nat) : M Row := do
  let w ← rdWord c ctx (rowStateCa t r)
  pairRow (rdRow c ctx) t (rowFmt op t) ((locOf t r w).getD (homeCa t r))

/-- A row of a STAGE that is not written; `reqs`: it takes the row requests that it would take (R116). -/
def stageSkip (c : Nat) (p : Prog) (op : EngOp) (d : List Word) (reqs : Bool) (i : Nat) : M Unit := do
  listEntry c p.ctx op i none
  modify fun s => rowDone (if reqs then countReqs s c d else s) c op i

def stageItem (c : Nat) (p : Prog) (op : EngOp) (d : List Word) (i : Nat) : M Unit := do
  let r ← idxAt c p.ctx op.desc i
  let s ← get
  let o := curOp s c 2 op
  if dRows d ≤ r then
    modify fun s => noteMissing s c 2 1
    stageSkip c p op d true i
  else
    if !o.locked then
      match ← sourceRow c p op d i with
      | none =>
        modify fun s => notePoisoned s c
        stageSkip c p op d false i
      | some _ => lockRow c p.ctx op d r true
    let s ← get
    let o := curOp s c 2 op
    if o.progress = i + 1 then return ()
    if o.ldesc.isEmpty then stageSkip c p op d true i
    else
      let t := o.ldesc
      if o.slot.isNone then allocSlot c p.ctx op t r
      let s ← get
      let k := (curOp s c 2 op).slot.getD 0
      let w ← rdWord c p.ctx (rowStateCa t r)
      if ← rowGone c p.ctx t r w then
        giveUpRow c p.ctx op t r (slotPool op w)
        stageSkip c p op d true i
      else match ← sourceRow c p op t i with
        | none =>
          setSlotBit c p.ctx t (slotPool op w) k true
          unlockRow c p.ctx t r
          modify fun s => notePoisoned s c
          stageSkip c p op d false i
        | some x =>
          let q ← encodeSource op t (currentPair c p.ctx op t r) x
          wrRow c p.ctx (slotCa t (slotPool op w) k) q.1
          listEntry c p.ctx op i (some (r, slotPool op w, k, w))
          modify fun s => rowDone (numEvent (countReqs s c d) c 2 q.2) c op i

/-- Tables that a writer of row-state words may work on: LIVE, in this package (R403). -/
def liveTable (d : List Word) : Bool := dLive d && decide (dPlace d ≠ 4)

def stageBody (c : Nat) (p : Prog) (op : EngOp) : M Unit := do
  let w := op.desc
  require' c 2 (oOk 0x44 w)
  let t ← needTable c p op (oSlot w) (!oRaw w)
  requireDesc c (liveTable t.2 && (oRaw w || !encodeBarred t.2))
  require' c 2 (oRaw w || (fmtUsable (fmtEntry op.fmts (oFmt w)) op.cbs && !(fmtEntry op.fmts (oFmt w)).isE8m0))
  areaOk c (oIdx w) (idxBytes w * oCount w)
  areaOk c (oData w) (span (oCount w) (oStride w) (scatterLen op t.2))
  areaOk c (oList w) (24 * oCount w)
  runItems (stageItem c p op t.2) (itemsFrom op.progress (oCount w))
  holeFault c op

/-! COMMIT (R130). -/

/-- The table where a list entry's row is locked: its own, or the forward table (log entry 211). -/
def stagedTable (c : Nat) (ctx : BitVec 12) (op : EngOp) (d : List Word) (r : Nat) (lw : Word) : M (Option (List Word)) := do
  let s ← get
  let mine := fun (w : Word) => rsBusy s w && decide (rsVer w = rsVer lw)
  if dRows d ≤ r || !rsBusy s lw then return none
  let w ← rdWord c ctx (rowStateCa d r)
  if rsLoc w ≤ 1 then return if mine w then some d else none
  match ← forwardOf (rdRow c ctx) false op.fmts op.cbs d with
  | some t =>
    if !dLive t || dRows t ≤ r then return none
    let w2 ← rdWord c ctx (rowStateCa t r)
    return if mine w2 then some t else none
  | none => return none

/-- One entry of a COMMIT's list; a row whose location has vanished since its STAGE is given up (R141). -/
def commitItem (c : Nat) (p : Prog) (op : EngOp) (d : List Word) (i : Nat) : M Unit := do
  let e ← spRead c p.ctx (oList op.desc + 24 * i) 24
  let ws := wordsOf 3 e.bytes
  let r := (wordAt ws 0).toNat
  let pl := fld (wordAt ws 1) 50 50
  let k := fld (wordAt ws 1) 49 24
  match ← stagedTable c p.ctx op d r (wordAt ws 2) with
  | none => modify fun s => rowDone s c op i
  | some t =>
    let w ← rdWord c p.ctx (rowStateCa t r)
    let gone ← rowGone c p.ctx t r w
    if oPmode op.desc = 0 && !gone then commitRow c p.ctx op t r pl k
    else
      let s ← get
      if (curOp s c 2 op).slot.isNone then
        setSlotBit c p.ctx t pl k true
        modify fun s => updOp s c 2 op.ord fun o => { o with slot := some k }
      unlockRow c p.ctx t r
      if oPmode op.desc = 0 then modify fun s => noteMissing s c 3 1
    modify fun s => rowDone s c op i

def commitBody (c : Nat) (p : Prog) (op : EngOp) : M Unit := do
  let w := op.desc
  require' c 2 (oOk 0x45 w)
  let t ← needTable c p op (oSlot w) false
  requireDesc c (liveTable t.2)
  areaOk c (oList w) (24 * oCount w)
  runItems (commitItem c p op t.2) (itemsFrom op.progress (oCount w))
  holeFault c op

/-! MUPD (R133, R134). -/

/-- The gradient of record `i`; none where it is poisoned. -/
def gradAt (c : Nat) (p : Prog) (op : EngOp) (dim i : Nat) : M (Option (List (BitVec 32))) := do
  let f := fmtEntry op.fmts (oFmt op.desc)
  let r ← spRead c p.ctx (oData op.desc + i * oStride op.desc) (rowBytes f.width dim)
  return if r.bad then none else some ((rowEls f op.cbs false dim r).map fun v => enc32 .rne v.1)

/-- Merged rows so far, in order of first appearance; and the indices out of range and poisoned records met. -/
structure Merge where
  rows : List (Nat × List (BitVec 32))
  oor : List Nat
  bad : Nat
  deriving DecidableEq, Repr

def mergeAdd (m : Merge) (r : Nat) (g : List (BitVec 32)) : Merge :=
  if m.rows.any fun e => e.1 = r then
    { m with rows := m.rows.map fun e => if e.1 = r then (r, List.zipWith add32 e.2 g) else e }
  else { m with rows := m.rows ++ [(r, g)] }

def mergeAll (c : Nat) (p : Prog) (op : EngOp) (d : List Word) : Merge → List Nat → M Merge
  | m, [] => return m
  | m, i :: is => do
    let r ← idxAt c p.ctx op.desc i
    if dRows d ≤ r then mergeAll c p op d { m with oor := m.oor ++ [r] } is
    else
      match ← gradAt c p op (dDim d) i with
      | none => mergeAll c p op d { m with bad := m.bad + 1 } is
      | some g => mergeAll c p op d (mergeAdd m r g) is

/-- A merged row as the operation keeps it: the row number and its FP32 sums. -/
def mergedBytes (e : Nat × List (BitVec 32)) : List Byte := toBytes 8 e.1 ++ e.2.flatMap fun v => toBytes 4 v.toNat

def mergedRow (bs : List Byte) : Nat × List Num :=
  (ofBytes (bs.take 8), (List.range ((bs.length - 8) / 4)).map fun i => dec32 (BitVec.ofNat 32 (elemBits 32 (bs.drop 8) i)))

/-- The work area after the merge holds free values: the manual gives no layout of it. -/
def fillWork (c : Nat) (p : Prog) (op : EngOp) (n : Nat) : M Unit := do
  let s ← get
  let f := freeNat s
  set f.2
  if n = 0 then return ()
  spWrite c p.ctx (oWork op.desc) (cleanRow (toBytes n f.1))

def mupdMerge (c : Nat) (p : Prog) (op : EngOp) (d : List Word) : M Unit := do
  let m ← mergeAll c p op d { rows := [], oor := [], bad := 0 } (List.range (oCount op.desc))
  if oWorkRows op.desc < m.rows.length then rejectAt c 0x260 6
  fillWork c p op (m.rows.length * (8 + 4 * dDim d))
  modify fun s =>
    let s := noteMissing s c 2 m.oor.length
    let s := m.oor.dedup.foldl (fun s _ => countReqs s c d) s
    let s := (List.range m.bad).foldl (fun s _ => notePoisoned s c) s
    updOp s c 2 op.ord fun o =>
      { o with sent := true, rows := ((List.range m.rows.length).zip m.rows).map fun e => (e.1, some (mergedBytes e.2)) }

/-- The new content, its flags and the optimiser state of a row whose payload is `x` (R134); flags take the NV of a NaN block
scale that was read (R61). -/
def mupdApply (c : Nat) (p : Prog) (op : EngOp) (t : List Word) (r : Nat) (x : Row) (g : List Num) : M ((List Byte × Nat) × Option (BitVec 32)) := do
  let rule := (mapFind? op.rules (oUrule op.desc)).getD 0
  let f := rowFmt op t
  let v ← rowValues (rdRow c p.ctx) op.fmts op.cbs { desc := t, row := some x, miss := none }
  let opt ← if ruleKind rule = 2 then do
      let o ← rdRow c p.ctx (optCa t r) 4
      pure (dec32 (BitVec.ofNat 32 (ofBytes o.bytes)))
    else pure zeroNum
  let q := applyRule rule (v.1.map f32op) g opt
  let e := encodeRow t f op.cbs x.bytes q.1
  return ((e.1, e.2 ||| v.2.1), if ruleKind rule = 2 then some (enc32 .rne q.2) else none)

/-- The row is written; its optimiser state, if any, is still to be written (R134). -/
def mupdWritten (s : State) (c : Nat) (op : EngOp) (t : List Word) (a : Option (BitVec 32)) (fl : Nat) : State :=
  updOp (numEvent s c 2 fl) c 2 op.ord fun o => { o with locked := false, slot := none, noted := false, ldesc := t, deferred := [a] }

/-- One distinct row of a table in this package. -/
def mupdRow (c : Nat) (p : Prog) (op : EngOp) (d : List Word) (r : Nat) (g : List Num) : M Unit := do
  if dLive d then
    let s ← get
    if !(curOp s c 2 op).locked then lockRow c p.ctx op d r true
    let s ← get
    let t := (curOp s c 2 op).ldesc
    if t.isEmpty then return ()
    if (curOp s c 2 op).slot.isNone then allocSlot c p.ctx op t r
    let s ← get
    let k := (curOp s c 2 op).slot.getD 0
    let w ← rdWord c p.ctx (rowStateCa t r)
    if ← rowGone c p.ctx t r w then giveUpRow c p.ctx op t r (slotPool op w)
    else
      let s ← get
      if !moverRoom s c (boolNat (rsLoc w = 1) + boolNat (!rsHot w)) then throw .wait
      let x ← currentRow c p.ctx op t r
      let q ← mupdApply c p op t r x g
      wrRow c p.ctx (slotCa t (slotPool op w) k) (storedRow t q.1.1 x.bad)
      commitRow c p.ctx op t r (slotPool op w) k
      modify fun s => mupdWritten s c op t q.2 q.1.2
  else if ← goneAt c p.ctx (homeCa d r) then modify fun s => noteMissing s c 3 1
  else
    let x ← rdRow c p.ctx (homeCa d r) (rowLen d (rowFmt op d))
    let q ← mupdApply c p op d r x g
    wrRow c p.ctx (homeCa d r) (storedRow d q.1.1 x.bad)
    modify fun s => mupdWritten s c op d q.2 q.1.2

def mupdItem (c : Nat) (p : Prog) (op : EngOp) (d : List Word) (i : Nat) : M Unit := do
  let s ← get
  let o := curOp s c 2 op
  let m := mergedRow ((mapFind? o.rows i).getD none |>.getD [])
  if dPlace d = 4 then
    modify fun s => setProgress (sendUpdate (countReqs s c d) c op d m.1 (cleanRow (toBytes 1 (oUrule op.desc) ++ m.2.flatMap fun v => toBytes 4 (enc32 .rne v).toNat))) c op (i + 1)
  else
    if o.deferred.isEmpty then mupdRow c p op d m.1 m.2
    let s ← get
    let o := curOp s c 2 op
    match o.deferred with
    | some a :: _ => wrRow c p.ctx (optCa o.ldesc m.1) (cleanRow (toBytes 4 a.toNat))
    | _ => pure ()
    modify fun s => rowDone (updOp (countReqs s c d) c 2 op.ord fun o => { o with deferred := [] }) c op i

def mupdBody (c : Nat) (p : Prog) (op : EngOp) : M Unit := do
  let w := op.desc
  require' c 2 (oOk 0x43 w)
  let t ← needTable c p op (oSlot w) true
  let rule := mapFind? op.rules (oUrule w)
  require' c 2 (decide (oFmt w ≤ 1) && (decide (dPlace t.2 = 4) || ruleValid rule))
  requireDesc c (!encodeBarred t.2 && (decide (dPlace t.2 = 4) || decide (ruleKind (rule.getD 0) ≠ 2) || decide (dOpt t.2 ≠ 0)))
  areaOk c (oIdx w) (idxBytes w * oCount w)
  areaOk c (oData w) (span (oCount w) (oStride w) (rowBytes (fmtEntry op.fmts (oFmt w)).width (dDim t.2)))
  areaOk c (oWork w) (oWorkRows w * (8 + 4 * dDim t.2))
  if !op.sent then mupdMerge c p op t.2
  let s ← get
  let o := curOp s c 2 op
  runItems (mupdItem c p op t.2) (itemsFrom o.progress o.rows.length)
  let _ ← awaitTags c op
  holeFault c op

/-! MIGRATE (R136). -/

def migrateWord (w : Word) (out : Bool) (i : Nat) : Word :=
  let w := setFld (setFld (rsUnlock w) 61 61 0) 60 60 (boolNat (!out))
  if out then setFld (setFld (setFld w 63 62 0) 50 50 0) 49 24 0 else setFld (setFld (setFld w 63 62 1) 50 50 1) 49 24 i

def migrateItem (c : Nat) (p : Prog) (op : EngOp) (d : List Word) (i : Nat) : M Unit := do
  let r ← idxAt c p.ctx op.desc i
  let out := decide (oPmode op.desc = 1)
  let skip : M Unit := modify fun s => rowDone s c op i
  if dRows d ≤ r then
    modify fun s => countReqs (noteMissing s c 2 1) c d
    skip
  else
    let s ← get
    let w ← rdWord c p.ctx (rowStateCa d r)
    if !(curOp s c 2 op).locked && (rsLoc w = 2 || (out && !rsHot w)) then skip
    else
      if !(curOp s c 2 op).locked then lockRow c p.ctx op d r false
      let s ← get
      let o := curOp s c 2 op
      if o.ldesc.isEmpty then
        modify fun s => countReqs s c d
        skip
      else
        let w ← rdWord c p.ctx (rowStateCa d r)
        if out && !rsHot w then
          unlockRow c p.ctx d r
          skip
        else if (← rowGone c p.ctx d r w) || (out && (← goneAt c p.ctx (homeCa d r))) then
          giveUpRow c p.ctx op d r 1
          modify fun s => countReqs s c d
          skip
        else
          if out then
            if epochDone s < o.lepoch then throw .wait
          else if o.slot.isNone then allocSlot c p.ctx op d r
          let s ← get
          let k := (curOp s c 2 op).slot.getD 0
          let x ← currentRow c p.ctx op d r
          wrRow c p.ctx (if out then homeCa d r else slotCa d 1 k) (storedRow d x.bytes x.bad)
          flipRow c p.ctx op d r w (migrateWord w out k) none
          modify fun s => rowDone (countReqs s c d) c op i

def migrateBody (c : Nat) (p : Prog) (op : EngOp) : M Unit := do
  let w := op.desc
  require' c 2 (oOk 0x46 w)
  let t ← needTable c p op (oSlot w) false
  requireDesc c (liveTable t.2)
  areaOk c (oIdx w) (idxBytes w * oCount w)
  runItems (migrateItem c p op t.2) (itemsFrom op.progress (oCount w))
  holeFault c op

/-! RESHARD and its journal (R138-R140). -/

/-- The row below which every row has completed its four steps (R139): rows whose slot waits to be freed have not, nor have those that the
operation gave up, which it keeps in its `marks`. -/
def reshardDone (s : State) (c : Nat) (op : EngOp) (d : List Word) (next : Nat) : Nat :=
  (((s.slotRels.filter fun b => decide (b.core = c) && decide (b.desc = d)).map SlotRel.row) ++ (curOp s c 2 op).marks).foldl min next

def journalWords (s : State) (c : Nat) (op : EngOp) (src dst : Nat × List Word) (next : Nat) : List Word :=
  [0x4A524E4C, BitVec.ofNat 64 src.1, BitVec.ofNat 64 dst.1, BitVec.ofNat 64 (oArg2 op.desc), BitVec.ofNat 64 (oArg3 op.desc),
    BitVec.ofNat 64 (reshardDone s c op src.2 next), BitVec.ofNat 64 (rf s .gfe 0x2018 7 0), 0]

def journalWrite (c : Nat) (p : Prog) (op : EngOp) (src dst : Nat × List Word) (next : Nat) : M Unit := do
  let s ← get
  wrRow c p.ctx (oCa1 op.desc) (cleanRow (bytesOfWords (journalWords s c op src dst next)))

/-- The row formats of two tables match, whatever their strides. -/
def sameRows (d t : List Word) : Bool := remoteOf d = { remoteOf t with stride := (remoteOf d).stride }

/-- A row copied into the destination's home: as it stands where the formats match, else re-encoded; a codebook row there keeps
its scale and bias (R135, R138). -/
def reshardRow (c : Nat) (p : Prog) (op : EngOp) (d t : List Word) (r : Nat) (x : Row) : M (Row × Nat) := do
  if sameRows d t then return (storedRow t x.bytes x.bad, 0)
  let v ← rowValues (rdRow c p.ctx) op.fmts op.cbs { desc := d, row := some x, miss := none }
  let f := rowFmt op t
  let old ← if dRfmt t = 2 && f.isCb then pairRow (rdRow c p.ctx) t f (homeCa t r) else pure rowNil
  let q := encodeRow t f op.cbs old.bytes v.1
  return (rowOf q.1 (x.bad || v.2.2 || old.bad), q.2 ||| v.2.1)

def reshardItem (c : Nat) (p : Prog) (op : EngOp) (src dst : Nat × List Word) (i : Nat) : M Unit := do
  let d := src.2
  let t := dst.2
  let r := oArg2 op.desc + i
  let next : M Unit := do
    journalWrite c p op src dst (r + 1)
    modify fun s => rowDone s c op i
  let lost : M Unit := do
    modify fun s => updOp s c 2 op.ord fun o => { o with marks := if o.marks.contains r then o.marks else o.marks ++ [r] }
    next
  if dRows d ≤ r || dRows t ≤ r then
    modify fun s => countReqs (noteMissing s c 2 1) c d
    next
  else
    let s ← get
    let w ← rdWord c p.ctx (rowStateCa d r)
    if !(curOp s c 2 op).locked && rsLoc w = 2 then next
    else
      if !(curOp s c 2 op).locked then lockRow c p.ctx op d r false
      let s ← get
      if (curOp s c 2 op).ldesc.isEmpty then lost
      else
        let w ← rdWord c p.ctx (rowStateCa d r)
        if (← rowGone c p.ctx d r w) || (← goneAt c p.ctx (homeCa t r)) then
          giveUpRow c p.ctx op d r 0
          lost
        else
          let x ← currentRow c p.ctx op d r
          let q ← reshardRow c p op d t r x
          wrRow c p.ctx (homeCa t r) q.1
          casWord c p.ctx (rowStateCa t r) (place 23 0 (rsVer w))
          flipRow c p.ctx op d r w (setFld (rsUnlock w) 63 62 2) none
          modify fun s => rowDone (numEvent (countReqs s c d) c 2 q.2) c op i
          journalWrite c p op src dst (r + 1)

/-- What RESUME finds in the journal: DONE_ROW where words 1 to 4 name this operation (R140). -/
def journalResume (c : Nat) (p : Prog) (op : EngOp) (src dst : Nat × List Word) : M (Option Nat) := do
  let s ← get
  let b ← rdRow c p.ctx (oCa1 op.desc) 64
  let ws := wordsOf 8 b.bytes
  let exp := journalWords s c op src dst 0
  return if (ws.drop 1).take 4 = (exp.drop 1).take 4 && !b.bad then some (wordAt ws 5).toNat else none

def reshardBody (c : Nat) (p : Prog) (op : EngOp) : M Unit := do
  let w := op.desc
  require' c 2 (oOk 0x47 w && decide (canon (oCa1 w) + 64 ≤ 12 * stackSize))
  let src ← needSlot c p (oSlot w)
  let dst ← needSlot c p (oSlot2 w)
  let same := sameRows src.2 dst.2
  let _ ← needTable c p op (oSlot w) (!same)
  let _ ← needTable c p op (oSlot2 w) (!same)
  requireDesc c (liveTable src.2 && liveTable dst.2 && decide (dFwd src.2 = dst.1) && decide (dFwd dst.2 = 0)
    && decide (dDim src.2 = dDim dst.2) && (same || !encodeBarred dst.2))
  if !op.sent then
    let from' ← if oResume w then journalResume c p op src dst else pure (some (oArg2 w))
    match from' with
    | none => rejectDesc c
    | some f =>
      modify fun s => updOp s c 2 op.ord fun o => { o with sent := true, progress := f - oArg2 w }
  let s ← get
  runItems (reshardItem c p op src dst) (itemsFrom (curOp s c 2 op).progress (oArg3 w - oArg2 w))
  let s ← get
  if s.slotRels.any fun b => decide (b.core = c) && decide (b.desc = src.2) then throw .wait
  journalWrite c p op src dst (max (oArg2 w) (oArg3 w))
  holeFault c op

/-! TSWAP (R137) and TSCRUB (R131, R132). -/

/-- Does the handle point at the expected descriptor? -/
def swapMatches (s : State) (h e : Nat) : Bool :=
  decide (h % 8 = 0) && inLocal h 8 && !isHole s (canon h) && decide (e % 128 = 0) && inLocal e 128 &&
    (let r := (gfeRead s whoNone (canon h) 8 none).1
     !r.2 && decide (fld (BitVec.ofNat 64 (ofBytes r.1)) 51 7 * 128 = e))

/-- The swap itself: the handle names the new descriptor, the old one is RETIRED, and R110 applies. -/
def swapHandle (s : State) (h e n : Nat) : State :=
  let s := gfeWrite s (canon h) (toBytes 8 (n / 128 * 128))
  let r := gfeRead s whoNone (canon (e + 8)) 8 none
  let s := writeDescWord1 r.2 e (setFld (BitVec.ofNat 64 (ofBytes r.1.1)) 63 63 1)
  (drainDesc s e).getD s

def tswapBody (c : Nat) (p : Prog) (op : EngOp) : M Unit := do
  let w := op.desc
  require' c 2 (oOk 0x48 w)
  areaOk c (oData w) 8
  let s ← get
  let lines := (if inLocal (oCa1 w) 8 then parts (canon (oCa1 w)) 8 else []) ++ (if inLocal (oArg2 w) 128 then parts (canon (oArg2 w)) 128 else [])
  if lines.any fun q => !gfeReady s (q.1 * 64) 64 then
    set (lines.foldl (fun s q => gfeSnoop s (q.1 * 64) 64) s)
    throw .wait
  let s ← get
  requireDesc c (match (readDesc s (oArg2 w)).1 with
    | some d => decide (dPlace d ≠ 4)
    | none => true)
  let ok := swapMatches s (oCa1 w) (oArg2 w)
  spWrite c p.ctx (oData w) (cleanRow (toBytes 8 (boolNat (!ok))))
  modify fun s => if ok then swapHandle s (oCa1 w) (oArg2 w) (oArg3 w) else engEvent s c 0x260 128

def tscrubItem (c : Nat) (p : Prog) (op : EngOp) (d : List Word) (i : Nat) : M Unit := do
  let r := oArg2 op.desc + i
  if r < dRows d then
    let w ← rdWord c p.ctx (rowStateCa d r)
    let s ← get
    if flag w 59 && !rsBusy s w then casWord c p.ctx (rowStateCa d r) (rsUnlock w)
    if rsLoc w = 1 && flag w 61 then
      if !moverRoom s c 1 then throw .wait
      modify fun s => queueBack s c p.ctx d r (rsPool w) (rsSlot w) (rowLen d (rowFmt op d))
  modify fun s => rowDone s c op i

def tscrubBody (c : Nat) (p : Prog) (op : EngOp) : M Unit := do
  let w := op.desc
  require' c 2 (oOk 0x49 w)
  let t ← needTable c p op (oSlot w) false
  requireDesc c (liveTable t.2)
  runItems (tscrubItem c p op t.2) (itemsFrom op.progress (oArg3 w))
  holeFault c op

/-! The commands. -/

def execTngMupd (core : CoreIx) (s : State) : Out := engineRun s core.val 2 0x43 (mupdBody core.val)
def execTngStage (core : CoreIx) (s : State) : Out := engineRun s core.val 2 0x44 (stageBody core.val)
def execTngCommit (core : CoreIx) (s : State) : Out := engineRun s core.val 2 0x45 (commitBody core.val)
def execTngMigrate (core : CoreIx) (s : State) : Out := engineRun s core.val 2 0x46 (migrateBody core.val)
def execTngReshard (core : CoreIx) (s : State) : Out := engineRun s core.val 2 0x47 (reshardBody core.val)
def execTngTswap (core : CoreIx) (s : State) : Out := engineRun s core.val 2 0x48 (tswapBody core.val)
def execTngTscrub (core : CoreIx) (s : State) : Out := engineRun s core.val 2 0x49 (tscrubBody core.val)

/-- What an operation's own attempt leaves: it has not run to its end. -/
def writerEnd (c : Nat) (op : EngOp) : EStateM.Result Stop State Unit → State
  | .ok _ s => s
  | .error .wait s => s
  | .error .park s => s
  | .error (.abort code) s => regionBreak s c 2 op code
  | .error (.exc ecode sub ea _) s =>
    engineFault s c { eng := 2, opcode := opcodeOf op, ecode, sub, eaddr := ea, detail := op.ord % 2 ^ 32 }

/-- A command that continues the writer at the front of a core's Tongs, where it waits for what `need` says. -/
def writerRun (s : State) (c : Nat) (need : EngOp → Bool) (body : Prog → EngOp → List Word → M Unit) : Out :=
  if !engineUp s c 2 then idle s
  else match prog? s c with
    | none => idle s
    | some p => match nextOp p 2 with
      | none => idle s
      | some op =>
        match tableOf s p (oSlot op.desc) with
        | none => idle s
        | some t => if need op then done (writerEnd c op ((body p op t.2).run s)) else idle s

/-- The row that a waiting writer works on. -/
def writerIndex (c : Nat) (p : Prog) (op : EngOp) : M Nat :=
  if opcodeOf op = 0x47 then return oArg2 op.desc + op.progress
  else if opcodeOf op = 0x43 then return (mergedRow ((mapFind? op.rows op.progress).getD none |>.getD [])).1
  else idxAt c p.ctx op.desc op.progress

/-- ROW_LOCK_ACQUIRE. -/
def execRowLockAcquire (core : CoreIx) (s : State) : Out :=
  writerRun s core.val (fun o => o.parked && !o.locked) fun p op d => do
    let r ← writerIndex core.val p op
    lockRow core.val p.ctx op d r (opcodeOf op = 0x43 || opcodeOf op = 0x44)

/-- VENEER_SLOT_ALLOC. -/
def execVeneerSlotAlloc (core : CoreIx) (s : State) : Out :=
  writerRun s core.val (fun o => o.noted && o.locked && o.slot.isNone && !o.ldesc.isEmpty) fun p op _ => do
    let r ← writerIndex core.val p op
    allocSlot core.val p.ctx op op.ldesc r

/-! Copy-backs and slot releases (R128, R130, R131): work of the Tongs, not of a task. -/

/-- A mover's access fault is recorded by its Tongs (R21, R186), for the task there where it is of the entry's context (log entry
213). -/
def moverFault (s : State) (c : Nat) (ctx : BitVec 12) (ecode sub ea : Nat) : State :=
  match prog? s c with
  | some p => if p.ctx = ctx then engineFault s c { eng := 2, opcode := 0, ecode, sub, eaddr := ea, detail := 0 } else s
  | none => s

/-- How a mover reaches rows: what a hole covers reads poisoned, a write there is discarded, and the fault is recorded (R21). -/
def moverPort (s : State) (c : Nat) (ctx : BitVec 12) : RowPort :=
  { acc := access c 1 ctx, who := { whoCore s c with ctx := some ctx, jig := false },
    hole := fun ea => modify fun s => moverFault s c ctx 4 4 ea, bad := fun _ => return () }

def moverRead (c : Nat) (ctx : BitVec 12) (a n : Nat) : M Row := do
  let s ← get
  reqRead (moverPort s c ctx) (n / 128 + 1) a n

def moverWrite (c : Nat) (ctx : BitVec 12) (perm : Perm) (a : Nat) (r : Row) : M Unit := do
  let s ← get
  reqWrite (moverPort s c ctx) perm (r.bytes.length / 128 + 1) a r

def moverWord (c : Nat) (ctx : BitVec 12) (a : Nat) : M Word := do
  let r ← moverRead c ctx a 8
  return BitVec.ofNat 64 (ofBytes r.bytes)

def moverCas (c : Nat) (ctx : BitVec 12) (a : Nat) (w : Word) : M Unit := moverWrite c ctx .a a (cleanRow (toBytes 8 w.toNat))

def dropBack (s : State) (b : CopyBack) : State := { s with copyBacks := s.copyBacks.erase b }

/-- A copy-back whose home cannot be reached is dropped (R141). -/
def lostBack (s : State) (b : CopyBack) : State := engEvent (dropBack s b) b.core 0x260 1

def copyBackBody (b : CopyBack) : M Unit := do
  let c := b.core
  let w ← moverWord c b.ctx (rowStateCa b.desc b.row)
  if !(rsLoc w = 1 && rsPool w = b.pool && rsSlot w = b.slot) then modify fun s => dropBack s b
  else
    let s ← get
    if vanished s (homeCa b.desc b.row) then set (lostBack s b)
    else
      let x ← moverRead c b.ctx (slotCa b.desc b.pool b.slot) b.len
      moverWrite c b.ctx .w (homeCa b.desc b.row) (storedRow b.desc x.bytes x.bad)
      moverCas c b.ctx (rowStateCa b.desc b.row) (setFld (setFld w 63 62 0) 61 61 0)
      modify fun s => queueRel (dropBack s b) c b.ctx b.desc b.row b.pool b.slot

/-- Tongs of a core waits for a translation: its agent performs no later access (R304). -/
def tongsWaits (s : State) (c : Nat) : Bool :=
  (cluster s (clusterOf c)).trk.any fun t => isOpen t && t.waiters.any fun w => decide (w.core = c) && decide (w.agent = 1)

/-- A mover of a core can work: the clocks run, the core has power, and its Tongs waits for no translation. -/
def moverUp (s : State) (c : Nat) : Bool := running s && (core s c).power = .c0 && !tongsWaits s c

def execCopyBack (core : CoreIx) (entry : Nat) (s : State) : Out :=
  match (s.copyBacks.filter fun b => b.core = core.val)[entry]? with
  | some b =>
    if moverUp s core.val && decide (b.epoch ≤ epochDone s) then
      match (copyBackBody b).run s with
      | .ok _ s' => done s'
      | .error (.exc ecode sub ea _) s' => done (lostBack (moverFault s' core.val b.ctx ecode sub ea) b)
      | .error _ s' => done s'
    else idle s
  | none => idle s

def slotFreeBody (b : SlotRel) : M Unit := do
  let a := bitmapCa b.desc b.pool + b.slot / 64 * 8
  let w ← moverWord b.core b.ctx a
  moverCas b.core b.ctx a (setFld w (b.slot % 64) (b.slot % 64) 1)

def execVeneerSlotFree (core : CoreIx) (entry : Nat) (s : State) : Out :=
  match (s.slotRels.filter fun b => b.core = core.val)[entry]? with
  | some b =>
    if moverUp s core.val && decide (b.epoch ≤ epochDone s) then
      match (slotFreeBody b).run s with
      | .ok _ s' => done { s' with slotRels := s'.slotRels.erase b }
      | .error (.exc ecode sub ea _) s' => done { moverFault s' core.val b.ctx ecode sub ea with slotRels := s'.slotRels.erase b }
      | .error _ s' => done s'
    else idle s
  | none => idle s

end Sys2Proof.Machine
end

