-- ==== Sys2Proof/Machine/Xfr.lean ====
section
/-! DEFINITION. The transfer engines (R187-R189, R205): COPY, FILL, PCOPY and NOTE, moved by the beats of R205's table. -/

namespace Sys2Proof.Machine

/-! Scopes (R262): does the instance of scope `sc` that contains core `a` contain core `b`? -/

def scopeHolds (sc a b : Nat) : Bool :=
  decide (b < Config.coreCount) && (match sc with
    | 0 => decide (a = b)
    | 1 => decide (clusterOf a = clusterOf b)
    | 2 => decide (regionOf a = regionOf b)
    | 3 => decide (dieOf a = dieOf b)
    | _ => true)

/-! The descriptor (R187). -/

def xDims (d : List Word) : Nat := fld (wordAt d 0) 29 28
def xPside (d : List Word) : Bool := flag (wordAt d 0) 30
def xPkg (d : List Word) : Nat := fld (wordAt d 0) 38 31
def xSrc (d : List Word) : Nat := fld (wordAt d 1) 51 0
def xDst (d : List Word) : Nat := fld (wordAt d 2) 51 0
def xLen (d : List Word) : Nat := fld (wordAt d 3) 63 32
def xCnt1 (d : List Word) : Nat := fld (wordAt d 3) 31 16
def xCnt2 (d : List Word) : Nat := fld (wordAt d 3) 15 0
def xSs1 (d : List Word) : Int := signedOf 32 (fld (wordAt d 4) 63 32)
def xDs1 (d : List Word) : Int := signedOf 32 (fld (wordAt d 4) 31 0)
def xSs2 (d : List Word) : Int := signedOf 32 (fld (wordAt d 5) 63 32)
def xDs2 (d : List Word) : Int := signedOf 32 (fld (wordAt d 5) 31 0)

/-- The descriptor's fields suit the operation; those that the operation or DIMS leaves unused are 0 (R187). -/
def xfrOk (c code : Nat) (d : List Word) : Bool :=
  let w0 := wordAt d 0
  let nen := flag w0 55
  decide (fld w0 27 0 = 0) && decide (fld (wordAt d 1) 63 52 = 0) && decide (fld (wordAt d 2) 63 52 = 0) && decide (wordAt d 6 = 0)
    && (code = 0x82 || (decide (xPkg d = 0) && !xPside d))
    && (if nen then decide (fld w0 54 52 ≤ 4) && scopeHolds (fld w0 54 52) c (fld w0 51 43) else decide (fld w0 54 39 = 0))
    && (if code = 0x83 then decide (fld w0 29 28 = 0) && (d.drop 1).all (fun w => decide (w = 0))
        else
          decide (xDims d ≠ 3) && decide (1 ≤ xLen d)
            && (if xDims d = 0 then decide (xCnt1 d = 0) else decide (1 ≤ xCnt1 d))
            && (if xDims d = 2 then decide (1 ≤ xCnt2 d) else decide (xCnt2 d = 0))
            && (decide (xDims d ≠ 0) || decide (wordAt d 4 = 0)) && (decide (xDims d = 2) || decide (wordAt d 5 = 0))
            && (if code = 0x81 then decide (wordAt d 1 = 0) && decide (fld (wordAt d 4) 63 32 = 0) && decide (fld (wordAt d 5) 63 32 = 0)
                else decide (wordAt d 7 = 0)))

/-- Rows of the operation, and the CA of row `i` on a side, in loop order (R188), modulo 2^64. -/
def xRows (d : List Word) : Nat := max (xCnt2 d) 1 * max (xCnt1 d) 1

def xRowCa (d : List Word) (base : Nat) (s1 s2 : Int) (i : Nat) : Nat :=
  let n1 := max (xCnt1 d) 1
  unsignedOf 64 ((base : Int) + (i / n1 : Nat) * s2 + (i % n1 : Nat) * s1)

def xSrcCa (d : List Word) (i : Nat) : Nat := xRowCa d (xSrc d) (xSs1 d) (xSs2 d) i
def xDstCa (d : List Word) (i : Nat) : Nat := xRowCa d (xDst d) (xDs1 d) (xDs2 d) i

/-! Beats. -/

def isMirror (a : Nat) : Bool :=
  match caKind (canon a) with
  | .mirror _ => true
  | _ => false

/-- An access's check and translation; the mirror is no XFR address (R187), and in a region it is not pinned (R204). -/
def xfrAccess (c e : Nat) (ctx : BitVec 12) (a n : Nat) (p : Perm) : M (List (Target × Nat)) := do
  engPinned c e a n
  if 2 ^ 52 ≤ a then throw (.exc 4 6 (a % 2 ^ 52) 0)
  else if a < 2 ^ 51 && (isMirror a || isMirror (a + n - 1)) then throw (.exc 4 6 a 0)
  else engAccess c e ctx a n p

def xfrWho (s : State) (c : Nat) : Who := whoCore s c

/-- R205: the bytes of a beat, by the class of the transfer; the table's classes hold in queue mode too (log entry 169). -/
def ownCore (c a : Nat) : Bool :=
  decide (a < 2 ^ 51) && (match caKind (canon a) with
    | .spad k _ => decide (k = c)
    | .drawer k _ => decide (k = c)
    | _ => false)

def beatSize (c src dst : Nat) : Nat := if ownCore c src && ownCore c dst then 256 else 64

def copyBeat (c : Nat) (d : List Word) : Nat := beatSize c (xSrc d) (xDst d)
def fillBeat (c : Nat) (d : List Word) : Nat := beatSize c (spadBase c) (xDst d)

/-- One checked access is read; on a hole it goes on as the hole gives, chunk by chunk (R21, R238). -/
def xfrGet (c e : Nat) (ctx : BitVec 12) (a n : Nat) : M Row := do
  let ts ← xfrAccess c e ctx a n .r
  let s ← get
  readPieces (xfrWho s c) ts

def xfrGetParts (c e : Nat) (ctx : BitVec 12) (op : EngOp) : List (Nat × Nat × Nat) → M Row
  | [] => return rowNil
  | (k, off, n) :: rest => do
    let x ← catchHole (xfrGet c e ctx (k * 64 + off) n) fun ea => do
      noteHoleAt c e op ea
      freeRow n
    let y ← xfrGetParts c e ctx op rest
    return x.append y

/-- A row read beat by beat: beats of `B` bytes from the row's first byte (R205), each checked as one access (R239). -/
def xfrRead (c e : Nat) (ctx : BitVec 12) (op : EngOp) (B : Nat) : Nat → Nat → Nat → M Row
  | 0, _, _ => return rowNil
  | k + 1, a, n => do
    if n = 0 then return rowNil
    let l := min n B
    let x ← catchHole (xfrGet c e ctx a l) fun _ => xfrGetParts c e ctx op (parts a l)
    let y ← xfrRead c e ctx op B k (a + l) (n - l)
    return x.append y

/-- One checked access is written, and its bytes and poisoned chunks are counted (R105, R440). -/
def xfrPut (c e : Nat) (ctx : BitVec 12) (a : Nat) (r : Row) : M Unit := do
  let ts ← xfrAccess c e ctx a r.bytes.length .w
  let s ← get
  writePieces (xfrWho s c) ts r
  modify fun s => coreCtr (countPoison s c (badPieces s ts r)) c (e + 2) r.bytes.length

def xfrPutParts (c e : Nat) (ctx : BitVec 12) (op : EngOp) : List (Nat × Nat × Nat) → Row → M Unit
  | [], _ => return ()
  | (k, off, n) :: rest, r => do
    catchHole (xfrPut c e ctx (k * 64 + off) { bytes := r.bytes.take n, pois := r.pois.take n }) fun ea => noteHoleAt c e op ea
    xfrPutParts c e ctx op rest { bytes := r.bytes.drop n, pois := r.pois.drop n }

/-- One beat of a row is written; on a hole it is discarded, chunk by chunk (R21). -/
def xfrBeat (c e : Nat) (ctx : BitVec 12) (op : EngOp) (a : Nat) (r : Row) : M Unit :=
  catchHole (xfrPut c e ctx a r) fun _ => xfrPutParts c e ctx op (parts a r.bytes.length) r

/-- The state of an operation's buffered row: its bytes and marks, from byte `lepoch` on still to be written. -/
def bufferRow (s : State) (c e : Nat) (op : EngOp) (r : Row) : State :=
  updOp s c e op.ord fun o => { o with sent := true, lepoch := 0,
                                       rows := [(0, some r.bytes), (1, some (r.pois.map fun b => if b then 1 else 0))] }

def bufferedRow (op : EngOp) : Row :=
  let g := fun k => (mapFind? op.rows k).getD none |>.getD []
  { bytes := g 0, pois := (g 1).map fun b => decide (b ≠ 0) }

/-- Write what remains of the buffered row at `a`. -/
def xfrDrain (c e : Nat) (ctx : BitVec 12) (op : EngOp) (B a : Nat) (r : Row) : Nat → Nat → M Unit
  | 0, _ => return ()
  | k + 1, done => do
    if r.bytes.length ≤ done then return ()
    let l := min (r.bytes.length - done) B
    xfrBeat c e ctx op (a + done) { bytes := (r.bytes.drop done).take l, pois := (r.pois.drop done).take l }
    modify fun s => updOp s c e op.ord fun o => { o with lepoch := done + l }
    xfrDrain c e ctx op B a r k (done + l)

def xfrRowDone (s : State) (c e : Nat) (op : EngOp) (i : Nat) : State :=
  updOp s c e op.ord fun o => { o with sent := false, noted := false, lepoch := 0, rows := [], progress := i + 1 }

/-- Rows in loop order: each read whole, then written whole; poisoned after a parity error of the engine (R411). -/
def xfrRows (c e : Nat) (ctx : BitVec 12) (op : EngOp) (src : Nat → M Row) (sink : Nat → Row → Nat → M Unit) : List Nat → M Unit
  | [] => return ()
  | i :: is => do
    let s ← get
    let o := curOp s c e op
    if !o.sent then
      let r ← src i
      modify fun s => bufferRow s c e op r
    let s ← get
    let o := curOp s c e op
    let r := bufferedRow o
    sink i { r with pois := r.pois.map fun x => x || o.parity } o.lepoch
    modify fun s => xfrRowDone s c e op i
    xfrRows c e ctx op src sink is

def xfrItems (op : EngOp) (d : List Word) : List Nat := (List.range (xRows d)).drop op.progress

def localSink (c e : Nat) (ctx : BitVec 12) (op : EngOp) (B i : Nat) (r : Row) (done : Nat) : M Unit :=
  xfrDrain c e ctx op B (xDstCa op.desc i) r (r.bytes.length / 64 + 2) done

def copyBody (e c : Nat) (p : Prog) (op : EngOp) : M Unit := do
  let d := op.desc
  require' c e (xfrOk c 0x80 d)
  xfrRows c e p.ctx op (fun i => xfrRead c e p.ctx op (copyBeat c d) (xLen d / 64 + 2) (xSrcCa d i) (xLen d))
    (localSink c e p.ctx op (copyBeat c d)) (xfrItems op d)
  holeFaultAt c e op

/-- A row of FILL: the pattern from byte 0 of the row. -/
def fillRow (d : List Word) : Row :=
  let pat := toBytes 8 (wordAt d 7).toNat
  cleanRow ((List.range (xLen d)).map fun i => pat.getD (i % 8) 0)

def fillBody (e c : Nat) (p : Prog) (op : EngOp) : M Unit := do
  let d := op.desc
  require' c e (xfrOk c 0x81 d)
  xfrRows c e p.ctx op (fun _ => return fillRow d) (localSink c e p.ctx op (fillBeat c d)) (xfrItems op d)
  holeFaultAt c e op

/-! PCOPY (R188, R395). -/

/-- CSTAT.LOST and CSTAT.DEADRD of a core's task. -/
def setLost (s : State) (c : Nat) : State := updProg s c fun p => { p with lost := true }
def setDeadrd (s : State) (c : Nat) : State := updProg s c fun p => { p with deadrd := true }

/-- The requests of a row of `n` bytes at the peer's CA `a`, one for each 64-byte chunk it touches, so that a poison mark
moves with its chunk (R188, R395): offsets and lengths. -/
def dtPieces (a n : Nat) : List (Nat × Nat) :=
  (parts a n).map fun q => (q.1 * 64 + q.2.1 - a, q.2.2)

/-- A row sent to a peer, or discarded where the peer is dead. -/
def peerSink (c e : Nat) (op : EngOp) (i : Nat) (r : Row) (_ : Nat) : M Unit := do
  let d := op.desc
  modify fun s =>
    if peerAlive s (xPkg d) then
      (dtPieces (xDstCa d i) r.bytes.length).foldl (fun s q =>
        let t := s.nextTag
        let s := dtRequest s (xPkg d) c (taskAt s c) e (.pcopyWrite (xDstCa d i + q.1)) dtWRITE (xDstCa d i + q.1) ((r.bytes.drop q.1).take q.2)
          (((r.pois.drop q.1).take q.2).any id)
        updOp s c e op.ord fun o => { o with tags := o.tags ++ [t] })
        (ctxCtr (coreCtr s c (e + 2) r.bytes.length) (ctxOf s c) 7 r.bytes.length)
    else setLost s c

/-- Zeros with every touched chunk marked, for a read whose peer is dead. -/
def deadRow (n : Nat) : Row := { bytes := List.replicate n 0, pois := List.replicate n true }

/-- A piece of a row that a peer has returned, or that its death has made: bytes and marks by the piece's place in the row. -/
def putPiece (off : Nat) (x : Row) (o : EngOp) : EngOp :=
  { o with rows := mapPut (mapPut o.rows (2 * off + 2) (some x.bytes)) (2 * off + 3) (some (x.pois.map fun b => if b then 1 else 0)) }

/-- The row that the returned pieces make. -/
def joinPieces (op : EngOp) (l : List (Nat × Nat)) : Row :=
  l.foldl (fun r q =>
    let g := fun k => (mapFind? op.rows k).getD none |>.getD []
    r.append { bytes := g (2 * q.1 + 2), pois := (g (2 * q.1 + 3)).map fun b => decide (b ≠ 0) }) rowNil

/-- Row `i` read from a peer, whole before it is written (R188): its requests are sent and their replies awaited; zeros where the
peer is dead. -/
def peerSource (c e : Nat) (op : EngOp) (i : Nat) : M Row := do
  let d := op.desc
  let l := dtPieces (xSrcCa d i) (xLen d)
  let s ← get
  let o := curOp s c e op
  if o.noted then
    if o.tags.isEmpty then return joinPieces o l else throw .wait
  else if peerAlive s (xPkg d) then
    set (l.foldl (fun s q =>
      let t := s.nextTag
      let s := dtRequest s (xPkg d) c (taskAt s c) e (.pcopyRead (xSrcCa d i + q.1) q.1 q.2) dtREAD (xSrcCa d i + q.1) (toBytes 4 q.2) false
      updOp s c e op.ord fun o => { o with noted := true, tags := o.tags ++ [t] }) (ctxCtr s (ctxOf s c) 7 (xLen d)))
    throw .wait
  else
    set (setDeadrd s c)
    return deadRow (xLen d)

def pcopyBody (e c : Nat) (p : Prog) (op : EngOp) : M Unit := do
  let d := op.desc
  require' c e (xfrOk c 0x82 d)
  if xPside d then
    xfrRows c e p.ctx op (fun i => xfrRead c e p.ctx op 64 (xLen d / 64 + 2) (xSrcCa d i) (xLen d)) (peerSink c e op) (xfrItems op d)
  else xfrRows c e p.ctx op (peerSource c e op) (localSink c e p.ctx op 64) (xfrItems op d)
  holeFaultAt c e op

/-- NOTE moves nothing; its notification follows its completion. -/
def noteBody (e c : Nat) (_ : Prog) (op : EngOp) : M Unit := require' c e (xfrOk c 0x83 op.desc)

def execXfrCopy (core : CoreIx) (u : Fin 2) (slips : List SlipObs) (s : State) : Out :=
  engineRun s core.val (4 + u.val) 0x80 fun p op => do
    modify fun s => if p.injig then applySlips s core.val slips else s
    copyBody (4 + u.val) core.val p op

def execXfrFill (core : CoreIx) (u : Fin 2) (s : State) : Out := engineRun s core.val (4 + u.val) 0x81 (fillBody (4 + u.val) core.val)
def execXfrPcopy (core : CoreIx) (u : Fin 2) (s : State) : Out := engineRun s core.val (4 + u.val) 0x82 (pcopyBody (4 + u.val) core.val)
def execXfrNote (core : CoreIx) (u : Fin 2) (s : State) : Out := engineRun s core.val (4 + u.val) 0x83 (noteBody (4 + u.val) core.val)

end Sys2Proof.Machine
end

