-- ==== Sys2Proof/Machine/Dovetail.lean ====
section
/-! DEFINITION. Dovetail (R393-R408): inbound requests and their windows, answers, remote tables served, dispatch
channels, time, heartbeats and peer death. -/

namespace Sys2Proof.Machine

/-! Peers. -/

def peerInit : Peer := { lastBeat := 0, inc := 0, known := false }
def peer (s : State) (p : Nat) : Peer := mapGet (fun _ => peerInit) s.peers p
def setPeer (s : State) (p : Nat) (x : Peer) : State := { s with peers := mapSet (fun _ => peerInit) s.peers p x }

/-- A peer that was heard and then declared dead (R407). -/
def peerDeadNow (s : State) (p : Nat) : Bool := (peer s p).known && !aliveBit s p

def dtOn (s : State) : Bool := running s && blkEn s .dt

/-- Traffic of a dead peer is dropped (R407). -/
def stray (s : State) : State := raise s .dt 0x120 2

/-! Windows (R396, R397). -/

/-- A window's memory kinds. -/
def windowable (a : Nat) : Bool :=
  match caKind (canon a) with
  | .mirror _ | .nowhere => false
  | _ => decide (a < 2 ^ 51)

/-- The attributes of the window that governs a byte for a sender. -/
def govWin (s : State) (src a : Nat) : Option (Nat × Nat × Word) :=
  (List.range 16).findSome? fun n =>
    let b := wk s .dt (0x2000 + 16 * n)
    let t := wk s .dt (0x2008 + 16 * n)
    let lo := fld b 51 16 * 65536
    let len := fld t 31 0 * 65536
    let mirror := overlap lo len 0x30000000000 0x4000000
    if flag b 63 && !mirror && decide (lo + len ≤ 2 ^ 51) && decide (lo ≤ a) && decide (a < lo + len) && decide (fld t 39 32 ≤ src) && decide (src ≤ fld t 47 40)
      then some (lo, len, t) else none

/-- The key slot of the window that governs a byte, where it encrypts (R240, R396). -/
def winKey (s : State) (src a : Nat) : Option Nat :=
  match govWin s src a with
  | some (_, _, t) => if flag t 53 then some (fld t 63 54) else none
  | none => none

/-- The check of a peer's request of `n` bytes at `a`: its pieces, or none where it is refused. -/
def winCheck (s : State) (src a n : Nat) (write : Bool) : Option (List (Target × Nat)) :=
  match govWin s src a with
  | none => none
  | some (lo, len, t) =>
    let enc := flag t 53 && encApplies (canon a)
    if decide (a + n ≤ lo + len) && flag t (if write then 51 else 52) && windowable a && windowable (a + n - 1)
        && (!enc || (keyAt s (fld t 63 54)).isSome) then
      some ((parts a n).map fun q =>
        ({ host := false, io := false, addr := canon (q.1 * 64 + q.2.1), cc := false, key := if enc then some (fld t 63 54) else none }, q.2.2))
    else none

/-- A REFUSE leaves, where a port reaches the sender (R394). -/
def refuse (s : State) (src tag : Nat) : State := if dtPorts s src = 0 then s else send s (.dtRefuse src tag)

/-- A refused request (R397). -/
def dtRefused (s : State) (src tag : Nat) : State := refuse (raise s .dt 0x120 3) src tag

/-- An inbound request: dropped from a dead peer, ignored while the block is off. -/
def inbound (s : State) (src : Nat) (f : State → State) : Out :=
  if !dtOn s then idle s else if peerDeadNow s src then done (stray s) else done (f s)

/-! READ and WRITE (R395). -/

def dtRead (s : State) (src tag ca len : Nat) : State :=
  if len = 0 ∨ 256 < len then s
  else match winCheck s src ca len false with
    | none => dtRefused s src tag
    | some ts =>
      if isHole s (canon ca) || isHole s (canon (ca + len - 1)) then
        let f := freeNat s
        dtMsg f.2 src dtREADREPLY tag ca (toBytes len f.1) true
      else match (readPieces whoNone ts).run s with
        | .ok r s' => dtMsg s' src dtREADREPLY tag ca r.bytes r.bad
        | .error _ s' => s'

/-- An inbound write that covers the PROD word of a bound channel from its sender wakes the GFE (R399). -/
def chanWake (s : State) (src ca len n : Nat) : State :=
  let c := chan s n
  let b := canon (chanBase s n)
  if chanBound s n && decide (c.src = src) && ((parts ca len).any fun q =>
      let a := canon (q.1 * 64 + q.2.1)
      decide (a ≤ b) && decide (b + 4 ≤ a + q.2.2)) then
    let p := chanProd s n
    let s := setChan s n { c with prod := p }
    let s := gfeRing s 0x20 c.ctx.toNat (place 31 0 p.toNat)
    if 2 ^ chanLog2 s n < (p - BitVec.ofNat 32 (chanCons s n)).toNat then
      let s' := raise (ctxFault s c.ctx 2) (.ctx c.ctx) 0x8020 2
      if ctxFaulted s c.ctx then s' else chanAck s' n
    else s
  else s

def dtWrite (s : State) (src tag ca : Nat) (data : List Byte) (poison : Bool) : State :=
  if data.isEmpty ∨ 256 < data.length then s
  else match winCheck s src ca data.length true with
    | none => dtRefused s src tag
    | some ts =>
      if isHole s (canon ca) || isHole s (canon (ca + data.length - 1)) then dtMsg s src dtWRITEACK tag ca [] false
      else match (writePieces whoNone ts { bytes := data, pois := data.map fun _ => poison }).run s with
        | .ok _ s' => dtMsg ((List.range 16).foldl (fun s n => chanWake s src ca data.length n) s') src dtWRITEACK tag ca [] false
        | .error _ s' => s'

def execDtRead (src : BitVec 8) (tag ca len : Nat) (s : State) : Out := inbound s src.toNat fun s => dtRead s src.toNat tag ca len
def execDtWrite (src : BitVec 8) (tag ca : Nat) (data : List Byte) (poison : Bool) (s : State) : Out :=
  inbound s src.toNat fun s => dtWrite s src.toNat tag ca data poison

/-! Tables served for peers (R401-R403). -/

/-- What a serving Tongs has: the sender and the window's key slot, its core, formats, codebooks and rules. -/
structure Serve where
  key : Option Nat
  core : Nat
  ctx : BitVec 12
  fmts : SMap Word
  cbs : SMap Codebook
  rules : SMap (BitVec 128)
  deriving DecidableEq, Repr

/-- The serving Tongs decodes with the formats, codebooks and rules of the task that runs on its core, and checks no entry (log
entry 185). -/
def servingOf (s : State) (src handle : Nat) : Serve :=
  let k := Config.servingTongs handle % 384
  let key := winKey s src handle
  match prog? s k with
  | some p => { key, core := k, ctx := p.ctx, fmts := p.fmt, cbs := p.cb, rules := p.rules }
  | none => { key, core := k, ctx := 0, fmts := [], cbs := [], rules := [] }

/-- The descriptor behind a handle, where it may serve the requester's table: outer none, the request is refused by
its window; inner none, the rows are answered as vanished. -/
def servedDesc (s : State) (src handle : Nat) (q : RemoteTable) (write : Bool) : Option (Option (Nat × List Word)) :=
  match winCheck s src handle 8 write with
  | none => none
  | some _ =>
    match (readHandleBy (winKey s src handle) s handle).1 with
    | some (a, d) => some (if dPlace d ≤ 2 ∧ remoteOf d = q then some (a, d) else none)
    | none => some none

/-- The owner's reads and writes at local memory, under the window's key (R396; log entry 214); a hole reads poisoned and discards writes,
and no task's operation records it. -/
def serveAcc (v : Serve) : Acc1 := fun a n _ => do
  let s ← get
  if isHole s (canon a) || isHole s (canon (a + n - 1)) then throw (.exc 4 4 a 0)
  return (parts a n).map fun q =>
    let b := canon (q.1 * 64 + q.2.1)
    ({ host := false, io := false, addr := b, cc := false, key := if encApplies b then v.key else none }, q.2.2)

def servePort (v : Serve) : RowPort := { acc := serveAcc v, who := whoNone, hole := fun _ => return (), bad := fun _ => return () }

def serveRead (v : Serve) (a n : Nat) : M Row := reqRead (servePort v) (n / 128 + 1) a n
def serveWrite (v : Serve) (a : Nat) (r : Row) : M Unit := reqWrite (servePort v) .w (r.bytes.length / 128 + 1) a r

/-- A served lookup, which decodes its row or returns it as stored; a forward table at another peer is not followed (log entry 184). -/
def serveFinder (v : Serve) (codes : Bool) : Finder :=
  { codes, rd := serveRead v, gone := fun a => do let s ← get; return vanished s a, peer := fun _ _ => return none }
def serveWord (v : Serve) (a : Nat) : M Word := do
  let r ← serveRead v a 8
  return BitVec.ofNat 64 (ofBytes r.bytes)

/-- The owner finds a row: none where it has vanished. -/
def serveRow (v : Serve) (codes : Bool) (d : List Word) (r : Nat) : M (Option LRow) := do
  if dRows d ≤ r then return none
  let x ← lookupRow (serveFinder v codes) v.fmts v.cbs d r
  return if x.miss.isSome then none else some x

/-- Raw payloads of rows for a ROWS message: a byte whose bit 0 says that the row is there and bit 1 that it is poisoned, then its
payload. -/
def serveRaw (v : Serve) (d : List Word) : List Nat → M Row
  | [] => return rowNil
  | r :: rs => do
    let x ← serveRow v false d r
    let h := match x.bind LRow.row with
      | some y => Row.append (cleanRow [if y.bad then 3 else 1]) y
      | none => cleanRow [0]
    let t ← serveRaw v d rs
    return h.append t

/-- What an attempt that has to wait leaves: the back-invalidations it has asked for, and nothing of its work. -/
def keepAsks (s s' : State) : State := globalCtr { s with bis := s'.bis, out := s'.out } 114 (s'.out.length - s.out.length)

/-- A request to an owned table is tried under the descriptor captured for it: answered, or held with its capture until it is tried again
(R109, R401; log entry 215). Its work stands whole or not at all. One that finds no free slot sets NOSLOT once (R130). -/
def serveTry (s : State) (handle : Nat) (held : Bool) (x : Served) (miss : State → State) (f : Serve → List Word → M (State → State)) : State :=
  let v := servingOf s x.src handle
  let wait := fun (s : State) (x : Served) =>
    let s := if held then s else refStep s x.addr true
    { s with served := (s.served.filter fun y => !(y.src = x.src && y.tag = x.tag)) ++ [x] }
  let free := fun (s : State) =>
    if held then refStep { s with served := s.served.filter fun y => !(y.src = x.src && y.tag = x.tag) } x.addr false else s
  match (f v x.words).run s with
  | .ok g s' => free (g s')
  | .error .wait s' => wait (keepAsks s s') x
  | .error .park s' => wait (if x.noted then keepAsks s s' else engEvent (keepAsks s s') v.core 0x260 32) { x with noted := true }
  | .error _ s' => free (miss s')

/-- A request to an owned table: refused, answered as vanished with `miss`, or served by `f`. One that waits is the same row sent
again. -/
def servedRun (s : State) (src tag handle : Nat) (q : RemoteTable) (write : Bool) (miss : State → State)
    (f : Serve → List Word → M (State → State)) : State :=
  match s.served.find? fun x => x.src = src && x.tag = tag with
  | some x => serveTry s handle true x miss f
  | none =>
    if (winCheck s src handle 8 write).isSome && !(handleLines s handle).isEmpty then gfeAsk s (handleLines s handle) else
    match servedDesc s src handle q write with
    | none => dtRefused s src tag
    | some none => miss (raise s .dt 0x120 3)
    | some (some (a, d)) => serveTry s handle false { src, tag, addr := a, words := d, noted := false } miss f

def dtLookup (s : State) (src tag handle : Nat) (q : RemoteTable) (rows : List Nat) : State :=
  servedRun s src tag handle q false (fun s => dtMsg s src dtROWS tag handle (rows.map fun _ => 0) false) fun v d => do
    let r ← serveRaw v d rows
    return fun s => dtMsg s src dtROWS tag handle r.bytes r.bad

/-- An owner's share of a bag so far: its exact sum, the positions that are missing, poison, and the numeric flags. -/
structure OwnerShare where
  accs : List Acc
  missing : List Nat
  bad : Bool
  flags : Nat
  deriving DecidableEq, Repr

def serveShare (v : Serve) (d : List Word) (wgt : Bool) : List (Nat × Nat × BitVec 32) → OwnerShare → M OwnerShare
  | [], b => return b
  | (i, r, w) :: rest, b => do
    match ← serveRow v true d r with
    | none => serveShare v d wgt rest { b with missing := b.missing ++ [i] }
    | some x =>
      let e ← rowValues (serveRead v) v.fmts v.cbs x
      let q := poolAdd b.accs e.1 (if wgt then some w else none)
      serveShare v d wgt rest { b with accs := q.1, bad := b.bad || e.2.2, flags := b.flags ||| e.2.1 ||| q.2 }

/-- Numeric events of a serving Tongs: its core's register takes them, and no task's summary (R73, R78; log entry 186). -/
def serveEvent (s : State) (v : Serve) (flags : Nat) : State := engEvent s v.core 0x240 flags

/-- A PARTIAL in the form of R123; the rows that are missing at the owner stand where a pool unit's deferred rows do. -/
def partialMsg (accs : List Acc) (missing : List Nat) (bad : Bool) : List Byte :=
  let form := partialForm accs
  let sh := if accs.all fun a => decide (a.value = 0) then 128 else partialShift accs
  let hdr := (accs.headD accZero).count * 2 ^ 104 + (if form = 8 then 0 else if form = 16 then 1 else 2) * 2 ^ 102
    + boolNat bad * 2 ^ 101 + (if form = 32 then 0 else unsignedOf 16 ((sh : Int) - 128) * 2 ^ 85) + missing.length * 2 ^ 40
  let elem := fun a : Acc => if form = 32 then accBytes a else toBytes form (unsignedOf (8 * form) (a.value.toInt / 2 ^ sh))
  toBytes 16 hdr ++ accs.flatMap elem ++ missing.flatMap (toBytes 8)

def dtPlookup (s : State) (src tag handle : Nat) (q : RemoteTable) (share : List (Nat × BitVec 32)) (wgt : Bool) : State :=
  let es := (List.range share.length).zip share
  servedRun s src tag handle q false
    (fun s => dtMsg s src dtPARTIAL tag handle (partialMsg (List.replicate q.dim.toNat accZero) (List.range share.length) false) false) fun v d => do
      let b ← serveShare v d wgt es { accs := List.replicate (dDim d) accZero, missing := [], bad := false, flags := 0 }
      return fun s => dtMsg (serveEvent s v b.flags) src dtPARTIAL tag handle (partialMsg b.accs b.missing b.bad) b.bad

/-- The new stored bytes of a row under a gradient (R134, R403), their flags, and its new optimiser state. -/
def serveGrad (v : Serve) (d : List Word) (r : Nat) (rule : BitVec 128) (x : Row) (g : List (BitVec 32)) : M ((List Byte × Nat) × Option (BitVec 32)) := do
  let f := fmtEntry v.fmts (dFmt d)
  let e ← rowValues (serveRead v) v.fmts v.cbs { desc := d, row := some x, miss := none }
  let opt ← if ruleKind rule = 2 then do
      let o ← serveRead v (optCa d r) 4
      pure (dec32 (BitVec.ofNat 32 (ofBytes o.bytes)))
    else pure zeroNum
  let q := applyRule rule (e.1.map f32op) (g.map dec32) opt
  let y := encodeRow d f v.cbs x.bytes q.1
  return ((y.1, y.2 ||| e.2.1), if ruleKind rule = 2 then some (enc32 .rne q.2) else none)

/-- The table in which an owner writes a LIVE row: its own, or the forward table of a forwarded row (R130, R138); none where the write is not
applied. -/
def serveTable (v : Serve) (d : List Word) (r : Nat) : M (Option (List Word)) := do
  let here := fun (t : List Word) (w : Word) (s : State) => if (locOf t r w).all (vanished s) then none else some t
  let w ← serveWord v (rowStateCa d r)
  let s ← get
  if rsLoc w ≠ 2 then return here d w s
  match ← forwardOf (serveRead v) true v.fmts v.cbs d with
  | none => return none
  | some t =>
    if !dLive t || 2 < dPlace t || encodeBarred t || dRows t ≤ r then return none
    let w2 ← serveWord v (rowStateCa t r)
    let s ← get
    return here t w2 s

/-- A LIVE row of an owner takes its new content through a veneer slot, as MUPD does (R128, R130); it parks where no slot is free. -/
def serveLive (v : Serve) (d : List Word) (r : Nat) (new : Row → M ((List Byte × Nat) × Option (BitVec 32))) : M Unit := do
  let s ← get
  let w ← serveWord v (rowStateCa d r)
  if rsBusy s w || !moverRoom s v.core (boolNat (rsLoc w = 1) + boolNat (!rsHot w)) then throw .wait
  let p := if rsHot w then 1 else 0
  let bits ← serveRead v (bitmapCa d p) ((poolCnt d p + 63) / 64 * 8)
  let fs := (List.range (poolCnt d p)).filter fun i => (ofBytes ((bits.bytes.drop (i / 8)).take 1)).testBit (i % 8)
  if fs.isEmpty then throw .park
  let s ← get
  let f := freeNat s
  set f.2
  let i := fs.getD (f.1 % fs.length) 0
  let n := rowLen d (fmtEntry v.fmts (dFmt d))
  let x ← serveRead v ((locOf d r w).getD (homeCa d r)) n
  let q ← new x
  let a := bitmapCa d p + i / 64 * 8
  let b ← serveWord v a
  serveWrite v a (cleanRow (toBytes 8 (setFld b (i % 64) (i % 64) 0).toNat))
  serveWrite v (slotCa d p i) (storedRow d q.1.1 x.bad)
  serveWrite v (rowStateCa d r) (cleanRow (toBytes 8 (rsCommit w p i).toNat))
  modify fun s =>
    let s := if rsLoc w = 1 then queueRel s v.core v.ctx d r (rsPool w) (rsSlot w) else s
    if rsHot w then s else queueBack s v.core v.ctx d r p i n
  modify fun s => serveEvent s v q.1.2
  match q.2 with
  | some o => serveWrite v (optCa d r) (cleanRow (toBytes 4 o.toNat))
  | none => return ()

/-- The owner applies an update; a row that is not there takes none. True: applied. -/
def serveUpdate (v : Serve) (d : List Word) (r : Nat) (u : RowUpdate) : M Bool := do
  if dRows d ≤ r then return false
  let s ← get
  match u with
  | .row bs bad =>
    if dLive d || vanished s (homeCa d r) || isHole s (canon (homeCa d r)) then return false
    serveWrite v (homeCa d r) (rowOf (bs.take (dStride d)) bad)
    return true
  | .grad urule g =>
    let rule := mapFind? v.rules urule.toNat
    if !ruleValid rule || encodeBarred d || (decide (ruleKind (rule.getD 0) = 2) && decide (dOpt d = 0)) then return false
    let new := fun t x => serveGrad v t r (rule.getD 0) x g
    if dLive d then
      match ← serveTable v d r with
      | none => return false
      | some t =>
        serveLive v t r (new t)
        return true
    else
      if vanished s (homeCa d r) || isHole s (canon (homeCa d r)) then return false
      let x ← serveRead v (homeCa d r) (rowLen d (fmtEntry v.fmts (dFmt d)))
      let q ← new d x
      serveWrite v (homeCa d r) (storedRow d q.1.1 x.bad)
      modify fun s => serveEvent s v q.1.2
      match q.2 with
      | some o => serveWrite v (optCa d r) (cleanRow (toBytes 4 o.toNat))
      | none => pure ()
      return true

def dtUpdate (s : State) (src tag handle : Nat) (q : RemoteTable) (row : Nat) (u : RowUpdate) : State :=
  servedRun s src tag handle q true (fun s => refuse s src tag) fun v d => do
    let ok ← serveUpdate v d row u
    return fun s => if ok then dtMsg s src dtUPDATEACK tag handle [] false else refuse s src tag

def execDtLookup (src : BitVec 8) (tag handle : Nat) (q : RemoteTable) (rows : List Nat) (s : State) : Out :=
  inbound s src.toNat fun s => dtLookup s src.toNat tag handle q rows
def execDtPlookup (src : BitVec 8) (tag handle : Nat) (q : RemoteTable) (share : List (Nat × BitVec 32)) (wgt : Bool) (s : State) : Out :=
  inbound s src.toNat fun s => dtPlookup s src.toNat tag handle q share wgt
def execDtUpdate (src : BitVec 8) (tag handle : Nat) (q : RemoteTable) (row : Nat) (u : RowUpdate) (s : State) : Out :=
  inbound s src.toNat fun s => dtUpdate s src.toNat tag handle q row u

/-! Answers. -/

/-- A task's state at a core, where it runs there or is switched out. -/
def updPart (s : State) (c task : Nat) (f : Prog → Prog) : State :=
  if ((prog? s c).map Prog.task) = some task then updProg s c f else updSaved s task c f

def dropReq (s : State) (tag : Nat) : State := { s with dtOut := s.dtOut.filter fun r => r.tag ≠ tag }

/-- The operation that waits for a tag. -/
def tagOp (p : Prog) (e tag : Nat) : Option EngOp := (queue p e).find? fun o => o.tags.contains tag

/-- The tag's operation is changed and waits for it no more. -/
def tagDone (s : State) (r : DtReq) (f : EngOp → EngOp) : State :=
  dropReq (updPart s r.core r.task fun p => setQueue p r.eng ((queue p r.eng).map fun o =>
    if o.tags.contains r.tag then { f o with tags := o.tags.filter (· ≠ r.tag) } else o)) r.tag

/-- A peer's request failed: the engine faults (R186, R397). -/
def tagFault (s : State) (r : DtReq) (ecode sub ea : Nat) : State :=
  let s' := tagDone s r id
  match (prog? s r.core).bind fun p => (tagOp p r.eng r.tag).map fun o => (p, o) with
  | some (p, o) =>
    if p.task = r.task then
      engineFault s' r.core { eng := r.eng, opcode := opcodeOf o, ecode, sub, eaddr := ea % 2 ^ 52, detail := o.ord % 2 ^ 32 }
    else s'
  | none => s'

def replyTo (s : State) (r : DtReq) (x : Reply) : State := dropReq (updPart s r.core r.task fun p => { p with reply := some x }) r.tag

def lostAt (s : State) (r : DtReq) : State := updPart s r.core r.task fun p => { p with lost := true }
def deadrdAt (s : State) (r : DtReq) : State := updPart s r.core r.task fun p => { p with deadrd := true }

/-- Rows that are answered as vanished (R141). -/
def rowsVanish (s : State) (r : DtReq) : State :=
  match r.kind with
  | .lookup _ pos => tagDone s r fun o => { o with rows := pos.foldl (fun m k => mapPut m k none) o.rows }
  | .plookup _ rows => tagDone s r fun o => { o with deferred := o.deferred ++ rows.map Prod.snd }
  | _ => tagDone (noteMissing s r.core 3 1) r id

/-- A refused request (R397). -/
def answerRefused (s : State) (r : DtReq) : State :=
  match r.kind with
  | .pld _ _ => replyTo s r .refused
  | .dropped => dropReq s r.tag
  | .pst => dropReq (lostAt s r) r.tag
  | .pcopyRead src _ _ => tagFault s r 4 3 src
  | .pcopyWrite dst => tagFault s r 4 3 dst
  | .ack _ => serveAcks (dropReq (raise s .dt 0x120 4) r.tag)
  | _ => rowsVanish s r

/-- A request to a peer that is declared dead (R406). -/
def answerDead (s : State) (r : DtReq) : State :=
  match r.kind with
  | .pld _ _ => replyTo s r .dead
  | .dropped => dropReq s r.tag
  | .pst => dropReq (lostAt s r) r.tag
  | .pcopyRead _ off len => deadrdAt (tagDone s r (putPiece off (deadRow len))) r
  | .pcopyWrite _ => tagDone (lostAt s r) r id
  | .ack _ => dropReq s r.tag
  | _ => rowsVanish s r

def reqOf (s : State) (tag : Nat) : Option DtReq := s.dtOut.find? fun r => r.tag = tag

/-- An answer to request `tag`, where one is outstanding. -/
def answer (s : State) (tag : Nat) (f : DtReq → State) : Out :=
  match reqOf s tag with
  | some r => if running s then done (f r) else idle s
  | none => idle s

def execDtReadReply (tag : Nat) (data : List Byte) (poison : Bool) (s : State) : Out :=
  answer s tag fun r => match r.kind with
    | .pld _ n => if data.length = n then replyTo s r (.data (ofBytes data) poison) else s
    | .dropped => dropReq s tag
    | .pcopyRead _ off n => if data.length = n then tagDone s r (putPiece off { bytes := data, pois := data.map fun _ => poison }) else s
    | _ => s

def execDtWriteAck (tag : Nat) (s : State) : Out :=
  answer s tag fun r => match r.kind with
    | .pst => dropReq s tag
    | .ack _ => serveAcks (dropReq s tag)
    | .pcopyWrite _ => tagDone s r id
    | _ => s

def execDtUpdateAck (tag : Nat) (s : State) : Out :=
  answer s tag fun r => if r.kind = .update then tagDone s r id else s

def execDtRows (tag : Nat) (rows : List (Option (List Byte × Bool))) (s : State) : Out :=
  answer s tag fun r => match r.kind with
    | .lookup _ pos =>
      if rows.length = pos.length then
        tagDone s r fun o => { o with rows := (pos.zip rows).foldl (fun m q => mapPut m q.1 (q.2.map Prod.fst)) o.rows,
                                      marks := o.marks ++ ((pos.zip rows).filter fun q => (q.2.map Prod.snd).getD false).map Prod.fst }
      else s
    | _ => s

def execDtPartial (tag : Nat) (elems : List (BitVec 256)) (missing : List Nat) (poison : Bool) (s : State) : Out :=
  answer s tag fun r => match r.kind with
    | .plookup bag rows =>
      let accs := elems.filterMap fun e => accOfBytes (toBytes 32 e.toNat)
      if accs.length < elems.length then tagFault (numEvent s r.core 2 evFMTERR) r 6 7 0
      else
        tagDone s r fun o => { o with sums := if accs.isEmpty then o.sums else o.sums ++ [(bag, accs)],
                                      marks := if poison then o.marks ++ [bag] else o.marks,
                                      deferred := o.deferred ++ missing.filterMap fun i => (rows[i]?).map Prod.snd }
    | _ => s

def execDtRefuse (tag : Nat) (s : State) : Out := answer s tag fun r => answerRefused s r

/-! Heartbeats and peer death (R406, R407). -/

def heardBeat (s : State) (p : Nat) (inc : BitVec 8) : State := setPeer s p { lastBeat := s.stc, inc, known := true }

def execDtHeartbeatReceived (src : BitVec 8) (inc : BitVec 8) (s : State) : Out :=
  let p := src.toNat
  if !dtOn s then idle s
  else if !(peer s p).known || aliveBit s p then done (setAlive (heardBeat s p inc) p true)
  else if (peer s p).inc = inc then done (stray s)
  else done (raise (setAlive (heardBeat s p inc) p true) .dt 0x120 1)

/-- A peer is declared dead (R406): DEAD, and ACKLOST where an acknowledgement to it is discarded, are events of one step (R44). -/
def peerDied (s : State) (p : Nat) : State :=
  let acks := (s.dtOut.any fun r => decide (r.peer = p) && isAck r.kind) || s.ackDue.any fun e => e.pkg = p
  let s := raiseFault (raiseAt (setAlive s p false) .dt 0x120 0x128 (place 0 0 1 ||| place 4 4 (boolNat acks))) .dt 1 none none
  let s := setPeer { s with ackDue := s.ackDue.filter fun e => e.pkg ≠ p } p { peer s p with known := true }
  serveAcks ((s.dtOut.filter fun r => r.peer = p).foldl answerDead s)

def execPeerDead (peer : BitVec 8) (s : State) : Out :=
  let p := peer.toNat
  if dtOn s && aliveBit s p && decide (50000 ≤ (s.stc - (Sys2Proof.Machine.peer s p).lastBeat).toNat) then done (peerDied s p) else idle s

/-- DT_REVIVE (R407): bits [62:8] must be 0. -/
def dtRevive (s : State) (val : Word) : State :=
  if flag val 63 ∧ fld val 62 8 = 0 then
    let p := fld val 7 0
    setAlive (setPeer s p { peer s p with lastBeat := s.stc }) p true
  else s

def routed (s : State) : List Nat := (List.range 256).filter fun p => dtPorts s p ≠ 0

def execHeartbeatSend (s : State) : Out :=
  if dtOn s then
    done ((routed s).foldl (fun s p => send s (.heartbeat p (BitVec.ofNat 8 (dtPkg s)) (BitVec.ofNat 8 (rf s .dt 0x100 31 24)))) s)
  else idle s

/-! Time (R404, R405). -/

def isManager (s : State) : Bool := flag (wk s .dt 0x100) 8

def execBeaconSend (s : State) : Out :=
  if dtOn s && isManager s then done (((routed s).filter (aliveBit s)).foldl (fun s p => send s (.beacon p s.stc)) s) else idle s

/-- What a slew may still change now: at most 100 ns in any millisecond. -/
def slewRoom (s : State) : Nat :=
  100 - ((s.slews.filter fun e => decide ((s.stc - e.1).toNat < 1000000)).map Prod.snd).sum

/-- A slew of STC by `diff`: how much of it is a free value within its bounds. -/
def startSlew (s : State) (diff : Int) (room : Nat) : State :=
  let m := min diff.natAbs room
  let f := freeNat s
  let k := f.1 % (m + 1)
  { f.2 with slew := diff.sign * k, slews := (s.slews.filter fun e => decide ((s.stc - e.1).toNat < 1000000)) ++ [(s.stc, k)] }

def anyCtxEnabled (s : State) : Bool := anyReg s fun b o => match b with
  | .ctx c => decide (o = 0x8000) && blkEn s (.ctx c)
  | _ => false

/-- OFFSET in 1/16 ns; a free value where it does not fit the field. -/
def noteOffset (s : State) (diff : Int) : State :=
  let f := freeNat s
  if (16 * diff).natAbs < 2 ^ 31 then setRf s .dt 0x140 31 0 (unsignedOf 32 (16 * diff)) else setRf f.2 .dt 0x140 31 0 f.1

/-- STC is set in one step: the times at which peers were last heard move with it (R405, R406). -/
def shiftBeats (s : State) (d : Word) : State := { s with peers := s.peers.map fun e => (e.1, { e.2 with lastBeat := e.2.lastBeat + d }) }

def beaconHeardFrom (s : State) (mstc : Word) : State :=
  let diff : Int := (mstc.toNat : Int) - (s.stc.toNat : Int)
  let s := setRf s .dt 0x140 62 62 0
  let first := !s.beaconHeard
  let s := noteOffset { s with beaconHeard := true, lastBeacon := s.stc, offset := some diff } diff
  if first && !anyCtxEnabled s then
    setRf (shiftBeats { s with stc := mstc, lastBeacon := mstc, slew := 0, offset := some 0 } (mstc - s.stc)) .dt 0x140 63 63 1
  else startSlew (setRf s .dt 0x140 63 63 (boolNat (decide (diff.natAbs ≤ 2)))) diff (slewRoom s)

/-- A beacon that reaches a manager comes from a second manager, whose results the manual does not specify (R393). -/
def execDtBeaconReceived (src : BitVec 8) (mstc : Word) (s : State) : Out :=
  if !dtOn s then idle s
  else if isManager s then .fault .secondManager
  else if peerDeadNow s src.toNat then done (stray s)
  else done (beaconHeardFrom s mstc)

/-- No beacon for 50 us: HOLD, and the slew ends (R405). How far STC then drifts from the manager's time is open: SYNC is a free value. -/
def holdTime (s : State) : State :=
  let f := freeNat s
  setRf (setRf { f.2 with slew := 0, offset := none } .dt 0x140 62 62 1) .dt 0x140 63 63 (f.1 % 2)

def execBeaconTimeout (s : State) : Out :=
  if dtOn s && !isManager s && !rbit s .dt 0x140 62 && decide (50000 ≤ (s.stc - s.lastBeacon).toNat) then
    done (holdTime s)
  else idle s

/-- The multiple of 10^9 nearest to STC. -/
def nearestSecond (s : State) : Nat := (s.stc.toNat + 500000000) / 1000000000 * 1000000000

def execSyncBeaconEdge (s : State) : Out :=
  if dtOn s && isManager s && flag (wk s .dt 0x100) 9 then
    let diff : Int := (nearestSecond s : Int) - (s.stc.toNat : Int)
    done (startSlew s diff diff.natAbs)
  else idle s

/-! Dispatch channels (R398). -/

/-- BOUND is written 1 on an unbound channel. -/
def chanBind (s : State) (n : Nat) (val : Word) : State :=
  let s := setReg s .dt (0x3000 + 32 * n) val
  let c : Chan := { bound := true, ctx := BitVec.ofNat 12 (fld val 11 0), src := fld val 19 12, ring := reg s .dt (0x3008 + 32 * n),
                    ack := reg s .dt (0x3010 + 32 * n), prod := 0, done := 0 }
  bindProd (setRf (setChan s n c) .dt (0x3018 + 32 * n) 31 0 0) n

/-! Ports (R408). -/

def execDtLinkChange (port : Fin 16) (up : Bool) (s : State) : Out :=
  let o := 0x400 + 8 * port.val
  if rbit s .dt o 0 && rbit s .dt o 1 ≠ up then done (raise (setRf s .dt o 1 1 (boolNat up)) .dt 0x120 5) else idle s

end Sys2Proof.Machine
end

