-- ==== Sys2Proof/Machine/Fmp.lean ====
section
/-! DEFINITION. Far-memory ports (R384-R392): the port states, SLOT_CTL, orderly and surprise removal. -/

namespace Sys2Proof.Machine

/-! The fields of SLOT_STAT and SLOT_CTL (R387). -/

def slotState (s : State) (n : Nat) : Nat := rf s (bFmp n) 0x110 7 5
def setSlotState (s : State) (n v : Nat) : State := setRf s (bFmp n) 0x110 7 5 v
def slotLinkUp (s : State) (n : Nat) : Bool := rbit s (bFmp n) 0x110 2
def slotPresent (s : State) (n : Nat) : Bool := rbit s (bFmp n) 0x110 0
def slotPcc (s : State) (n : Nat) : Bool := rbit s (bFmp n) 0x108 10

def fmpCmd (s : State) (n : Nat) : Bool := mapGet (fun _ => false) s.fmpCmd n
def setFmpCmd (s : State) (n : Nat) (v : Bool) : State := { s with fmpCmd := mapSet (fun _ => false) s.fmpCmd n v }

/-- Slot events of one KCLK cycle (R44). -/
def slotEvents (s : State) (n : Nat) (mask : Word) : State :=
  if mask = 0 then s else raiseAt s (bFmp n) 0x120 0x128 mask

def evIf (b : Bool) (bit : Nat) : Word := if b then place bit bit 1 else 0

/-- The port reaches OFF, ONLINE or FAILED: an outstanding power command completes, one event with what else happens then (R44, R388). -/
def cmdDone (s : State) (n : Nat) (mask : Word) : State :=
  slotEvents (setFmpCmd s n false) n (mask ||| evIf (fmpCmd s n) 4)

/-- The link goes down, and with it the negotiated fields. -/
def slotLinkDown (s : State) (n : Nat) : State :=
  setRf (setRf s (bFmp n) 0x110 55 34 0) (bFmp n) 0x110 2 2 0

/-- What an expander held is gone with its power (R369): its bytes read as unwritten ones (log entry 3). -/
def expanderLost (s : State) (n : Nat) : State :=
  zeroRange { s with farBad := s.farBad.filter fun e => !lineOfPort n false e.1 } (farBase n) 0x10000000000

/-- The slot's power is off. -/
def slotPowerOff (s : State) (n : Nat) : State := expanderLost (setRf s (bFmp n) 0x110 1 1 0) n

/-- The port enters FAILED, one event with what else happens then (R44, R386, R411). -/
def slotFail (s : State) (n code : Nat) (mask : Word) : State :=
  let s := setRf (setSlotState s n 7) (bFmp n) 0x110 63 56 code
  raiseFault (cmdDone s n (mask ||| place 2 2 1)) (bFmp n) 1 none none

/-! Cached lines of a port. -/

/-- The lines of a port that some cache holds. -/
def portLines (s : State) (n : Nat) : List CLine :=
  ((s.cores.flatMap fun e => e.2.dcache.map Prod.snd ++ e.2.wb.toList)
    ++ s.clusters.flatMap fun e => e.2.ccache.map Prod.snd).filter fun l => lineOfPort n l.host l.line

/-- The port's filter recalls every cached line, dirty ones to the expander (R390). -/
def portRecall (s : State) (n : Nat) : State :=
  let s := s.cores.foldl (fun s e => match (core s e.1).wb with
    | some l => if lineOfPort n l.host l.line
        then evictDirty (setCore s e.1 { core s e.1 with wb := none }) e.1 l else s
    | none => s) s
  (portLines s n).foldl (fun s l => recallLine s false l.line) s

/-- A request of a data cache to the port is over: a waiting read completes with a poisoned line, used once, whose bytes are a free
value; a write is discarded; nothing is allocated (R238, R391). -/
def vanishTxn (s : State) (t : Txn) : State :=
  let k := core s t.core
  let hint := k.fills.any fun f => decide (f.line = t.line) && !f.host && f.prefetch
  let fills := k.fills.filter fun f => !(decide (f.line = t.line) && !f.host)
  if hint then setCore s t.core { k with fills }
  else
    let f := freeNat s
    setCore f.2 t.core { k with fills, accepted := k.accepted ++ [t.line],
                                ncLine := some { line := t.line, host := false, st := .s, data := toBytes 64 f.1, poison := true, cc := false, key := none, stamp := 0, pres := 0 } }

/-- DIRTYLOST, where a dirty line of the port is cached (R391). -/
def dirtyLost (s : State) (n : Nat) : Word := evIf (((portLines s n).any fun l => isDirty l.st) || s.txns.any fun t => t.dirty && lineOfPort n t.host t.line) 6

/-- Cached lines are dropped, buffered writes discarded, and outstanding reads complete as vanished (R391). -/
def portVanish (s : State) (n : Nat) : State :=
  let gone := fun l : CLine => lineOfPort n l.host l.line
  let s := s.cores.foldl (fun s e =>
    let k := core s e.1
    setCore s e.1 { k with
      dcache := k.dcache.filter (fun m => !gone m.2), wb := k.wb.filter (fun l => !gone l),
      ncLine := k.ncLine.filter (fun l => !gone l),
      sbuf := k.sbuf.filter fun b => !lineOfPort n b.tgt.host (b.tgt.addr / 64) }) s
  let s := s.clusters.foldl (fun s e =>
    let k := cluster s e.1
    setCluster s e.1 { k with ccache := k.ccache.filter fun m => !gone m.2 }) s
  let mine := fun t : Txn => lineOfPort n t.host t.line
  (s.txns.filter mine).foldl vanishTxn { s with txns := s.txns.filter fun t => !mine t }

/-! SLOT_CTL (R388, R390). -/

/-- The register after a write of `v`: an indicator code 0b00 leaves the indicator, and PCC 0 has no effect while
EMPTY. -/
def slotCtlWord (s : State) (n : Nat) (v : Word) : Word :=
  let o := reg s (bFmp n) 0x108
  let v := if fld v 9 8 = 0 then setFld v 9 8 (fld o 9 8) else v
  let v := if fld v 7 6 = 0 then setFld v 7 6 (fld o 7 6) else v
  if slotState s n = 0 && !flag v 10 then setFld v 10 10 (fld o 10 10) else v

/-- A write of SLOT_CTL with the merged value `v`. A power command sets CC when the port reaches OFF, ONLINE or
FAILED; a write that asks for no change of state completes at once. -/
def slotCtl (s : State) (n : Nat) (v : Word) : State :=
  let st := slotState s n
  let change := decide (flag v 10 ≠ slotPcc s n)
  let s := setReg s (bFmp n) 0x108 (slotCtlWord s n v)
  let atOnce := slotEvents s n (place 4 4 1)
  if st = 0 then (if change then (if flag v 10 then s else atOnce) else atOnce)
  else if st = 1 then
    (if flag v 10 then atOnce else setFmpCmd (setSlotState s n 2) n true)
  else if st = 5 then
    (if flag v 10 then setFmpCmd (setSlotState s n 6) n true else atOnce)
  else if st = 7 then
    (if flag v 10 then slotEvents (slotPowerOff (slotLinkDown (setSlotState s n 1) n) n) n
        (place 4 4 1 ||| evIf (slotLinkUp s n) 5)
     else atOnce)
  else if change then setFmpCmd s n true
  else atOnce

/-- EN becomes 1: a port with its link in L0 enumerates, again where it was ONLINE (R386). -/
def slotEnabled (s : State) (n : Nat) : State :=
  if slotState s n = 5 || (slotState s n = 3 && slotLinkUp s n) then setSlotState s n 4 else s

/-! Events of the port. -/

def execFmpPresenceDetect (port : Fin 4) (s : State) : Out :=
  let n := port.val
  if slotPresent s n then idle s
  else done (slotEvents (setRf (setSlotState s n 1) (bFmp n) 0x110 0 0 1) n (place 3 3 1))

def execFmpPowerGood (port : Fin 4) (s : State) : Out :=
  let n := port.val
  if slotState s n = 2 then done (setRf (setSlotState s n 3) (bFmp n) 0x110 1 1 1) else idle s

/-- The link reaches L0 with `width` lanes at speed code `speed`. -/
def execFmpLinkL0 (port : Fin 4) (width speed : Nat) (s : State) : Out :=
  let n := port.val
  if slotState s n = 3 && !slotLinkUp s n then
    let s := setRf (setRf s (bFmp n) 0x110 42 38 (min width 8)) (bFmp n) 0x110 37 34 (min speed 6)
    let s := setRf s (bFmp n) 0x110 2 2 1
    let s := if blkEn s (bFmp n) then setSlotState s n 4 else s
    done (slotEvents s n (place 5 5 1))
  else idle s

/-- The failure code of an expander that R384 does not accept; 0 for one that it accepts. -/
def expanderCode (x : Expander) : Nat :=
  if !x.type3 then 3 else if !x.memActive then 5 else if !x.decoder || x.capacity < 0x10000000 then 4 else 0

def execFmpEnumerateDone (port : Fin 4) (x : Expander) (s : State) : Out :=
  let n := port.val
  if slotState s n = 4 then
    if expanderCode x = 0 then
      let s := { s with farBad := x.poisoned.foldl (fun m k => mapSet (fun _ => false) m (farBase n / 64 + k % 2 ^ 34) true)
                                    (s.farBad.filter fun e => !lineOfPort n false e.1) }
      done (cmdDone (setRf (setSlotState s n 5) (bFmp n) 0x110 55 43 (min 4096 (x.capacity / 0x10000000))) n 0)
    else done (slotFail s n (expanderCode x) 0)
  else idle s

/-- The limits of R386 with the FCODE of each. -/
def execFmpStateTimeout (port : Fin 4) (s : State) : Out :=
  let n := port.val
  let st := slotState s n
  if st = 2 then done (slotFail s n 1 0)
  else if st = 3 && !slotLinkUp s n then done (slotFail s n 2 0)
  else if st = 4 then done (slotFail s n 5 0)
  else idle s

def execFmpDrainDone (port : Fin 4) (s : State) : Out :=
  let n := port.val
  if slotState s n = 6 && !portBusy s n then
    let s := slotLinkDown (portRecall s n) n
    done (cmdDone (slotPowerOff (setSlotState s n 1) n) n (place 5 5 1))
  else idle s

/-- R391: presence falls, or the link leaves L0 through link down. -/
def execFmpSurpriseRemoval (port : Fin 4) (how : Removal) (s : State) : Out :=
  let n := port.val
  let up := slotLinkUp s n
  match how with
  | .presence button =>
    if slotPresent s n then
      let s := setRf (setSlotState (slotLinkDown s n) n 0) (bFmp n) 0x110 1 0 0
      let s := setFmpCmd (setRf s (bFmp n) 0x108 10 8 7) n false
      done (slotEvents (expanderLost (portVanish s n) n) n (place 3 3 1 ||| evIf up 5 ||| evIf button 0 ||| dirtyLost s n))
    else idle s
  | .linkDown => if up then
    let s := slotLinkDown s n
    done (slotFail (portVanish s n) n 6 (place 5 5 1 ||| dirtyLost s n))
  else idle s

def execFmpPowerFault (port : Fin 4) (s : State) : Out :=
  let n := port.val
  if 2 ≤ slotState s n then
    let up := slotLinkUp s n
    let s := slotPowerOff (slotLinkDown s n) n
    done (slotFail (portVanish s n) n 1 (place 1 1 1 ||| evIf up 5 ||| dirtyLost s n))
  else idle s

def execFmpAttentionButton (port : Fin 4) (s : State) : Out := done (slotEvents s port.val (place 0 0 1))

end Sys2Proof.Machine
end

