-- ==== Sys2Proof/Machine/FaultCmd.lean ====
section
/-! DEFINITION. Link retries, links inside the package going down, and condition sources (R220, R411, R420, R421). -/

namespace Sys2Proof.Machine

/-- The participants of the jig region that core `c` leads now, being the lowest of those that run it (R221); [] for no such core. -/
def ledRegion (s : State) (c : Nat) : List Nat :=
  let l := regionCores s c
  if l.contains c && l.all (fun k => decide (c ≤ k)) then l else []

/-- R220, cause 0x07: regions whose participants the link joins take a slip (log entry 73). -/
def retrySlips (s : State) (crosses : List Nat → Bool) : State :=
  (s.cores.map Prod.fst).foldl (fun s c => if crosses (ledRegion s c) then slipStart s c 7 96 else s) s

/-- Some participant of mesh region `rg` and one of another cluster (R213). -/
def crossesMesh (rg : Nat) (l : List Nat) : Bool := l.any fun k => regionOf k = rg && l.any fun j => clusterOf j ≠ clusterOf k
def crossesSeam (l : List Nat) : Bool := l.any (fun k => dieOf k = 0) && l.any (fun k => dieOf k = 1)

def execLinkLevelRetry (link : Link) (s : State) : Out :=
  match link with
  | .ring cl => if running s then done (raiseFault s (.cluster cl) 2 none none) else idle s
  | .mesh rg => if running s then done (raiseFault (retrySlips s (crossesMesh rg.val)) (.drawer rg) 4 none none) else idle s
  | .seam => if running s then done (raiseFault (retrySlips s crossesSeam) .gfe 2 none none) else idle s
  | .ucie => done (raiseFault s .ep 0 none none)
  | .fmp n => if slotLinkUp s n.val then done (raiseFault s (.fmp n) 0 none none) else idle s
  | .dovetail n =>
    let o := 0x400 + 8 * n.val
    if rbit s .dt o 1 && regsLive s .dt then done (raiseFault (setRf s .dt o 63 32 (min (2 ^ 32 - 1) (rf s .dt o 63 32 + 1))) .dt 0 none none)
    else idle s

def execInternalLinkDown (link : IntLink) (s : State) : Out :=
  match link with
  | .mesh rg => done (condStart s (.drawer rg) 5)
  | .seam => done (condStart s .gfe 3)
  | .ucie => done (condStart s .ep 1)
  | .stackPhy n => done (condStart s (.stack n) 4)

def execPhyRetrain (stack : Fin 12) (s : State) : Out := done (raiseFault s (.stack stack) 3 none none)

/-- CONDITION_REEVENT (R420): a condition that still holds after its bit was cleared takes a new event. -/
def execConditionReevent (b : Blk) (src : Fin 32) (s : State) : Out :=
  if condHolds s b src.val && !rbit s b 0x40 src.val then done (raiseFault s b src.val none none) else idle s

/-- Is the source one that R411 marks as a condition? -/
def isCondSource (b : Blk) (src : Nat) : Bool := ((sources b)[src]?.map SrcDef.cond).getD false

/-- CONDITION_SOURCE_ENDS (R421). TEMPER_LOW holds while the lowest predicted life is below its limit (R436). -/
def execConditionSourceEnds (b : Blk) (src : Fin 32) (s : State) : Out :=
  if isCondSource b src.val && condHolds s b src.val
      && !(b = .pwr && src.val = 2 && decide ((lowestLife s).2 < rf s .pwr 0x200 63 56)) then
    done (let s := setCond s b src.val false
          if b = .pwr && decide (src.val = 3) then noteTemp s 48 none else s)
  else idle s

end Sys2Proof.Machine
end

