-- ==== Sys2Proof/Machine/Flags.lean ====
section
/-! DEFINITION. Conditions and predicate logic (R173), and the flags of CSTAT (R163). -/

namespace Sys2Proof.Machine

/-- The condition that COND names (R173). -/
def condition (cond : BitVec 3) (a b : Word) : Bool :=
  match cond.toNat with
  | 0 => a = b
  | 1 => a ≠ b
  | 2 => a.slt b
  | 3 => !a.slt b
  | 4 => a.ult b
  | 5 => !a.ult b
  | 6 => !a.getLsbD (b.toNat % 64)
  | _ => a.getLsbD (b.toNat % 64)

/-- PLOG's operation (R173); other codes are ILLEGAL. -/
def predOp (op : BitVec 4) (a b : Bool) : Bool :=
  match op.toNat with
  | 0 => a && b
  | 1 => a || b
  | 2 => a ^^ b
  | _ => a && !b

/-- QP and QN (R168): does an instruction execute? -/
def qualified (p : Prog) (h : Hdr) : Bool := preg p h.qp ^^ h.qn

/-- CSTAT as MFS reads it (R163). -/
def cstat (p : Prog) : Word :=
  place 7 7 (boolNat p.inexc) ||| place 6 6 (boolNat p.injig) ||| place 5 5 (boolNat p.armed) ||| place 4 4 (boolNat p.engf)
    ||| place 3 3 (boolNat p.covf) ||| place 2 2 (boolNat p.sigdrop) ||| place 1 1 (boolNat p.deadrd) ||| place 0 0 (boolNat p.lost)

/-- JIGSTAT (R163). -/
def jigstat (p : Prog) : Word :=
  place 63 48 p.jid.toNat ||| place 47 40 p.jcode.toNat ||| place 39 32 p.jorig.toNat ||| place 31 0 p.slips.toNat

/-- MTS to CSTAT (R163): a 0 clears an RW flag, a 1 leaves it. Clearing ENGF reopens the faulted engines (R186; log entry 76). -/
def writeCstat (p : Prog) (v : Word) : Prog :=
  let p := { p with covf := p.covf && flag v 3, sigdrop := p.sigdrop && flag v 2, deadrd := p.deadrd && flag v 1,
                    lost := p.lost && flag v 0 }
  if flag v 4 then p
  else { p with engf := false, faultedEng := [] }

end Sys2Proof.Machine
end

