-- ==== Sys2Proof/Machine/Sel.lean ====
section
/-! DEFINITION. SEL (R145-R160): candidates and their order, streams, SBEST, product-quantized scanning. -/

namespace Sys2Proof.Machine

/-! Order (R146). -/

/-- Candidate `a` is better than `b`. -/
def better (min : Bool) (a b : Cand) : Bool :=
  let x := dec32 a.score
  let y := dec32 b.score
  if numCmp x y = some (if min then .lt else .gt) then true
  else if numCmp x y = some (if min then .gt else .lt) then false
  else if a.id ≠ b.id then decide (a.id.toNat < b.id.toNat)
  else if a.aux ≠ b.aux then decide (a.aux.toNat < b.aux.toNat)
  else decide (a.score.toNat < b.score.toNat)

def insertBest (min : Bool) (a : Cand) : List Cand → List Cand
  | [] => [a]
  | b :: t => if better min a b then a :: b :: t else b :: insertBest min a t

def streamClosed : Stream := { isOpen := false, inJig := false, k := 0, min := false, entries := [] }
def streamOf (p : Prog) (n : Nat) : Stream := mapGet (fun _ => streamClosed) p.streams n
def setStream (p : Prog) (n : Nat) (x : Stream) : Prog := { p with streams := mapSet (fun _ => streamClosed) p.streams n x }

def streamFull (x : Stream) : Bool := decide (x.k ≤ x.entries.length)

/-- The worst held entry does not beat the candidate (R150). -/
def passes (x : Stream) (a : Cand) : Bool :=
  !streamFull x || (match x.entries.getLast? with
    | some b => better x.min a b
    | none => false)

/-! Events of SEL_EVT (R159), as masks. -/

def selSHORT : Nat := 1
def selPOISON : Nat := 2
def selNAN : Nat := 4

/-- A candidate meets a stream (R147, R149, R158): dropped where its score is NaN, else inserted where it is among the best. -/
def pushOne (st : Stream × Nat) (a : Cand) : Stream × Nat :=
  if isNan32 a.score then (st.1, st.2 ||| selNAN)
  else if passes st.1 a then
    ({ st.1 with entries := (insertBest st.1.min a st.1.entries).take st.1.k }, st.2 ||| (if a.poison then selPOISON else 0))
  else st

def pushAll (st : Stream × Nat) (l : List Cand) : Stream × Nat := l.foldl pushOne st

/-- A list that SPUSHL pushes: the stream and the events, the stream as it stood at the group's start, the entries read, those of them
screened, and whether SORTED has stopped the reading. -/
structure Pushed where
  st : Stream × Nat
  start : Stream
  read : Nat
  seen : Nat
  stopped : Bool
  deriving DecidableEq, Repr

/-- The next entry: a group of 64 is screened against the worst entry at its start, and with SORTED reading stops at the first entry
that fails (R150, R151). -/
def pushNext (sorted : Bool) (x : Pushed) (a : Cand) : Pushed :=
  if x.stopped then x
  else
    let start := if x.read % 64 = 0 then x.st.1 else x.start
    let seen := x.seen + boolNat (!isNan32 a.score)
    if sorted && !isNan32 a.score && !passes start a then { x with seen, stopped := true }
    else { st := pushOne x.st a, start, read := x.read + 1, seen, stopped := false }

/-! Descriptors (R160). -/

def qStream (d : List Word) : Nat := fld (wordAt d 0) 55 52
def qNrows (d : List Word) : Nat := fld (wordAt d 0) 51 47
def qDir (d : List Word) : Bool := flag (wordAt d 0) 46
def qIdarr (d : List Word) : Bool := flag (wordAt d 0) 45
def qSorted (d : List Word) : Bool := flag (wordAt d 0) 44
def qRelease (d : List Word) : Bool := flag (wordAt d 0) 43
def qSfmt (d : List Word) : Nat := fld (wordAt d 0) 42 38
def qDfmt (d : List Word) : Nat := fld (wordAt d 0) 37 36
def qCount (d : List Word) : Nat := fld (wordAt d 0) 31 0
def qX (d : List Word) : Nat := fld (wordAt d 1) 63 32
def qXs (d : List Word) : Nat := fld (wordAt d 1) 31 0
def qId (d : List Word) : Nat := fld (wordAt d 2) 63 32
def qIdStep (d : List Word) : Nat := fld (wordAt d 2) 31 0
def qT (d : List Word) : Nat := fld (wordAt d 4) 63 32
def qTs (d : List Word) : Nat := fld (wordAt d 4) 31 0
def qPqM (d : List Word) : Nat := fld (wordAt d 5) 63 56
def qPqBits (d : List Word) : Nat := fld (wordAt d 5) 55 52
def qRows (d : List Word) : Nat := fld (wordAt d 5) 47 32

/-- The bits that an operation uses. -/
def selUsed (code : Nat) (idarr : Bool) : List Word :=
  let op := fieldMask 63 56
  let stm := fieldMask 55 52
  let nr := fieldMask 51 47
  let cnt := fieldMask 31 0
  let hi := fieldMask 63 32
  let lo := fieldMask 31 0
  let all := fieldMask 63 0
  match code with
  | 0x60 => [op ||| stm ||| fieldMask 46 46 ||| cnt, 0, 0, 0, 0, 0, 0, 0]
  | 0x61 => [op ||| stm ||| nr ||| fieldMask 45 45 ||| fieldMask 42 38 ||| cnt, all, if idarr then hi else lo, if idarr then 0 else all, 0, lo, 0, 0]
  | 0x62 => [op ||| stm ||| fieldMask 44 44 ||| cnt, hi, 0, 0, 0, 0, 0, 0]
  | 0x63 => [op ||| stm ||| fieldMask 43 43, hi, hi, 0, 0, 0, 0, 0]
  | 0x64 => [op ||| stm ||| nr ||| fieldMask 45 45 ||| fieldMask 37 36 ||| cnt, all, if idarr then hi else 0, if idarr then 0 else all, all,
             fieldMask 63 52 ||| lo, 0, 0]
  | _ => [op ||| fieldMask 46 44 ||| fieldMask 42 38 ||| cnt, all, if idarr then hi else lo, if idarr then 0 else all, hi, fieldMask 47 0, 0, 0]

def selOk (code : Nat) (d : List Word) : Bool :=
  ((selUsed code (qIdarr d)).zip d).all (fun q => decide (q.2 &&& ~~~q.1 = 0))
    && decide (qX d % 16 = 0) && decide (qXs d % 16 = 0) && decide (qT d % 16 = 0) && decide (qTs d % 64 = 0) && decide (qId d % 8 = 0)
    && decide (qStream d + qNrows d ≤ 16)
    && (match code with
      | 0x60 => decide (1 ≤ qCount d) && decide (qCount d ≤ 1024)
      | 0x61 => decide (1 ≤ qNrows d) && decide (qNrows d ≤ 16) && decide (qSfmt d ≤ 2)
      | 0x64 => decide (1 ≤ qNrows d) && decide (qNrows d ≤ 16) && decide (qDfmt d ≤ 1) && decide (1 ≤ qPqM d)
          && (decide (qPqBits d = 4) || decide (qPqBits d = 8))
      | 0x65 => decide (qSfmt d ≤ 2) && decide (1 ≤ qRows d)
      | _ => true)

/-- The streams that an operation names are open (R148). -/
def streamsOpen (p : Prog) (s n : Nat) : Bool := (List.range n).all fun i => (streamOf p (s + i)).isOpen

def selEvent (c mask : Nat) : M Unit := modify fun s => engEvent s c 0x280 mask

/-! Reading candidates. -/

/-- The targets of an array read in one piece; none for an empty one. -/
def arrTarget (c : Nat) (ctx : BitVec 12) (off n : Nat) (p : Perm) : M (List Target) :=
  if n = 0 then return [] else do
    let t ← operandRow c ctx false off n p
    return [t]

def arrRead (w : Who) (n : Nat) : List Target → M Row
  | [] => return rowNil
  | t :: _ => readRow w t n

/-- Scores of a row as FP32 with their marks (R149). -/
def scoreRow (f : Fmt) (n : Nat) (r : Row) : List (BitVec 32 × Bool) := (rowEls f [] false n r).map fun q => (enc32 .rne q.1, q.2)

/-- ID of candidate `i` overall, and its mark (R155). -/
def candId (d : List Word) (ids : Row) (r i ofs : Nat) : Word × Bool :=
  if qIdarr d then (BitVec.ofNat 64 (ofBytes ((ids.bytes.drop (8 * i)).take 8)), ((ids.pois.drop (8 * i)).take 8).any id)
  else (wordAt d 3 + BitVec.ofNat 64 (r * qIdStep d + ofs), false)

def candAux (d : List Word) : BitVec 32 := BitVec.ofNat 32 (fld (wordAt d 5) 31 0)

/-- The candidates of row `r` of SPUSH or SBEST. -/
def rowCands (d : List Word) (ids : Row) (r : Nat) (scores : List (BitVec 32 × Bool)) : List Cand :=
  ((List.range scores.length).zip scores).map fun q =>
    let i := candId d ids r (r * qCount d + q.1) q.1
    { id := i.1, aux := candAux d, score := q.2.1, poison := q.2.2 || i.2 }

/-- A 16-byte entry (R145). -/
def candOf (bs : List Byte) (bad : Bool) : Cand :=
  { score := BitVec.ofNat 32 (ofBytes (bs.take 4)), aux := BitVec.ofNat 32 (ofBytes ((bs.drop 4).take 4)),
    id := BitVec.ofNat 64 (ofBytes ((bs.drop 8).take 8)), poison := bad }

def candBytes (a : Cand) : List Byte := toBytes 4 a.score.toNat ++ toBytes 4 a.aux.toNat ++ toBytes 8 a.id.toNat

def entryCands (n : Nat) (r : Row) : List Cand :=
  (List.range n).map fun i => candOf ((r.bytes.drop (16 * i)).take 16) (((r.pois.drop (16 * i)).take 16).any id)

def candRow (l : List Cand) : Row := { bytes := l.flatMap candBytes, pois := l.flatMap fun a => List.replicate 16 a.poison }

/-- SPUSHL reads its entries chunk by chunk until it has them all or has stopped (R151). -/
def pushList (w : Who) (t : Target) (sorted : Bool) : List (Nat × Nat × Nat) → Pushed → M Pushed
  | [], x => return x
  | (k, off, n) :: rest, x => do
    if x.stopped then return x
    let d ← readPart w t k off n
    pushList w t sorted rest ((entryCands (n / 16) { bytes := d.1, pois := List.replicate n d.2 }).foldl (pushNext sorted) x)

/-- Pushed streams take their new content. -/
def setStreams (c : Nat) (l : List (Nat × Stream)) : M Unit :=
  modify fun s => updProg s c fun p => l.foldl (fun p e => setStream p e.1 { e.2 with inJig := e.2.inJig || p.injig }) p

/-- Candidates that are screened: a NaN score is dropped before it (R149). -/
def screened (l : List Cand) : Nat := (l.filter fun a => !isNan32 a.score).length

/-- The candidates that a push has screened are counted (R440). -/
def countSeen (c n : Nat) : M Unit := modify fun s => coreCtr s c 5 n

/-! The operations. -/

def sopenBody (c : Nat) (_ : Prog) (op : EngOp) : M Unit := do
  let d := op.desc
  require' c 3 (selOk 0x60 d)
  modify fun s => updProg s c fun p =>
    setStream p (qStream d) { isOpen := true, inJig := p.injig, k := qCount d, min := qDir d, entries := [] }

def spushBody (c : Nat) (p : Prog) (op : EngOp) : M Unit := do
  let d := op.desc
  require' c 3 (selOk 0x61 d && streamsOpen p (qStream d) (qNrows d))
  let f := fmtEntry [] (qSfmt d)
  let n := rowBytes f.width (qCount d)
  let xs ← if n = 0 then pure [] else operandRows c p.ctx false (qXs d) n .r (qNrows d) (qX d)
  let it ← if qIdarr d then arrTarget c p.ctx (qId d) (8 * qNrows d * qCount d) .r else pure []
  let s ← get
  let w := whoCore s c
  let rows ← readRowList w n xs
  let ids ← arrRead w (8 * qNrows d * qCount d) it
  let cs := ((List.range rows.length).zip rows).map fun q => (qStream d + q.1, rowCands d ids q.1 (scoreRow f (qCount d) q.2))
  let res := cs.map fun q => (q.1, pushAll (streamOf p q.1, 0) q.2)
  setStreams c (res.map fun e => (e.1, e.2.1))
  countSeen c (screened (cs.flatMap Prod.snd))
  selEvent c (res.foldl (fun m e => m ||| e.2.2) 0)

def spushlBody (c : Nat) (p : Prog) (op : EngOp) : M Unit := do
  let d := op.desc
  require' c 3 (selOk 0x62 d && streamsOpen p (qStream d) 1)
  let n := 16 * qCount d
  let xt ← arrTarget c p.ctx (qX d) n .r
  let s ← get
  let st := streamOf p (qStream d)
  let x0 : Pushed := { st := (st, 0), start := st, read := 0, seen := 0, stopped := false }
  let x ← match xt with
    | [] => pure x0
    | t :: _ => pushList (whoCore s c) t (qSorted d && !op.inJig) (parts t.addr n) x0
  setStreams c [(qStream d, x.st.1)]
  countSeen c x.seen
  selEvent c x.st.2

def sreadBody (c : Nat) (p : Prog) (op : EngOp) : M Unit := do
  let d := op.desc
  require' c 3 (selOk 0x63 d && streamsOpen p (qStream d) 1)
  let st := streamOf p (qStream d)
  let n := st.entries.length
  let xt ← arrTarget c p.ctx (qX d) (16 * n) .w
  let nt ← operandRow c p.ctx false (qId d) 8 .w
  let s ← get
  let w := whoCore s c
  writeRowList c w (xt.map fun t => (t, candRow st.entries))
  writeRow c w nt (cleanRow (toBytes 8 n))
  if qRelease d then modify fun s => updProg s c fun p => setStream p (qStream d) streamClosed
  selEvent c (if n < st.k then selSHORT else 0)

/-- The score of code vector `v` against one query's table, with its mark (R157). -/
def pqScore (d : List Word) (codes : Row) (lut : Row) : BitVec 32 × Bool :=
  let b := qPqBits d
  let ms := List.range (qPqM d)
  let ix := fun m => m * 2 ^ b + elemBits b codes.bytes m
  let bad := codes.bad || (ms.any fun m => elemPois (if qDfmt d = 0 then 8 else 16) lut (ix m))
  if qDfmt d = 0 then
    (enc32 .rne (numOfInt (ms.foldl (fun a m => a + elemBits 8 lut.bytes (ix m)) 0) 0), bad)
  else
    (ms.foldl (fun a m => add32 a (enc32 .rne (decodeFloat fmtFp16 (elemBits 16 lut.bytes (ix m))))) 0, bad)

def pqscanBody (c : Nat) (p : Prog) (op : EngOp) : M Unit := do
  let d := op.desc
  require' c 3 (selOk 0x64 d && streamsOpen p (qStream d) (qNrows d))
  let n := rowBytes (qPqBits d) (qPqM d)
  let tn := qPqM d * 2 ^ qPqBits d * (if qDfmt d = 0 then 1 else 2)
  let xs ← operandRows c p.ctx false (qXs d) n .r (qCount d) (qX d)
  let it ← if qIdarr d then arrTarget c p.ctx (qId d) (8 * qCount d) .r else pure []
  let ts ← operandRows c p.ctx false (qTs d) tn .r (qNrows d) (qT d)
  let s ← get
  let w := whoCore s c
  let vs ← readRowList w n xs
  let ids ← arrRead w (8 * qCount d) it
  let luts ← readRowList w tn ts
  let cs := ((List.range luts.length).zip luts).map fun q => (qStream d + q.1, ((List.range vs.length).zip vs).map fun v =>
    let i := candId d ids 0 v.1 v.1
    let sc := pqScore d v.2 q.2
    ({ id := i.1, aux := candAux d, score := sc.1, poison := sc.2 || i.2 } : Cand))
  let res := cs.map fun q => (q.1, pushAll (streamOf p q.1, 0) q.2)
  setStreams c (res.map fun e => (e.1, e.2.1))
  countSeen c (screened (cs.flatMap Prod.snd))
  selEvent c (res.foldl (fun m e => m ||| e.2.2) 0)

/-- One row of SBEST (R154): the new state and the events. -/
def sbestRow (min first : Bool) (old : Cand) (cs : List Cand) : Cand × Nat :=
  let nan := if (cs.any fun a => isNan32 a.score) || (!first && isNan32 old.score) then selNAN else 0
  let best := fun (b : Option Cand) (a : Cand) => match b with
    | none => some a
    | some x => if better min a x then some a else b
  let good := cs.filter fun a => !isNan32 a.score
  let b := good.foldl best (if first || isNan32 old.score then none else some old)
  match b with
  | none => (if first then { id := BitVec.allOnes 64, aux := 0, score := 0x7FC00000, poison := false } else old, nan)
  | some a => (a, nan ||| (if a.poison && (first || a ≠ old) then selPOISON else 0))

def sbestBody (c : Nat) (p : Prog) (op : EngOp) : M Unit := do
  let d := op.desc
  require' c 3 (selOk 0x65 d)
  let f := fmtEntry [] (qSfmt d)
  let n := rowBytes f.width (qCount d)
  let xs ← if n = 0 then pure [] else operandRows c p.ctx false (qXs d) n .r (qRows d) (qX d)
  let it ← if qIdarr d then arrTarget c p.ctx (qId d) (8 * qRows d * qCount d) .r else pure []
  let ts ← operandRows c p.ctx false 16 16 .w (qRows d) (qT d)
  if !qSorted d then
    let _ ← operandRows c p.ctx false 16 16 .r (qRows d) (qT d)
  let s ← get
  let w := whoCore s c
  let rows ← readRowList w n xs
  let ids ← arrRead w (8 * qRows d * qCount d) it
  let old ← if qSorted d then pure [] else readRowList w 16 ts
  let res := (List.range (qRows d)).map fun r =>
    sbestRow (qDir d) (qSorted d) ((entryCands 1 (old.getD r rowNil)).headD { id := 0, aux := 0, score := 0, poison := false })
      (rowCands d ids r (match rows[r]? with
        | some x => scoreRow f (qCount d) x
        | none => []))
  writeRowList c w (ts.head?.toList.map fun t => (t, candRow (res.map Prod.fst)))
  selEvent c (res.foldl (fun m e => m ||| e.2) 0)

def execSelSopen (core : CoreIx) (s : State) : Out := engineRun s core.val 3 0x60 (sopenBody core.val)
def execSelSpush (core : CoreIx) (s : State) : Out := engineRun s core.val 3 0x61 (spushBody core.val)
def execSelSpushl (core : CoreIx) (s : State) : Out := engineRun s core.val 3 0x62 (spushlBody core.val)
def execSelSread (core : CoreIx) (s : State) : Out := engineRun s core.val 3 0x63 (sreadBody core.val)
def execSelPqscan (core : CoreIx) (s : State) : Out := engineRun s core.val 3 0x64 (pqscanBody core.val)
def execSelSbest (core : CoreIx) (s : State) : Out := engineRun s core.val 3 0x65 (sbestBody core.val)

end Sys2Proof.Machine
end

