-- ==== Sys2Proof/Machine/Save.lean ====
section
/-! DEFINITION. The image of a task in a save slot (R314), which quench also reads (R455). The table gives areas; where it
gives no layout within one, registers stand in the order it names them (log entry 219), and other bytes are free. -/

namespace Sys2Proof.Machine

/-- Byte `i` of a word. -/
def byteOf (v i : Nat) : Byte := BitVec.ofNat 8 (v >>> (8 * i))

/-- Bank element number `i` in element order: 32 bytes as XP32, or 4 as FP32 (R86). -/
def bankByte (b : Bank) (o : Nat) : Byte :=
  match b.mode with
  | .ordered => byteOf (bankElem b (o / 512) (o / 4 % 128)).f32.toNat (o % 4)
  | _ => (accBytes (bankElem b (o / 4096) (o / 32 % 128)).acc).getD (o % 32) 0

/-- The header's first words: task identifier, resume CA and CSTAT (log entry 219). -/
def saveHead (p : Prog) : List Word := [p.taskId.setWidth 64, p.pc.setWidth 64, cstat p]

/-- The registers from EHND to the lock mask, 8 bytes each (log entry 219). -/
def saveRegs (p : Prog) : List Word :=
  [p.ehnd.setWidth 64, p.epc.setWidth 64, p.ecode.setWidth 64, p.einfo, p.eaddr.setWidth 64, jigstat p, p.mark.setWidth 64,
    p.numsum.setWidth 64, p.poisonCnt, p.missCnt, p.lockMask.setWidth 64]

/-- p0 to p15 and c0 to c15, 4 bytes each (log entry 219). -/
def savePc (p : Prog) (i : Nat) : Nat := if i < 16 then boolNat (preg p (BitVec.ofNat 4 i)) else (credit p (i - 16)).toNat

/-- A codebook slot as CBLD loads it (R59); none while it is invalid. -/
def saveCb (p : Prog) (i o : Nat) : Option Byte :=
  match mapFind? p.cb i with
  | some b => if b.valid then some (if o < 16 then b.bytes.getD o 0 else if o = 16 then BitVec.ofNat 8 (boolNat b.base) else 0) else none
  | none => none

/-- A curve slot as CLD loads it (R100); none while it is invalid. -/
def saveCurve (p : Prog) (i o : Nat) : Option Byte :=
  match mapFind? p.curves i with
  | some v => if v.valid then v.bytes[o]? else none
  | none => none

/-- The byte at offset `o` of a task's slot; none where the manual does not say what it holds. -/
def saveByte (p : Prog) (o : Nat) : Option Byte :=
  if o < 0x18 then some (byteOf (wordAt (saveHead p) (o / 8)).toNat (o % 8))
  else if 0x40 ≤ o ∧ o < 0x240 then some (byteOf (sreg p (BitVec.ofNat 6 ((o - 0x40) / 8))).toNat (o % 8))
  else if 0x240 ≤ o ∧ o < 0x2C0 then some (byteOf (savePc p ((o - 0x240) / 4)) (o % 4))
  else if 0x2C0 ≤ o ∧ o < 0x318 then some (byteOf (wordAt (saveRegs p) ((o - 0x2C0) / 8)).toNat (o % 8))
  else if 0x400 ≤ o ∧ o < 0x480 then some (byteOf (mapGet (fun _ => 0) p.fmt (16 + (o - 0x400) / 8)).toNat (o % 8))
  else if 0x480 ≤ o ∧ o < 0x580 then some (byteOf (mapGet (fun _ => 0) p.rules ((o - 0x480) / 16)).toNat (o % 16))
  else if 0x600 ≤ o ∧ o < 0x800 then saveCb p ((o - 0x600) / 32) (o % 32)
  else if 0x800 ≤ o ∧ o < 0x2A00 then saveCurve p ((o - 0x800) / 1088) ((o - 0x800) % 1088)
  else if 0x8000 ≤ o ∧ o < 0x48000 then
    let x := streamOf p ((o - 0x8000) / 0x4000)
    match (if x.isOpen then x.entries[(o - 0x8000) % 0x4000 / 16]? else none) with
    | some c => (candBytes c)[o % 16]?
    | none => none
  else if 0x48000 ≤ o ∧ o < 0xC8000 then
    let b := mapGet (fun _ => { mode := .empty, live := false, elems := [] }) p.banks ((o - 0x48000) / 0x40000)
    if b.live && (b.mode ≠ .ordered || decide ((o - 0x48000) % 0x40000 < 0x8000)) then some (bankByte b ((o - 0x48000) % 0x40000)) else none
  else none

/-- `n` bytes of the slot from `o`; the bytes that the manual leaves open come from the free value `f`. -/
def saveBytes (p : Prog) (o n f : Nat) : List Byte := (List.range n).map fun i => (saveByte p (o + i)).getD (byteOf f i)

end Sys2Proof.Machine
end

