-- ==== Sys2Proof/Machine/Quench.lean ====
section
/-! DEFINITION. Trace (R444-R447), tensor watches (R448), and quench with its read window (R450-R455). -/

namespace Sys2Proof.Machine

/-! Trace. -/

/-- KERF enters a FIFO that has room after drops (R445, R446). -/
def kerf (s : State) (k : Nat) : State :=
  let f := fifo s k
  if f.drops = 0 then s
  else globalCtr (setFifo s k { recs := f.recs ++ [[place 63 60 15 ||| place 59 51 0x1FF, f.first,
      place 63 32 f.drops ||| place 31 0 (if k = 48 then 0xFFFFFFFF else k), f.last]], drops := 0, first := 0, last := 0 }) 121 1

/-- A record counts as dropped. -/
def fifoDropped (s : State) (k : Nat) : State :=
  let f := fifo s k
  setFifo s k { f with drops := f.drops + 1, first := if f.drops = 0 then s.stc else f.first, last := s.stc }

def traceLog2 (s : State) : Nat := wkf s .dbg 0x308 63 59

/-- The buffer slot of the next record (R447). -/
def traceSlot (s : State) : Nat := wkf s .dbg 0x308 51 12 * 4096 + 32 * (rf s .dbg 0x310 31 0 % 2 ^ traceLog2 s)

/-- A record reaches the trace buffer. -/
def traceWrite (s : State) (r : List Word) : State :=
  let n := rf s .dbg 0x310 31 0
  let cap := 2 ^ traceLog2 s
  if flag (wk s .dbg 0x300) 62 && decide (cap ≤ n) then setRf s .dbg 0x310 63 32 (rf s .dbg 0x310 63 32 + 1)
  else
    let s := globalCtr (setRf (gfeWrite s (traceSlot s) (bytesOfWords r)) .dbg 0x310 31 0 (n + 1)) 120 1
    if flag (wk s .dbg 0x300) 62 && decide (n + 1 = cap) then raise s .dbg 0x100 1 else s

def execTraceFifoDrain (fifo : Option ClusterIx) (s : State) : Out :=
  let k := match fifo with
    | some c => c.val
    | none => 48
  match (Sys2Proof.Machine.fifo s k).recs with
  | [] => idle s
  | r :: rest =>
    let a := traceSlot s
    if !running s || decide (traceLog2 s < 10) || decide (30 < traceLog2 s) || decide (12 * stackSize < a + 32) then idle s
    else if !gfeReady s a 32 then done (gfeSnoop s a 32)
    else
      let s := setFifo s k { Sys2Proof.Machine.fifo s k with recs := rest }
      let q := fireInjection s .dbg 0 none none
      done (if q.1 then kerf (fifoDropped q.2 k) k else kerf (traceWrite q.2 r) k)

/-- A write of TRACE_CTL starts tracing (R447). -/
def traceStart (s : State) : State :=
  setReg (setWk (setWk s .dbg 0x300 (reg s .dbg 0x300)) .dbg 0x308 (reg s .dbg 0x308)) .dbg 0x310 0

/-! Tensor watches. -/

def wCtl (w : Nat) : Nat := 0x400 + 32 * w

def watchPendOf (s : State) (w : Nat) : Option WatchPend := mapGet (fun _ => none) s.watchPend w
def setWatchPend (s : State) (w : Nat) (x : Option WatchPend) : State := { s with watchPend := mapSet (fun _ => none) s.watchPend w x }

/-- OP_END of a core: every watch that matches counts, and an armed one whose COUNT reaches STEP fires. -/
def watchMatch (s : State) (c : Nat) (p : Prog) (layer oper : Nat) (w2 : Word) : State :=
  if !blkEn s .dbg then s else
  (List.range 8).foldl (fun s w =>
    let ctl := reg s .dbg (wCtl w)
    if fld ctl 43 32 = p.ctx.toNat ∧ rf s .dbg (wCtl w + 8) 63 48 = layer ∧ rf s .dbg (wCtl w + 8) 47 32 = oper
        ∧ (flag ctl 60 ∨ fld ctl 58 50 = c) then
      let n := (rf s .dbg (wCtl w + 8) 31 0 + 1) % 2 ^ 32
      let s := setRf s .dbg (wCtl w + 8) 31 0 n
      if flag ctl 63 && decide (n = max 1 (fld ctl 31 0)) && (watchPendOf s w).isNone then
        setWatchPend s w (some { core := c, ctx := p.ctx, marks := (List.range 6).map (fun e => (e, mapGet (fun _ => 0) p.issued e)), recWord2 := w2 })
      else s
    else s) s

/-- The engine operations that the marking core issued before the MARK have completed. -/
def watchReady (s : State) (x : WatchPend) : Bool :=
  match prog? s x.core with
  | some p => x.marks.all fun m => (queue p m.1).all fun o => decide (m.2 ≤ o.ord)
  | none => true

/-- Copy `n` chunks from the scratchpad to stack memory with their poison. -/
def watchChunks (s : State) (src dst : Nat) : Nat → State
  | 0 => s
  | n + 1 =>
    let s := watchChunks s src dst n
    let r := gfeRead s whoNone (src + 64 * n) 64 none
    chunkWrite (recallLine r.2 false (dst / 64 + n)) whoNone (dst / 64 + n) 0 r.1.1 r.1.2 none

/-- Chunks that a watch copies: the copy stops at the scratchpad's end (R448). -/
def watchLen (s : State) (w : Nat) : Nat := min (min 1024 (rf s .dbg (wCtl w + 16) 63 53)) (spadSize / 64 - rf s .dbg (wCtl w + 16) 21 6)

def watchDst (s : State) (w : Nat) : Nat := rf s .dbg (wCtl w + 24) 51 6 * 64

def watchCopied (s : State) (w : Nat) (x : WatchPend) : State :=
  let off := rf s .dbg (wCtl w + 16) 21 6
  let n := watchLen s w
  let dst := watchDst s w
  let s := if coreEnabled s x.core && decide (dst + 64 * n ≤ 12 * stackSize) then watchChunks s (spadBase x.core + 64 * off) dst n else s
  let ctl := reg s .dbg (wCtl w)
  let s := setReg (setWatchPend s w none) .dbg (wCtl w) (setFld (setFld ctl 63 63 0) 59 59 1)
  let s := if flag ctl 62 then raise s .dbg 0x100 0 else s
  if flag ctl 61 then traceRec s x.core 6 x.ctx.toNat x.recWord2 (place 63 12 dst ||| place 2 0 w) else s

def execWatchCopy (w : Fin 8) (s : State) : Out :=
  match watchPendOf s w.val with
  | some x =>
    if !(running s && watchReady s x) then idle s
    else if gfeReady s (watchDst s w.val) (64 * watchLen s w.val) then done (watchCopied s w.val x)
    else done (gfeSnoop s (watchDst s w.val) (64 * watchLen s w.val))
  | none => idle s

/-- A write of WATCHw_CTL: ARM written 1 zeroes COUNT and FIRED. -/
def watchCtl (s : State) (w : Nat) (v : Word) : State :=
  let s := setReg s .dbg (wCtl w) v
  if flag v 63 then setRf (setRf s .dbg (wCtl w) 59 59 0) .dbg (wCtl w + 8) 31 0 0 else setWatchPend s w none

/-! Quench. -/

def qState (s : State) : Nat := rf s .dbg 0x200 59 58

/-- The first common root edge, every 12th CCLK cycle, at least 48 effective root cycles after a trigger now (R23, R451). -/
def stopEdge (s : State) : QuenchEdge := { edge := BitVec.ofNat 64 ((s.cclk.toNat + 24 + 11) / 12 * 12), half := rootHalf s, moved := false }

/-- A trigger (R450): 1 pin, 2 register, 3 STC. -/
def quenchTrigger (s : State) (cause : Nat) : State :=
  if qState s = 0 then
    let t := if cause = 3 then setRf s .dbg 0x200 60 60 0 else s
    setReg (setRf { t with qedge := some (stopEdge s) } .dbg 0x200 59 56 (4 + cause)) .dbg 0x210 s.stc
  else s

def execQuenchPin (s : State) : Out := if rbit s .dbg 0x200 61 then done (quenchTrigger s 1) else idle s

def execQuenchAtReached (s : State) : Out :=
  if rbit s .dbg 0x200 60 && decide ((reg s .dbg 0x208).toNat ≤ s.stc.toNat) then done (quenchTrigger s 3) else idle s

/-- The delay from the trigger to the stop edge in 1/16 ns: 10.0 to 14.8 ns at FULL, 20.0 to 29.6 ns at HALF, between these bounds
where the operating point has changed (R451). -/
def stopDelay (q : QuenchEdge) (ofs : Nat) : Bool :=
  decide (ofs ≤ 473) && decide (160 ≤ ofs) && (q.moved || (if q.half then decide (320 ≤ ofs) else decide (ofs ≤ 236)))

/-- CCLK has come to the stop edge of the triggered quench, `ofs` after the trigger. -/
def stopDue (s : State) (ofs : Nat) : Bool :=
  match s.qedge with
  | some q => decide (s.cclk = q.edge) && stopDelay q ofs
  | none => false

/-- The stop edge (R451); `ofs` is the delay taken in 1/16 ns. -/
def execQuenchStop (ofs : BitVec 16) (s : State) : Out :=
  if qState s = 1 && stopDue s ofs.toNat then
    done (raise (setRf (setRf { s with qedge := none } .dbg 0x200 59 58 2) .dbg 0x220 15 0 ofs.toNat) .dbg 0x100 2)
  else idle s

/-- RELEASE (R453). -/
def quenchRelease (s : State) : State := if qState s = 2 then setRf s .dbg 0x200 59 58 3 else s

def execQuenchRestart (s : State) : Out := if qState s = 3 then done (serveAllSnoops (quenchOver s)) else idle s

/-! The frozen state (R455). -/

/-- A cache's line at byte `o` of its structure: 64 data bytes, open where no line is held, then 64 bytes whose layout
is open. -/
def lineByte (m : SMap CLine) (o : Nat) : Option Byte :=
  if o % 128 < 64 then (mapFind? m (o / 128)).map fun l => l.data.getD (o % 128) 0 else none

/-- Byte `o` of structure `st` of unit `u`: outer none, beyond it; inner none, a byte that the manual leaves open. -/
def frozenByte (s : State) (st u o : Nat) : Option (Option Byte) :=
  match st with
  | 0 => if coreEnabled s u && decide (o < spadSize) then some (some (memByte s (spadBase u + o))) else none
  | 1 => if coreEnabled s u && decide (o < 22784) then some ((prog? s u).bind fun p => saveByte p o) else none
  | 2 => if coreEnabled s u && decide (o < 0xC0000) then some ((prog? s u).bind fun p => saveByte p (0x8000 + o)) else none
  | 3 => if coreEnabled s u && decide (o < 0x20000) then some (lineByte (core s u).dcache o) else none
  | 4 => if coreEnabled s u && decide (o < 0x20000) then some none else none
  | 5 => if u < 48 ∧ o < 0x2000000 then some (lineByte (cluster s u).ccache o) else none
  | 6 => if coreEnabled s u && decide (o < drawerSize) then some (some (memByte s (drawerBase u + o))) else none
  | 7 => if u < 12 ∧ o < stackSize then some (some (memByte s (u * stackSize + o))) else none
  | 8 => if u < 2 ∧ o < 0x100000 then some none else none
  | 9 => if u < 2 ∧ o < 0x4000000 then some (lineByte s.devc (u * 0x4000000 + o)) else none
  | 10 => if u < 16 ∧ o < 0x40000 then some none else none
  | _ => none

/-- Bytes of the frozen state; outside quench all 0. -/
def frozenBytes (s : State) (st u o n : Nat) : List Byte × State :=
  let f := freeNat s
  if qState s = 2 then
    ((List.range n).map fun i => match frozenByte s st u (o + i) with
      | some (some b) => b
      | some none => byteOf f.1 i
      | none => 0, f.2)
  else (List.replicate n 0, s)

/-- QUENCH_WINDOW_READ at window offset `off`. -/
def execQuenchWindowRead (off len : Nat) (s : State) : Out :=
  if claims s && decide (off + len ≤ 0x10000) && decide (1 ≤ len) && decide (len ≤ 64) then
    let r := frozenBytes s (rf s .dbg 0x218 63 56) (rf s .dbg 0x218 55 44) (rf s .dbg 0x218 19 0 * 65536 + off) len
    done (send (globalCtr r.2 73 len) (.cpl r.1 false))
  else done (refuseRead s)

end Sys2Proof.Machine
end

