-- ==== Sys2Proof/Machine/Operands.lean ====
section
/-! DEFINITION. The Jexvar instruction forms (R165-R183): what each instruction is, the registers it names, its bundle
class, its decoding checks, and the values of its operands. -/

namespace Sys2Proof.Machine

/-- The two-operand operations of R172. -/
inductive AluOp where
  | add | sub | and | or | xor | shl | shr | sar | mul | mulhu | mulhs | divu | divs | remu | rems | min | max | minu | maxu
  deriving DecidableEq, Repr

/-- An instruction with its fields, one form for each opcode or run of opcodes of R171. -/
inductive SOp where
  | nop (f : FmtR) | alu (op : AluOp) (f : FmtR) | alui (op : AluOp) (f : FmtI)
  | psel (f : FmtR) | clz (f : FmtR) | popc (f : FmtR) | bfx (f : FmtR) | bfi (f : FmtR)
  | movi (f : FmtL) | movk (f : FmtL) | cmp (f : FmtP) | cmpi (f : FmtP) | plog (f : FmtPlog)
  | br (f : FmtB) | bri (f : FmtB) | call (f : FmtB) | eret (f : FmtB)
  | ld (f : FmtM) | st (f : FmtM) | amo (f : FmtA) | pf (f : FmtM) | cache (op : Nat) (f : FmtM) | dlock (f : FmtL)
  | fence (f : FmtM) | pld (f : FmtM) | pst (f : FmtM) | ftld (f : FmtM) | cbld (f : FmtM)
  | issue (f : FmtE) | ewait (f : FmtS) | cwait (f : FmtC) | csig (f : FmtC) | ctest (f : FmtC) | crd (f : FmtC) | cset (f : FmtC)
  | mfs (f : FmtS) | mts (f : FmtS) | preheat (f : FmtS) | strike (f : FmtS)
  | jigOpen (f : FmtL) | jigSeal (f : FmtL) | mark (f : FmtL) | yieldI (f : FmtL) | endTask (f : FmtL) | waitI (f : FmtL) | brk (f : FmtL)
  deriving DecidableEq, Repr

/-- A command's instruction; none for a command that is no instruction. -/
def view : Instr → Option (Hdr × SOp)
  | .nop h f => some (h, .nop f)
  | .add h f => some (h, .alu .add f)
  | .sub h f => some (h, .alu .sub f)
  | .andR h f => some (h, .alu .and f)
  | .orR h f => some (h, .alu .or f)
  | .xorR h f => some (h, .alu .xor f)
  | .shl h f => some (h, .alu .shl f)
  | .shr h f => some (h, .alu .shr f)
  | .sar h f => some (h, .alu .sar f)
  | .mul h f => some (h, .alu .mul f)
  | .mulhu h f => some (h, .alu .mulhu f)
  | .mulhs h f => some (h, .alu .mulhs f)
  | .divu h f => some (h, .alu .divu f)
  | .divs h f => some (h, .alu .divs f)
  | .remu h f => some (h, .alu .remu f)
  | .rems h f => some (h, .alu .rems f)
  | .minS h f => some (h, .alu .min f)
  | .maxS h f => some (h, .alu .max f)
  | .minU h f => some (h, .alu .minu f)
  | .maxU h f => some (h, .alu .maxu f)
  | .psel h f => some (h, .psel f)
  | .clz h f => some (h, .clz f)
  | .popc h f => some (h, .popc f)
  | .bfx h f => some (h, .bfx f)
  | .bfi h f => some (h, .bfi f)
  | .addi h f => some (h, .alui .add f)
  | .subi h f => some (h, .alui .sub f)
  | .andi h f => some (h, .alui .and f)
  | .ori h f => some (h, .alui .or f)
  | .xori h f => some (h, .alui .xor f)
  | .shli h f => some (h, .alui .shl f)
  | .shri h f => some (h, .alui .shr f)
  | .sari h f => some (h, .alui .sar f)
  | .muli h f => some (h, .alui .mul f)
  | .mulhui h f => some (h, .alui .mulhu f)
  | .mulhsi h f => some (h, .alui .mulhs f)
  | .divui h f => some (h, .alui .divu f)
  | .divsi h f => some (h, .alui .divs f)
  | .remui h f => some (h, .alui .remu f)
  | .remsi h f => some (h, .alui .rems f)
  | .mini h f => some (h, .alui .min f)
  | .maxi h f => some (h, .alui .max f)
  | .minui h f => some (h, .alui .minu f)
  | .maxui h f => some (h, .alui .maxu f)
  | .movi h f => some (h, .movi f)
  | .movk h f => some (h, .movk f)
  | .cmp h f => some (h, .cmp f)
  | .cmpi h f => some (h, .cmpi f)
  | .plog h f => some (h, .plog f)
  | .br h f => some (h, .br f)
  | .bri h f => some (h, .bri f)
  | .call h f => some (h, .call f)
  | .eret h f => some (h, .eret f)
  | .ld h f => some (h, .ld f)
  | .st h f => some (h, .st f)
  | .amo h f => some (h, .amo f)
  | .pf h f => some (h, .pf f)
  | .cacheZl h f => some (h, .cache 0 f)
  | .cacheWb h f => some (h, .cache 1 f)
  | .cacheWbinv h f => some (h, .cache 2 f)
  | .cacheInv h f => some (h, .cache 3 f)
  | .cacheIinv h f => some (h, .cache 4 f)
  | .dlock h f => some (h, .dlock f)
  | .fence h f => some (h, .fence f)
  | .pld h f => some (h, .pld f)
  | .pst h f => some (h, .pst f)
  | .ftld h f => some (h, .ftld f)
  | .cbld h f => some (h, .cbld f)
  | .issue h f => some (h, .issue f)
  | .ewait h f => some (h, .ewait f)
  | .cwait h f => some (h, .cwait f)
  | .csig h f => some (h, .csig f)
  | .ctest h f => some (h, .ctest f)
  | .crd h f => some (h, .crd f)
  | .cset h f => some (h, .cset f)
  | .mfs h f => some (h, .mfs f)
  | .mts h f => some (h, .mts f)
  | .preheat h f => some (h, .preheat f)
  | .strike h f => some (h, .strike f)
  | .jigOpen h f => some (h, .jigOpen f)
  | .jigSeal h f => some (h, .jigSeal f)
  | .mark h f => some (h, .mark f)
  | .yieldI h f => some (h, .yieldI f)
  | .endTask h f => some (h, .endTask f)
  | .waitI h f => some (h, .waitI f)
  | .brk h f => some (h, .brk f)
  | _ => none

/-! The word of an instruction (R164, R170, R171). -/

def hdrOf (c : CoreIx) (w : Nat) : Hdr :=
  { core := c, stop := w.testBit 63, wait := BitVec.ofNat 4 (bitsN w 62 59), qp := BitVec.ofNat 4 (bitsN w 51 48), qn := w.testBit 47 }

/-- Field `hi`:`lo` of a word as a bit vector. -/
def bitsF (w hi lo : Nat) {n : Nat} : BitVec n := BitVec.ofNat n (bitsN w hi lo)

def fmtR (w : Nat) : FmtR := { rd := bitsF w 46 41, ra := bitsF w 40 35, rb := bitsF w 34 29, rc := bitsF w 28 23, fn := bitsF w 22 0 }
def fmtI (w : Nat) : FmtI := { rd := bitsF w 46 41, ra := bitsF w 40 35, imm := bitsF w 34 0 }
def fmtL (w : Nat) : FmtL := { rd := bitsF w 46 41, ext := bitsF w 40 33, flag := w.testBit 32, imm := bitsF w 31 0 }
def fmtP (w : Nat) : FmtP :=
  { pd := bitsF w 46 43, pe := bitsF w 42 39, ra := bitsF w 38 33, rb := bitsF w 32 27, cond := bitsF w 26 24, z := bitsF w 23 23, imm := bitsF w 22 0 }
def fmtPlog (w : Nat) : FmtPlog :=
  { pd := bitsF w 46 43, pa := bitsF w 42 39, pb := bitsF w 38 35, op := bitsF w 34 31, rest := bitsF w 30 0 }
def fmtB (w : Nat) : FmtB := { rd := bitsF w 46 41, ra := bitsF w 40 35, z := bitsF w 34 32, disp := bitsF w 31 0 }
def fmtM (w : Nat) : FmtM :=
  { rd := bitsF w 46 41, ra := bitsF w 40 35, rb := bitsF w 34 29, size := bitsF w 28 26, scope := bitsF w 25 23, ord := bitsF w 22 21,
    hint := bitsF w 20 19, off := bitsF w 18 0 }
def fmtA (w : Nat) : FmtA :=
  { rd := bitsF w 46 41, ra := bitsF w 40 35, rb := bitsF w 34 29, size := bitsF w 28 26, scope := bitsF w 25 23, ord := bitsF w 22 21,
    hint := bitsF w 20 19, aop := bitsF w 18 15, off := bitsF w 14 0 }
def fmtE (w : Nat) : FmtE :=
  { eng := bitsF w 46 44, ra := bitsF w 43 38, rb := bitsF w 37 32, pw := bitsF w 31 29, pe := w.testBit 28, cq := bitsF w 27 24,
    ce := w.testBit 23, z := bitsF w 22 16, off64 := bitsF w 15 0 }
def fmtC (w : Nat) : FmtC :=
  { rd := bitsF w 46 41, rb := bitsF w 40 35, cq := bitsF w 34 31, scope := bitsF w 30 28, z := bitsF w 27 16, n := bitsF w 15 0 }
def fmtS (w : Nat) : FmtS := { rd := bitsF w 46 41, ra := bitsF w 40 35, num := bitsF w 34 23, rest := bitsF w 22 0 }

/-- The CACHE operation that SIZE names (R181); a SIZE that names none has the form of ZL and fails its decoding checks. -/
def cacheForm (h : Hdr) (f : FmtM) : Instr :=
  match f.size.toNat with
  | 1 => .cacheWb h f
  | 2 => .cacheWbinv h f
  | 3 => .cacheInv h f
  | 4 => .cacheIinv h f
  | _ => .cacheZl h f

/-- The instruction that a word spells for a core's sequencer; none for an opcode that R171 does not list. -/
def decodeWord (c : CoreIx) (w : Nat) : Option Instr :=
  let h := hdrOf c w
  match bitsN w 58 52 with
  | 0x00 => some (.nop h (fmtR w))
  | 0x01 => some (.add h (fmtR w))
  | 0x02 => some (.sub h (fmtR w))
  | 0x03 => some (.andR h (fmtR w))
  | 0x04 => some (.orR h (fmtR w))
  | 0x05 => some (.xorR h (fmtR w))
  | 0x06 => some (.shl h (fmtR w))
  | 0x07 => some (.shr h (fmtR w))
  | 0x08 => some (.sar h (fmtR w))
  | 0x09 => some (.mul h (fmtR w))
  | 0x0A => some (.mulhu h (fmtR w))
  | 0x0B => some (.mulhs h (fmtR w))
  | 0x0C => some (.divu h (fmtR w))
  | 0x0D => some (.divs h (fmtR w))
  | 0x0E => some (.remu h (fmtR w))
  | 0x0F => some (.rems h (fmtR w))
  | 0x10 => some (.minS h (fmtR w))
  | 0x11 => some (.maxS h (fmtR w))
  | 0x12 => some (.minU h (fmtR w))
  | 0x13 => some (.maxU h (fmtR w))
  | 0x14 => some (.psel h (fmtR w))
  | 0x15 => some (.clz h (fmtR w))
  | 0x16 => some (.popc h (fmtR w))
  | 0x17 => some (.bfx h (fmtR w))
  | 0x18 => some (.bfi h (fmtR w))
  | 0x21 => some (.addi h (fmtI w))
  | 0x22 => some (.subi h (fmtI w))
  | 0x23 => some (.andi h (fmtI w))
  | 0x24 => some (.ori h (fmtI w))
  | 0x25 => some (.xori h (fmtI w))
  | 0x26 => some (.shli h (fmtI w))
  | 0x27 => some (.shri h (fmtI w))
  | 0x28 => some (.sari h (fmtI w))
  | 0x29 => some (.muli h (fmtI w))
  | 0x2A => some (.mulhui h (fmtI w))
  | 0x2B => some (.mulhsi h (fmtI w))
  | 0x2C => some (.divui h (fmtI w))
  | 0x2D => some (.divsi h (fmtI w))
  | 0x2E => some (.remui h (fmtI w))
  | 0x2F => some (.remsi h (fmtI w))
  | 0x30 => some (.mini h (fmtI w))
  | 0x31 => some (.maxi h (fmtI w))
  | 0x32 => some (.minui h (fmtI w))
  | 0x33 => some (.maxui h (fmtI w))
  | 0x40 => some (.movi h (fmtL w))
  | 0x41 => some (.movk h (fmtL w))
  | 0x42 => some (.cmp h (fmtP w))
  | 0x43 => some (.cmpi h (fmtP w))
  | 0x44 => some (.plog h (fmtPlog w))
  | 0x48 => some (.br h (fmtB w))
  | 0x49 => some (.bri h (fmtB w))
  | 0x4A => some (.call h (fmtB w))
  | 0x4C => some (.eret h (fmtB w))
  | 0x50 => some (.ld h (fmtM w))
  | 0x51 => some (.st h (fmtM w))
  | 0x52 => some (.amo h (fmtA w))
  | 0x53 => some (.pf h (fmtM w))
  | 0x54 => some (cacheForm h (fmtM w))
  | 0x55 => some (.dlock h (fmtL w))
  | 0x56 => some (.fence h (fmtM w))
  | 0x57 => some (.pld h (fmtM w))
  | 0x58 => some (.pst h (fmtM w))
  | 0x59 => some (.ftld h (fmtM w))
  | 0x5A => some (.cbld h (fmtM w))
  | 0x60 => some (.issue h (fmtE w))
  | 0x61 => some (.ewait h (fmtS w))
  | 0x62 => some (.cwait h (fmtC w))
  | 0x63 => some (.csig h (fmtC w))
  | 0x64 => some (.ctest h (fmtC w))
  | 0x65 => some (.crd h (fmtC w))
  | 0x66 => some (.cset h (fmtC w))
  | 0x68 => some (.mfs h (fmtS w))
  | 0x69 => some (.mts h (fmtS w))
  | 0x6A => some (.preheat h (fmtS w))
  | 0x6B => some (.strike h (fmtS w))
  | 0x6C => some (.jigOpen h (fmtL w))
  | 0x6D => some (.jigSeal h (fmtL w))
  | 0x6E => some (.mark h (fmtL w))
  | 0x6F => some (.yieldI h (fmtL w))
  | 0x70 => some (.endTask h (fmtL w))
  | 0x71 => some (.waitI h (fmtL w))
  | 0x72 => some (.brk h (fmtL w))
  | _ => none

/-- The word's opcode is one of R171's list. -/
def listedWord (w : Nat) : Bool := (decodeWord 0 w).isSome

/-- The row that a fetched word comes as: the instruction it spells, and NOP with the word's fields for an opcode that R171 does not
list (log entry 152). -/
def rowOfWord (c : CoreIx) (w : Nat) : Instr := (decodeWord c w).getD (.nop (hdrOf c w) (fmtR w))

/-! Values (R172, R175, R176). -/

/-- The operations of R172. -/
def aluOp (op : AluOp) (a b : Word) : Word :=
  let sh := b.toNat % 64
  match op with
  | .add => a + b
  | .sub => a - b
  | .and => a &&& b
  | .or => a ||| b
  | .xor => a ^^^ b
  | .shl => a <<< sh
  | .shr => a >>> sh
  | .sar => a.sshiftRight sh
  | .mul => a * b
  | .mulhu => BitVec.ofNat 64 (a.toNat * b.toNat / 2 ^ 64)
  | .mulhs => BitVec.ofInt 64 (a.toInt * b.toInt / 2 ^ 64)
  | .divu => if b = 0 then BitVec.allOnes 64 else BitVec.ofNat 64 (a.toNat / b.toNat)
  | .divs => if b = 0 then BitVec.allOnes 64 else BitVec.ofInt 64 (a.toInt.tdiv b.toInt)
  | .remu => if b = 0 then a else BitVec.ofNat 64 (a.toNat % b.toNat)
  | .rems => if b = 0 then a else BitVec.ofInt 64 (a.toInt.tmod b.toInt)
  | .min => if a.slt b then a else b
  | .max => if a.slt b then b else a
  | .minu => if a.ult b then a else b
  | .maxu => if a.ult b then b else a

def isMulDiv : AluOp → Bool
  | .mul | .mulhu | .mulhs | .divu | .divs | .remu | .rems => true
  | _ => false

/-- Leading zero bits (R171). -/
def clzWord (w : Word) : Nat := ((List.range 64).find? fun i => w.getLsbD (63 - i)).getD 64

def popWord (w : Word) : Nat := popCount w.toNat 64

/-- BFX and BFI's mask (R172). -/
def bfMask (fn : BitVec 23) : Word := BitVec.ofNat 64 (2 ^ (bitsN fn.toNat 5 0 + 1) - 1)
def bfPos (fn : BitVec 23) : Nat := bitsN fn.toNat 11 6

def bfxWord (a : Word) (fn : BitVec 23) : Word := (a >>> bfPos fn) &&& bfMask fn
def bfiWord (d a : Word) (fn : BitVec 23) : Word :=
  let m := bfMask fn <<< bfPos fn
  (d &&& ~~~m) ||| ((a <<< bfPos fn) &&& m)

/-- A sum of a register and a signed offset, modulo 2^64. -/
def offset {n : Nat} (a : Word) (off : BitVec n) : Nat := (a + off.signExtend 64).toNat

/-- Bytes of a SIZE code (R176). -/
def sizeBytes (z : BitVec 3) : Nat :=
  match z.toNat with
  | 0 | 4 => 1
  | 1 | 5 => 2
  | 2 | 6 => 4
  | _ => 8

/-- A loaded value, zero- or sign-extended (R176). -/
def loadValue (z : BitVec 3) (v : Nat) : Word :=
  if 4 ≤ z.toNat then BitVec.ofInt 64 (signedOf (8 * sizeBytes z) v) else BitVec.ofNat 64 v

/-- AMO's new value on `w` bits (R178). -/
def amoNew (aop w old b expect : Nat) : Nat :=
  let so := signedOf w old
  let sb := signedOf w b
  (match aop with
  | 0 => b
  | 1 => if old = expect then b else old
  | 2 => old + b
  | 3 => old &&& b
  | 4 => old ||| b
  | 5 => old ^^^ b
  | 6 => if so ≤ sb then old else b
  | 7 => if so ≤ sb then b else old
  | 8 => min old b
  | _ => max old b) % 2 ^ w

/-! Decoding checks (R163, R168, R170, R173, R176-R183, R190-R193). -/

/-- The special registers of R163. -/
def specials : List Nat := [0, 1, 2, 0x10, 0x11, 0x20, 0x21, 0x22, 0x23, 0x30, 0x31, 0x32, 0x33, 0x34, 0x40, 0x50, 0x60]

def scopeOk (ord : BitVec 2) (scope : BitVec 3) : Bool := if ord = 0 then scope = 0 else decide (scope.toNat ≤ 5)

/-- JIG.OPEN's fields (R193). -/
def jLen (f : FmtL) : Nat := bitsN f.imm.toNat 31 16
def jJid (f : FmtL) : BitVec 16 := BitVec.ofNat 16 f.imm.toNat
def jLine (f : FmtL) : Nat := bitsN f.ext.toNat 7 4

def emptyL (f : FmtL) : Bool := f.rd = 0 && f.ext = 0 && !f.flag && f.imm = 0

/-- The instruction word passes its decoding checks; otherwise it raises ILLEGAL. -/
def decodes : SOp → Bool
  | .nop f => f.rd = 0 && f.ra = 0 && f.rb = 0 && f.rc = 0 && f.fn = 0
  | .alu _ f => f.rc = 0 && f.fn = 0
  | .alui _ _ => true
  | .psel f => f.rc = 0 && decide (f.fn.toNat < 16)
  | .clz f | .popc f => f.rb = 0 && f.rc = 0 && f.fn = 0
  | .bfx f | .bfi f => f.rb = 0 && f.rc = 0 && decide (f.fn.toNat < 4096)
  | .movi f => f.ext = 0 && !f.flag
  | .movk f => f.ext = 0
  | .cmp f => f.z = 0 && f.imm = 0 && (f.pd ≠ f.pe || f.pd = 0)
  | .cmpi f => f.z = 0 && f.rb = 0 && (f.pd ≠ f.pe || f.pd = 0)
  | .plog f => decide (f.op.toNat ≤ 3) && f.rest = 0
  | .br f => f.rd = 0 && f.ra = 0 && f.z = 0
  | .bri f => f.rd = 0 && f.z = 0 && f.disp = 0
  | .call f => f.ra = 0 && f.z = 0
  | .eret f => f.rd = 0 && f.ra = 0 && f.z = 0 && f.disp = 0
  | .ld f => f.rb = 0 && decide (f.size.toNat ≤ 6) && decide (f.hint.toNat ≤ 1) && scopeOk f.ord f.scope
  | .st f => f.rb = 0 && decide (f.size.toNat ≤ 3) && decide (f.hint.toNat ≤ 1) && scopeOk f.ord f.scope
  | .amo f => (f.size = 2 || f.size = 3) && decide (f.scope.toNat ≤ 4) && f.hint = 0 && decide (f.aop.toNat ≤ 9)
  | .pf f => f.rd = 0 && f.rb = 0 && f.size = 0 && f.scope = 0 && f.ord = 0 && decide (f.hint.toNat ≤ 1)
  | .cache _ f => f.rd = 0 && f.rb = 0 && f.scope = 0 && f.ord = 0 && f.hint = 0 && decide (f.size.toNat ≤ 4)
  | .dlock f => f.rd = 0 && f.ext = 0 && !f.flag && decide (f.imm.toNat ≤ 14)
  | .fence f => f.rd = 0 && f.ra = 0 && f.rb = 0 && f.size = 0 && f.hint = 0 && f.off = 0 && decide (f.ord.toNat ≤ 2)
      && decide (f.scope.toNat ≤ 5)
  | .pld f => decide (f.size.toNat ≤ 6) && f.scope = 5 && decide (f.ord.toNat ≤ 1) && f.hint = 0
  | .pst f => decide (f.size.toNat ≤ 3) && f.scope = 5 && decide (f.ord.toNat ≤ 1) && f.hint = 0
  | .ftld f => f.size = 0 && f.scope = 0 && f.ord = 0 && f.hint = 0 && decide (16 ≤ f.rd.toNat) && decide (1 ≤ f.rb.toNat)
      && decide (f.rd.toNat + f.rb.toNat ≤ 32)
  | .cbld f => f.size = 0 && f.scope = 0 && f.ord = 0 && f.hint = 0 && decide (1 ≤ f.rb.toNat) && decide (f.rd.toNat + f.rb.toNat ≤ 16)
  | .issue f => decide (f.eng.toNat ≤ 5) && f.z = 0 && (f.pe || (f.pw = 0 && f.rb = 0)) && (f.ce || f.cq = 0)
  | .ewait f => f.ra = 0 && f.num = 0 && f.rest = 0
  | .cwait f => f.rd = 0 && f.rb = 0 && f.z = 0 && decide (f.scope.toNat ≤ 5)
  | .csig f => f.rd = 0 && f.z = 0 && decide (f.scope.toNat ≤ 5)
  | .ctest f => decide (f.rd.toNat < 16) && f.rb = 0 && f.scope = 0 && f.z = 0
  | .crd f => f.rb = 0 && f.scope = 0 && f.z = 0 && f.n = 0
  | .cset f => f.rd = 0 && f.scope = 0 && f.z = 0 && f.n = 0
  | .mfs f => f.ra = 0 && f.rest = 0 && specials.contains f.num.toNat
  | .mts f => f.rd = 0 && f.rest = 0 && (f.num = 0x20 || f.num = 0x30)
  | .preheat f => f.rd = 0 && f.num = 0 && decide (f.rest.toNat % 512 = 0)
  | .strike f => decide (f.rd.toNat % 4 = 0) && f.num = 0 && f.rest = 0
  | .jigOpen f => f.rd = 0 && decide (f.ext.toNat % 16 = 0) && decide (1 ≤ jLen f) && decide (jLen f ≤ 768)
  | .jigSeal f | .yieldI f | .endTask f => emptyL f
  | .mark f => f.rd = 0 && f.ext = 0
  | .waitI f | .brk f => f.rd = 0 && f.ext = 0 && !f.flag

/-! Bundle classes and destinations (R165, R166, R171). -/

inductive SClass where
  | memory | issue | muldiv | special | control | simple
  deriving DecidableEq, Repr

def classOf : SOp → SClass
  | .ld _ | .st _ | .amo _ | .pf _ | .cache _ _ | .dlock _ | .fence _ | .pld _ | .pst _ | .ftld _ | .cbld _ => .memory
  | .issue _ => .issue
  | .alu op _ | .alui op _ => if isMulDiv op then .muldiv else .simple
  | .mfs _ | .mts _ | .cwait _ | .csig _ | .ctest _ | .crd _ | .cset _ | .preheat _ | .mark _ => .special
  | .br _ | .bri _ | .call _ | .eret _ | .ewait _ | .waitI _ | .brk _ | .yieldI _ | .endTask _ | .strike _ | .jigOpen _ | .jigSeal _ => .control
  | .nop _ | .psel _ | .clz _ | .popc _ | .bfx _ | .bfi _ | .movi _ | .movk _ | .cmp _ | .cmpi _ | .plog _ => .simple

/-- What a bundle's instruction writes: scalar registers 0-63, predicates from 64, credit counters from 80. -/
def destsOf : SOp → List Nat
  | .alu _ f | .psel f | .clz f | .popc f | .bfx f | .bfi f => [f.rd.toNat]
  | .alui _ f => [f.rd.toNat]
  | .movi f | .movk f => [f.rd.toNat]
  | .cmp f | .cmpi f => [64 + f.pd.toNat, 64 + f.pe.toNat]
  | .plog f => [64 + f.pd.toNat]
  | .call f => [f.rd.toNat]
  | .ld f | .pld f => [f.rd.toNat]
  | .amo f => [f.rd.toNat]
  | .crd f => [f.rd.toNat]
  | .ctest f => [64 + f.rd.toNat % 16]
  | .cwait f | .cset f => [80 + f.cq.toNat]
  | .mfs f => [f.rd.toNat]
  | _ => []

/-- The In jig column of R171 marks the instruction No; FENCE is No at a scope wider than CORE (R180). -/
def notInJig : SOp → Bool
  | .eret _ | .amo _ | .pf _ | .cache _ _ | .dlock _ | .pld _ | .pst _ | .cwait _ | .csig _ | .strike _ | .jigOpen _ | .yieldI _
  | .endTask _ | .brk _ => true
  | .fence f => f.scope ≠ 0
  | _ => false

/-- Written twice, and neither s0 nor p0 (R166). -/
def clash (a b : SOp) : Bool := (destsOf a).any fun d => d ≠ 0 && d ≠ 64 && (destsOf b).contains d

/-- The bundle rules that instruction `o` at position `i` breaks with those before it (R164-R166, R169). `ca` is the
bundle's CA. -/
def breaksBundle (before : List (Hdr × SOp)) (h : Hdr) (o : SOp) (i ca : Nat) : Bool :=
  let c := classOf o
  let same := before.filter fun x => classOf x.2 = c
  (!h.stop && (decide (3 ≤ i) || decide ((ca + 8 * i) % 64 = 56) || h.wait ≠ 0 || c = .control))
    || ((c = .memory || c = .muldiv || c = .special || c = .control) && !same.isEmpty)
    || (c = .issue && (decide (2 ≤ same.length) || same.any fun x => match x.2, o with
          | .issue f, .issue g => f.eng = g.eng
          | _, _ => false))
    || before.any fun x => clash x.2 o

/-- The first instruction of a bundle that breaks a rule. -/
def bundleError (ca : Nat) : List (Hdr × SOp) → List (Hdr × SOp) → Option Nat
  | _, [] => none
  | before, (h, o) :: t =>
    if breaksBundle before h o before.length ca then some before.length else bundleError ca (before ++ [(h, o)]) t

end Sys2Proof.Machine
end

