-- ==== Sys2Proof/Machine/Regs.lean ====
section
/-! DEFINITION. The register ports (02): reads and writes of any register by any requester, with the effect of each
command field, enables and held accesses (R34-R42), clears by sequence (R43-R46), fence and rejoin requests (R382,
R419-R421), key commands (R260), injections (R425). -/

namespace Sys2Proof.Machine

/-! Which registers a requester reaches. -/

/-- Blocks whose registers stay writable while the compute rails are off (R423). -/
def alwaysOn : Blk → Bool
  | .gfe | .ep | .pwr | .dbg => true
  | _ => false

/-- The block's registers answer at all in the present phase (R376, R423): in the banked state only three blocks. -/
def blkAnswers (s : State) (b : Blk) : Bool :=
  match phase s with
  | 3 => b = .gfe || b = .ep || b = .dbg
  | 2 => true
  | _ => !isCtxBlk b

/-- A write is performed in the present phase (R423). -/
def writePerformed (s : State) (b : Blk) (o : Nat) : Bool :=
  match phase s with
  | 3 => blkAnswers s b
  | 2 => true
  | _ => alwaysOn b || (!isCtxBlk b && (o = 0x50 || o = 0x58)) ||
      (match b with | .cluster _ => o = 0x610 | _ => false)

/-- The function claims an access at a register key: BAR2 claims nothing in basic service mode and while banked (R376, R423). -/
def claimsKey (s : State) (k : Nat) : Bool := claims s && !(decide (0x10000000 ≤ k) && (decide (phase s = 1) || decide (phase s = 3)))

/-- The requester's access reaches the complex's register ports now (R34, R35, R354, R452). -/
def requesterReaches (s : State) (rq : Requester) (b : Blk) : Bool :=
  match rq with
  | .host => claimsKey s (blkBase b) && !(isCtxBlk b && stopped s)
  | .mirror => running s && !isCtxBlk b
  | .jtag | .pmc => true

/-- The window of a disabled core reads as 0 and ignores writes (R21, R30). -/
def windowLives (s : State) : Blk → Bool
  | .core n => coreEnabled s n.val
  | _ => true

/-! Reads (R32, R34, R38). -/

/-- WO value fields that a later command uses (R38); they still read as 0. -/
def keepsWo (b : Blk) (o : Nat) : Bool :=
  match b with
  | .ctx _ => o = 0x8080 || (arr o 0x8400 8 8).isSome
  | _ => false

/-- The block of a block number (R415). -/
def blkOfNo (n : Nat) : Option Blk :=
  if n = 0 then some .gfe else if n = 1 then some .ep else if n = 2 then some .pwr else if n = 3 then some .dbg
  else if n < 8 then some (bFmp (n - 4)) else if n = 8 then some .dt
  else if n < 16 then none
  else if n < 64 then some (bCluster (n - 16))
  else if n < 448 then some (bCore (n - 64))
  else if n < 460 then some (bStack (n - 448))
  else if n < 468 then some (bDrawer (n - 460))
  else none

def bitsWord (p : Nat → Bool) : Word := BitVec.ofNat 64 (boolsNat ((List.range 64).map p))

/-- Counters that rest in part on routes and link cycles that the manual leaves to the machine (R440, R441): before each read they add
a free number of events (log entry 16). -/
def openCounter (b : Blk) (o : Nat) : Bool :=
  match b with
  | .core _ => o = 0x1058 || o = 0x1060
  | .cluster _ => o = 0x1018 || o = 0x1020
  | .dbg => (arr o 0x10200 8 4).isSome || (arr o 0x10300 8 16).isSome
  | _ => false

/-- What an HDM decoder's registers read (R352): base, size, control with Commit, Committed, Error Not Committed, Target Range Type and BI,
and the DPA skip, the distance from the end of the decoders before it. -/
def decoderReg (s : State) (n i : Nat) : Nat :=
  let d := decoder s n
  let skip := d.dpa - ((List.range n).map fun k => if (decoder s k).committed then (decoder s k).size else 0).sum
  match i with
  | 0 => d.base
  | 1 => d.size
  | 2 => 0x200 * boolNat (d.committed || d.failed) + 0x400 * boolNat d.committed + 0x800 * boolNat d.failed + 0x1000 * boolNat (!d.bi)
      + 0x2000 * boolNat d.bi + skip % 2 ^ 32 * 2 ^ 32
  | _ => skip / 2 ^ 32

/-- The component registers that the rest of the state gives (R350, R352; log entry 222). -/
def componentReg (s : State) (o : Nat) : Option Word :=
  if o = 0x11000 then some 0x1002000203110001
  else if o = 0x11008 then some 0x3001000C20010005
  else if o = 0x11200 then some 0x0000000200000002
  else if o = 0x11300 then some (place 33 33 (boolNat s.ep.biIdSet))
  else (arr o 0x11210 8 16).map fun i => BitVec.ofNat 64 (decoderReg s (i / 4) (i % 4))

/-- Registers computed from the rest of the state; none: the stored word. -/
def computedReg (s : State) (b : Blk) (o : Nat) : Option Word :=
  match b with
  | .gfe =>
    if o = 0x100 then some (BitVec.ofNat 64 (boolsNat (intSummary s)))
    else if o = 0x2208 then some (setFld (reg s b o) 38 32 s.inv.length)
    else if o = 0x3110 then some (setFld (reg s b o) 31 16 Config.minVer.toNat)
    else match arr o 0x200 8 8 with
      | some i => some (bitsWord fun j => match blkOfNo (64 * i + j) with
          | some x => windowLives s x && faultPending s x
          | none => false)
      | none =>
        match arr o 0x1000 8 64 with
        | some i => some (bitsWord fun j => decide (rf s (.ctx (BitVec.ofNat 12 (64 * i + j))) 0x8020 4 0 ≠ 0))
        | none => none
  | .ep => if o = 0x120 then some (BitVec.ofNat 64 s.ep.held.length) else componentReg s o
  | .pwr =>
    if o = 0x100 then some (setFld (setFld (reg s b o) 23 15 ((s.cores.filter fun e => decide (e.2.power = .c0)).length)) 31 24 (min 255 ((tjKnown s).getD 0)))
    else match arr o 0x120 8 2 with
      | some d => some (setFld (reg s b o) 15 8 (min 255 (mapGet (fun _ => []) s.power.wakeq d).length))
      | none => none
  | .core n =>
    match arr o 0x400 8 32 with
    | some i =>
      if i < 16 then some (fmtWord (fixedFmts.getD i fmtFp32))
      else some ((mapFind? (if regsLive s b then ((prog? s n.val).map Prog.fmt).getD [] else (mapFind? s.heldFmts n.val).getD []) i).getD 0)
    | none => none
  | .ctx c =>
    if o = 0x10 then some (setFld (reg s b o) 32 19 (s.tasks.filter fun t => decide (t.ctx = c) && !t.finished).length)
    else none
  | _ => none

/-- The word a read of the register at window offset `o` (8-byte aligned) returns. With no sensor above a limit, the highest reads a free
value up to the pause temperature (R437; log entry 81). -/
def readWord (s : State) (b : Blk) (o : Nat) : Word × State :=
  let fs := regFields b o
  if fs.isEmpty || !windowLives s b || !blkAnswers s b then (0, s)
  else if openCounter b o then
    let f := freeNat s
    let s := if regsLive s b && !stopped s then addReg f.2 b o f.1 else s
    (reg s b o, s)
  else if b = .pwr && o = 0x100 && (tjKnown s).isNone then
    let f := freeNat s
    (setFld ((computedReg s b o).getD 0) 31 24 (f.1 % (tpause s + 1)), f.2)
  else (((computedReg s b o).getD (reg s b o)) &&& ~~~(fieldsMask fs fun f => f.ty = .wo), s)

/-- A read of the aligned register that holds BAR0 offset `off`; 0 where none does (R30). -/
def readReg (s : State) (off : Nat) : Word × State :=
  match locate (off / 8 * 8) with
  | some (b, o) => if off < 0x4000000 then readWord s b o else (0, s)
  | none => (0, s)

/-- The words of `n` consecutive registers from key `k` on. -/
def regWords (k : Nat) : Nat → State → List Word × State
  | 0, s => ([], s)
  | n + 1, s =>
    let r := match locate k with
      | some (b, o) => readWord s b o
      | none => (0, s)
    let t := regWords (k + 8) n r.2
    (r.1 :: t.1, t.2)

/-- The bytes that a read of `n` bytes from key `k` on returns: those of consecutive registers, each under R32 (R354). -/
def barRead (k n : Nat) (s : State) : List Byte × State :=
  let r := regWords (k / 8 * 8) ((k % 8 + n + 7) / 8) s
  (((bytesOfWords r.1).drop (k % 8)).take n, r.2)

/-- A host's read of 1 to 64 bytes of BAR0/1 or BAR2/3 (R354), which the table gives no row. -/
def hostBarRead (sp : RegSpace) (off n : Nat) (s : State) : State :=
  let k := match sp with
    | .bar0 => off
    | .bar2 => 0x10000000 + off
  if claimsKey s k then
    let r := barRead k n s
    send r.2 (.cpl r.1 false)
  else refuseRead s

/-! Writes. -/

/-- R39, R40: an ignored write is flagged. -/
def ignoredWrite (s : State) (b : Blk) (o : Nat) : State :=
  let st := hdrOff b + 8
  let w := reg s b st
  let w := if flag w 63 then w else setFld w 51 32 o
  raiseAt (setReg s b st (setFld w 31 24 (min 255 (fld w 31 24 + 1)))) b st (st + 8) (place 63 63 1)

/-- R32: a write of another size or alignment is discarded. -/
def sizeError (s : State) (b : Blk) : State := raise s b (hdrOff b + 8) 62

/-- Register accesses that wait behind an enable of the block (R42). -/
def heldAccs (s : State) (b : Blk) : List HeldAcc := mapGet (fun _ => []) s.held (blkNo b)
def setHeldAccs (s : State) (b : Blk) (l : List HeldAcc) : State :=
  { s with held := mapSet (fun _ => []) s.held (blkNo b) l }

/-- What a write stores (R37-R39): read-only, cleared-by-sequence and command fields keep their stored bits, reserved
bits take the write. -/
def storedWord (b : Blk) (o : Nat) (old new : Word) : Word :=
  let fixed := fieldsMask (regFields b o) fun f => f.ty = .ro || f.ty = .sqc || (f.ty = .wo && !keepsWo b o)
  (old &&& fixed) ||| (new &&& ~~~fixed)

/-- R45: a clear attempt zeroes every SQC field of the status registers when VALUE equals the sequence. -/
def clearStatus (s : State) (b : Blk) (sts : List Nat) (seq v : Nat) : State :=
  if v = rf s b seq 15 0 then
    sts.foldl (fun s o => setReg s b o (reg s b o &&& ~~~(fieldsMask (regFields b o) fun f => f.ty = .sqc))) s
  else s

/-- XLT_INV_REQ (R318, R320): at most 64 requests wait; one more, written at `at_`, is discarded and flagged. -/
def xltInvReq (s : State) (at_ : Nat) (cv : Word) : State :=
  if !flag cv 63 then s
  else if s.inv.length < 64 then { s with inv := s.inv ++ [BitVec.ofNat 12 (fld cv 11 0)] }
  else ignoredWrite s .gfe at_

/-- KEY_CMD (R260). -/
def keyCmd (s : State) (c : BitVec 12) (cv : Word) : State :=
  if flag cv 63 && decide (fld cv 61 10 = 0) && keyInRange s c (fld cv 9 0) then
    let k : BitVec 512 := BitVec.ofNat 512 (ofBytes (bytesOfWords ((List.range 8).map fun i => reg s (.ctx c) (0x8400 + 8 * i))))
    { s with keyPend := s.keyPend ++ [(fld cv 9 0, if flag cv 62 then none else some k)] }
  else s

/-- FINJ (R425). -/
def finj (s : State) (b : Blk) (cv : Word) : State :=
  match (sources b)[fld cv 4 0]? with
  | some d =>
    if flag cv 63 && d.inj && !rbit s b 0x70 62 then
      setRf { s with inject := mapSet (fun _ => 0) s.inject (blkNo b) (fld cv 4 0 + 1) } b 0x70 62 62 1
    else s
  | none => s

/-- A condition source in the unit's own window holds (R421). -/
def unitHolds (s : State) (b : Blk) : Bool := (List.range 32).any fun src => condHolds s b src

/-- CL_FENCE (R419, R421): new bits fence, cleared bits lift the fence unless a condition of the unit holds. -/
def clFence (s : State) (n : Nat) (new : Word) : State :=
  let b := bCluster n
  let old := reg s b 0x610
  let ff := reg s b 0x60
  let s := fenceCores s (((List.range 8).filter fun i => flag new i && !flag old i).map (8 * n + ·)) ff true
  let s := if flag new 8 && !flag old 8 then fenceCluster s n ff else s
  let stay := (List.range 9).filter fun i => flag old i && !flag new i && unitHolds s (if i = 8 then b else bCore (8 * n + i))
  let w := stay.foldl (fun w i => w ||| place i i 1) (setFld new 9 9 0)
  setReg s b 0x610 (if stay.isEmpty then w else w ||| place 9 9 1)

/-- CL_REJOIN (R382): stale units whose fence has been lifted rejoin. -/
def clRejoin (s : State) (n : Nat) (cv : Word) : State :=
  if !flag cv 63 then s
  else
    let s := if flag cv 8 && clusterStale s n && !clusterFenced s n then clusterRejoin s n else s
    (cores8 n).foldl (fun s c =>
      if flag cv (c % 8) && coreEnabled s c && coreStale s c && !coreFenced s c then coreRejoin s c else s) s

/-- QUENCH_CTL (R450, R453, R454). -/
def quenchCtl (s : State) (new cv : Word) : State :=
  let s := setReg s .dbg 0x200 new
  let s := if flag cv 63 then quenchTrigger s 2 else s
  if flag cv 62 then quenchRelease s else s

/-- TRACE_CTL (R40, R447): while EN is 1 only the gate is written, and a change of another field is flagged with the write's offset. -/
def traceCtl (s : State) (at_ : Nat) (old new : Word) : State :=
  let rwd := fieldsMask (regFields .dbg 0x300) fun f => f.ty = .rwd
  if flag old 63 then
    let s := setReg s .dbg 0x300 ((old &&& rwd) ||| (new &&& ~~~rwd))
    if old &&& rwd = new &&& rwd then s else ignoredWrite s .dbg at_
  else
    let s := setReg s .dbg 0x300 new
    if flag new 63 then traceStart s else s

/-- Writes to a channel's registers (R398). -/
def chanWrite (s : State) (o at_ n r : Nat) (new : Word) : State :=
  if !chanBound s n then (if r = 0 && flag new 63 then chanBind s n new else setReg s .dt o new)
  else if r = 0 && !flag new 63 then chanUnbind s n
  else if r < 3 then ignoredWrite s .dt at_
  else s

/-- BLK_CTL (R41, R42). `h`: the access itself, to hold while the block still drains. -/
def blkCtl (s : State) (b : Blk) (h : HeldAcc) (new : Word) : State :=
  let o := hdrOff b
  if flag new 0 && !blkEn s b then
    if rbit s b (o + 8) 0 then
      let s := enableBlock (setReg s b o (setFld new 0 0 0)) b
      match b with
      | .fmp n => slotEnabled s n.val
      | _ => s
    else setHeldAccs s b (heldAccs s b ++ [h])
  else if !flag new 0 && blkEn s b then disableBlock (setReg s b o (setFld new 0 0 1)) b
  else setReg s b o new

/-- The effect of an accepted write. `old` and `new`: the register before and as the write would leave it; `at_`: the write's own
offset; `cv`: the written bytes, 0 elsewhere. -/
def writeEffect (s : State) (b : Blk) (o at_ : Nat) (old new cv : Word) : State :=
  let plain := setReg s b o new
  match b with
  | .gfe =>
    if o = 0x110 then (if flag cv 0 && msiEn s then { s with ep := { s.ep with msiArm := true } } else s)
    else if o = 0x2010 then (if running plain && epochDue plain then advanceEpoch plain else plain)
    else if o = 0x2200 then xltInvReq plain at_ cv
    else if o = 0x3008 then rstCtl s cv
    else if o = 0x3108 then mcCmd s cv
    else plain
  | .ep =>
    if o = 0x20008 then bankCtl s cv
    else if o = 0x11300 then { s with ep := { s.ep with biIdSet := flag new 33 } }
    else plain
  | .pwr =>
    if o = 0x110 then setHalfReq plain 2 (flag new 63)
    else if o = 0x200 then settleTemper plain
    else if o = 0x210 then hoursWritten plain (fld new 31 0)
    else plain
  | .dbg =>
    if o = 0x200 then quenchCtl s new cv
    else if o = 0x300 then traceCtl s at_ old new
    else match arr o 0x400 32 8 with
      | some w => watchCtl s w new
      | none => plain
  | .fmp n => if o = 0x108 then slotCtl s n.val new else plain
  | .dt =>
    if o = 0x150 then dtRevive s cv
    else match arr (o / 32 * 32) 0x3000 32 16 with
      | some n => chanWrite s o at_ n (o % 32 / 8) new
      | none => plain
  | .cluster n =>
    if o = 0x608 then clRejoin s n.val cv
    else if o = 0x610 then clFence s n.val new
    else plain
  | .ctx c =>
    if o = 0x8078 then (if flag cv 63 then abortStarted s c else s)
    else if o = 0x8088 then fsetWritten s c cv
    else if o = 0x8440 then keyCmd s c cv
    else plain
  | _ => plain

/-- The write is one that the enable of its block, or the gate of its register, forbids (R39, R40). -/
def writeGated (s : State) (b : Blk) (o : Nat) : Bool :=
  (regFields b o).any (fun f => f.ty = .rwd) &&
    (if b = .dbg then decide (o = 0x308) && rbit s .dbg 0x300 63 else blkEn s b)

/-- A write performed at its block's port (R32, R34). -/
def writeAt (s : State) (b : Blk) (h : HeldAcc) (o : Nat) : State :=
  if !((h.size = 4 || h.size = 8) && decide (h.key % h.size = 0)) then sizeError s b
  else
    let r := o / 8 * 8
    let sh := 8 * (o % 8)
    let mask : Word := if h.size = 8 then BitVec.allOnes 64 else BitVec.ofNat 64 (0xFFFFFFFF <<< sh)
    let cv := (if h.size = 8 then h.val else BitVec.ofNat 64 ((h.val.toNat % 2 ^ 32) <<< sh)) &&& mask
    let old := reg s b r
    let new := storedWord b r old ((old &&& ~~~mask) ||| cv)
    if r = hdrOff b then blkCtl s b h new
    else match tripleOfClear b r with
      | some (sts, seq) => if o % 8 = 0 then clearStatus s b sts seq (fld cv 15 0) else s
      | none =>
        if writeGated s b r then ignoredWrite s b o
        else if r = 0x70 && !isCtxBlk b then finj s b cv
        else writeEffect s b r o old new cv

/-- A write of `size` bytes at a register key, by a requester (R29-R42). -/
def performWrite (s : State) (h : HeldAcc) : State :=
  match locate h.key with
  | none => s
  | some (b, o) =>
    if (regFields b (o / 8 * 8)).isEmpty || !windowLives s b || !requesterReaches s h.rq b
        || (h.rq = .pmc && b ≠ .pwr) || !writePerformed s b (o / 8 * 8) then s
    else if (heldAccs s b).isEmpty then writeAt s b h o
    else setHeldAccs s b (heldAccs s b ++ [h])

/-- The held accesses of a block are performed in order, up to the next enable that must wait (R42). -/
def performHeld : List HeldAcc → State → State
  | [], s => s
  | h :: t, s =>
    match locate h.key with
    | none => performHeld t s
    | some (b, o) =>
      let s' := writeAt s b h o
      if (heldAccs s' b).isEmpty then performHeld t s' else setHeldAccs s' b (heldAccs s' b ++ t)

/-- The key of a register offset in a register space; none outside the space. -/
def regKey (sp : RegSpace) (off : Nat) : Option Nat :=
  match sp with
  | .bar0 => if off < 0x4000000 then some off else none
  | .bar2 => if off < 0x10000000 then some (0x10000000 + off) else none

/-! The commands. -/

/-- A host's register write of `n` bytes has come by CXL.io, with `t` what it leaves: its payload is counted (R441), or the write is an
unsupported request where the function claims none (R354). -/
def regArrived (s : State) (rq : Requester) (k n : Nat) (t : State) : State :=
  if rq ≠ .host then t else if claimsKey s k then globalCtr t 72 n else logUnsupported t true

def regWrite (rq : Requester) (k size : Nat) (val : Word) (s : State) : Out :=
  done (regArrived s rq k size (performWrite s { rq, key := k, size, val }))

/-- A whole-register write. -/
def regWrite8 (rq : Requester) (b : Blk) (o : Nat) (val : Word) (s : State) : Out := regWrite rq (rk b o) 8 val s

def execRegisterWrite (rq : Requester) (sp : RegSpace) (off size : Nat) (val : Word) (s : State) : Out :=
  match regKey sp off with
  | some k => regWrite rq k size val s
  | none => done s

/-- STATUS_CLEAR: a clear attempt is a write to a clear register (R45). -/
def execStatusClear (rq : Requester) (sp : RegSpace) (off size : Nat) (val : Word) (s : State) : Out :=
  match regKey sp off with
  | some k => regWrite rq k size val s
  | none => done s

def execBlkEnable (rq : Requester) (b : Blk) (val : Word) (s : State) : Out := regWrite8 rq b (hdrOff b) val s

def execBlkDisable (rq : Requester) (b : Blk) (val : Word) (s : State) : Out := regWrite8 rq b (hdrOff b) val s

/-- BLK_HELD_ENABLE (R42): a held enable takes effect once IDLE is 1, then the accesses behind it. -/
def execBlkHeldEnable (b : Blk) (s : State) : Out :=
  if rbit s b (hdrOff b + 8) 0 && !(heldAccs s b).isEmpty && regsLive s b then done (performHeld (heldAccs s b) (setHeldAccs s b []))
  else idle s

def execTblEpochCfgWrite (rq : Requester) (val : Word) (s : State) : Out := regWrite8 rq .gfe 0x2010 val s

def execKeyLoad (rq : Requester) (ctx : CtxIx) (val : Word) (s : State) : Out := regWrite8 rq (.ctx ctx) 0x8440 val s

def execKeyZero (rq : Requester) (ctx : CtxIx) (val : Word) (s : State) : Out := regWrite8 rq (.ctx ctx) 0x8440 val s

/-- KEY_EFFECTIVE (R260): the oldest key command of the slot takes effect in every controller. -/
def execKeyEffective (slot : BitVec 10) (s : State) : Out :=
  match s.keyPend.find? fun e => e.1 = slot.toNat with
  | some e => done { s with keyPend := s.keyPend.erase e, keys := mapSet (fun _ => none) s.keys e.1 e.2 }
  | none => idle s

def execXltInvReq (rq : Requester) (val : Word) (s : State) : Out := regWrite8 rq .gfe 0x2200 val s

def execCtxFset (rq : Requester) (ctx : CtxIx) (val : Word) (s : State) : Out := regWrite8 rq (.ctx ctx) 0x8088 val s

def execCtxAbort (rq : Requester) (ctx : CtxIx) (val : Word) (s : State) : Out := regWrite8 rq (.ctx ctx) 0x8078 val s

def execIntAckArm (rq : Requester) (val : Word) (s : State) : Out := regWrite8 rq .gfe 0x110 val s

/-- WARM_RESET (R368): the WARM_RST_N pin, or RST_CTL. -/
def execWarmReset (src : WarmSrc) (s : State) : Out :=
  match src with
  | .pin => done (hostLoss s 2 3)
  | .reg rq val => regWrite8 rq .gfe 0x3008 val s

def execBankReattach (rq : Requester) (val : Word) (s : State) : Out := regWrite8 rq .ep 0x20008 val s

def execBankDiscard (rq : Requester) (val : Word) (s : State) : Out := regWrite8 rq .ep 0x20008 val s

def execMcLoad (rq : Requester) (val : Word) (s : State) : Out := regWrite8 rq .gfe 0x3108 val s

def execClRejoin (rq : Requester) (cluster : ClusterIx) (val : Word) (s : State) : Out := regWrite8 rq (.cluster cluster) 0x608 val s

def execSlotPccOn (rq : Requester) (port : Fin 4) (val : Word) (s : State) : Out := regWrite8 rq (.fmp port) 0x108 val s

def execSlotPccOff (rq : Requester) (port : Fin 4) (val : Word) (s : State) : Out := regWrite8 rq (.fmp port) 0x108 val s

def execSlotIndicatorWrite (rq : Requester) (port : Fin 4) (val : Word) (s : State) : Out := regWrite8 rq (.fmp port) 0x108 val s

def execDtRevive (rq : Requester) (val : Word) (s : State) : Out := regWrite8 rq .dt 0x150 val s

def execDtChBind (rq : Requester) (ch : Fin 16) (val : Word) (s : State) : Out := regWrite8 rq .dt (0x3000 + 32 * ch.val) val s

def execDtChUnbind (rq : Requester) (ch : Fin 16) (val : Word) (s : State) : Out := regWrite8 rq .dt (0x3000 + 32 * ch.val) val s

def execFinjGo (rq : Requester) (b : Blk) (val : Word) (s : State) : Out := regWrite8 rq b 0x70 val s

def execClFenceSet (rq : Requester) (cluster : ClusterIx) (val : Word) (s : State) : Out := regWrite8 rq (.cluster cluster) 0x610 val s

def execClFenceLift (rq : Requester) (cluster : ClusterIx) (val : Word) (s : State) : Out := regWrite8 rq (.cluster cluster) 0x610 val s

def execForceHalfWrite (rq : Requester) (val : Word) (s : State) : Out := regWrite8 rq .pwr 0x110 val s

def execQuenchGo (rq : Requester) (val : Word) (s : State) : Out := regWrite8 rq .dbg 0x200 val s

def execQuenchRelease (rq : Requester) (val : Word) (s : State) : Out := regWrite8 rq .dbg 0x200 val s

def execTraceEnable (rq : Requester) (val : Word) (s : State) : Out := regWrite8 rq .dbg 0x300 val s

def execWatchArm (rq : Requester) (w : Fin 8) (val : Word) (s : State) : Out := regWrite8 rq .dbg (0x400 + 32 * w.val) val s

end Sys2Proof.Machine
end

