-- ==== Sys2Proof/Machine/SeqMem.lean ====
section
/-! DEFINITION. Memory accesses of a sequencer (R175-R182, R196, R247-R251, R264-R279): loads, stores, atomics, cache
operations, fences, peer accesses, and the store buffer. `k0` and `p` are the core and its program state before the
bundle (R166). -/

namespace Sys2Proof.Machine

/-- Change the program state of the core's task. -/
def progM (c : Nat) (f : Prog → Prog) : M Unit := modify fun s => updProg s c f

/-- A CA of an access of `n` bytes: bits [63:52] are 0 and it is a multiple of `n` (R175, R176). -/
def seqCa (a n : Nat) : M Unit := do
  if 2 ^ 52 ≤ a then throw (.exc 4 6 a 0)
  if a % n ≠ 0 then throw (.exc 3 0 a 0)

/-- The check and translation of an access of the sequencer that crosses no 8-byte word. -/
def seqTarget (c : Nat) (p : Prog) (a n : Nat) (perm : Perm) : M Target := do
  let ps ← access c 0 p.ctx a n perm
  match ps with
  | (t, _) :: _ => return t
  | [] => throw .wait

/-- A target on the control-register mirror (R31): the BAR0 offset. -/
def mirrorOff (t : Target) : Option Nat :=
  if t.host then none
  else match caKind t.addr with
    | .mirror o => some o
    | _ => none

/-- Lines that a data cache allocates (R247, R281). -/
def allocates (t : Target) : Bool := if t.host then !t.io else dcacheable t.addr

def lineOf (t : Target) : Nat := t.addr / 64

/-- The core's own copy of a target's line. -/
def ownCopy (s : State) (c : Nat) (t : Target) : Option (Nat × CLine) := findLine (core s c).dcache t.host (lineOf t)

def hasOwn (l : CLine) : Bool := l.st = .m || l.st = .e

/-! The store buffer (R264, R266). -/

def bufOverlaps (b : BufStore) (t : Target) (n : Nat) : Bool :=
  decide (b.tgt.host = t.host) && decide (b.tgt.addr < t.addr + n) && decide (t.addr < b.tgt.addr + b.data.length)

/-- The latest buffered store that an access overlaps: its bytes where it covers the access, none where it overlaps
only in part. -/
def bufFind (l : List BufStore) (t : Target) (n : Nat) : Option (Option (List Byte)) :=
  (l.reverse.find? fun b => bufOverlaps b t n).map fun b =>
    if b.tgt.addr ≤ t.addr ∧ t.addr + n ≤ b.tgt.addr + b.data.length then some ((b.data.drop (t.addr - b.tgt.addr)).take n) else none

def bufPush (c : Nat) (b : BufStore) : M Unit := modify fun s => setCore s c { core s c with sbuf := (core s c).sbuf ++ [b] }

/-- What a release at scope `sc` by core `c` waits for (R264, R272, R279, R301): its earlier stores, from PACKAGE its
posted host writes, back-invalidations and flush read, at SYSTEM its peer writes. -/
def releaseOk (s : State) (k0 : Core) (c sc : Nat) : Bool :=
  (decide (sc = 0) || k0.sbuf.isEmpty)
    && (decide (sc < 4) || (hostWritesDone s c && !flushDue s c && !flushOpen s c))
    && (decide (sc < 5) || !(s.dtOut.any fun r => decide (r.core = c) && match r.kind with
          | .pst | .pcopyWrite _ | .update => true
          | _ => false))

/-- A release at scope `sc`: at PACKAGE it sends its flush read once what goes before is done, and engine writes that cluster
caches hold reach their controllers. -/
def releaseM (k0 : Core) (c sc : Nat) : M Unit := do
  let s ← get
  if !releaseOk s k0 c sc then
    if 4 ≤ sc && k0.sbuf.isEmpty && hostWritesDone s c && flushDue s c then set (issueFlush s none)
    throw .wait
  if 4 ≤ sc then set (performPackage s)

/-! The data cache's demand and prefetch requests (R248, R249, R282). -/

/-- The data-cache set of a CA: its bits [13:6], of a stack's through any view those of the stack-contiguous CA (R237, R247). -/
def setOf (a : Nat) : Nat := (if a < 2 ^ 51 then canon a else a) / 64 % 256

/-- Ask for a line in set `set`; once while a request for it by this core is outstanding. -/
def requestLine (s : State) (c set : Nat) (t : Target) (own noData prefetch : Bool) : State :=
  let k := core s c
  if k.fills.any fun f => f.line = lineOf t && f.host = t.host then s
  else if s.txns.any fun x => x.core = c && x.line = lineOf t && x.host = t.host then s
  else
    let s := setCore s c { k with fills := k.fills ++ [{ line := lineOf t, host := t.host, own, prefetch, cc := t.cc, key := t.key }] }
    { s with txns := s.txns ++ [{ core := c, cluster := clusterOf c, line := lineOf t, set, host := t.host, own, noData,
                                  cc := t.cc, key := t.key, stage := .ring, data := [], poison := false, shared := false, dirty := false }] }

/-- A demand miss: counted once, then the sequencer waits (R248). -/
def demandMiss {α : Type} (c a : Nat) (t : Target) (own noData : Bool) : M α := do
  let s ← get
  let out := s.txns.any fun x => x.core = c && x.line = lineOf t && x.host = t.host
  set (if out then s else coreCtr (requestLine s c (setOf a) t own noData false) c 16 1)
  throw .wait

/-- An NC or volatile access first writes back and invalidates the core's copy (R248). -/
def giveUpLine (s : State) (c : Nat) (t : Target) : State :=
  match ownCopy s c t with
  | some (slot, l) =>
    let s := setDcache s c (mapDel (core s c).dcache slot)
    if isDirty l.st then evictDirty s c l else s
  | none => s

/-- R440, R443: bytes of host memory read or written by the task. -/
def countHost (s : State) (c n : Nat) : State := ctxCtr s (ctxOf s c) 6 n

/-! Loads. -/

def poisonExc {α : Type} (a : Nat) : M α := throw (.exc 5 0 a 0)

/-- A volatile or NC load of host memory: from the device cache, else by RdCurr (R293). -/
def hostNcLoad (c : Nat) (t : Target) (n : Nat) : M (List Byte × Bool) := do
  let s ← get
  let k := lineOf t
  let cut := fun (d : List Byte) => (d.drop (t.addr % 64)).take n
  if lineWaits s (whoCore s c) true k then throw .wait
  match (core s c).ncLine with
  | some l =>
    if l.line = k && l.host then
      set (countHost (setCore s c { core s c with ncLine := none }) c n)
      return (cut l.data, l.poison)
    else
      set (setCore s c { core s c with ncLine := none })
      throw .wait
  | none =>
    match devLine s k with
    | some (slot, l0) =>
      let r := snoopAll s true k false
      let l := ((devLine r.1 k).map Prod.snd).getD l0
      let s := globalCtr (putDev r.1 slot { l with stamp := devStamp r.1 }) 112 1
      set (countHost s c n)
      match r.2.data with
      | some (d, p, _, _) => return (cut d, p)
      | none => return (cut l.data, l.poison)
    | none =>
      if hostPending s k then throw .wait
      set (globalCtr (cxlRequest s c 2 k 0 [] false) 113 1)
      throw .wait

/-- A load that bypasses the data cache, at the point of coherence (R248, R271). An NC load allocates nothing. -/
def ncLoad (c : Nat) (t : Target) (n : Nat) (nc : Bool) : M (List Byte × Bool) := do
  modify fun s => giveUpLine s c t
  let s ← get
  if t.host then hostNcLoad c t n
  else readPart { whoCore s c with jig := false } { t with cc := t.cc && !nc } (lineOf t) (t.addr % 64) n

/-- The answer to the core's request for a line that failed at the host, or vanished with its port, used once (R293, R391). -/
def failedFill (s : State) (c : Nat) (t : Target) : Option CLine :=
  (core s c).ncLine.filter fun l => decide (l.line = lineOf t) && decide (l.host = t.host) && l.poison

def useFailed (s : State) (c : Nat) : State := setCore s c { core s c with ncLine := none }

/-- A cached load (R248): a hit, or a miss that waits for its line. -/
def cachedLoad (c a : Nat) (t : Target) (n : Nat) : M (List Byte × Bool) := do
  let s ← get
  match ownCopy s c t with
  | some (slot, l) =>
    set (dcPut s c slot l)
    return ((l.data.drop (t.addr % 64)).take n, l.poison)
  | none => match failedFill s c t with
    | some l =>
      set (useFailed s c)
      return ((l.data.drop (t.addr % 64)).take n, true)
    | none => demandMiss c a t false false

/-- A load in queue mode of `n` bytes at CA `a`. A volatile load waits for volatile stores to its bytes (R271). -/
def queueLoad (c : Nat) (k0 : Core) (p : Prog) (a n : Nat) (vol nc : Bool) : M (List Byte × Bool) := do
  if seqHeld p a n false then throw .wait
  let t ← seqTarget c p a n .r
  let s ← get
  match mirrorOff t with
  | some o =>
    match locate (o / 8 * 8) with
    | some (b, _) => if !(heldAccs s b).isEmpty then throw .wait
    | none => pure ()
    let r := readReg s o
    set r.2
    return ((toBytes 8 r.1.toNat).drop (o % 8) |>.take n, false)
  | none =>
    match bufFind k0.sbuf t n with
    | some (some d) => if vol && (k0.sbuf.any fun b => b.nc && bufOverlaps b t n) then throw .wait else return (d, false)
    | some none => throw .wait
    | none => if vol || nc || !allocates t then ncLoad c t n nc else cachedLoad c a t n

/-! Accesses inside a jig region (R196, R203, R250). -/

/-- The copy in a locked way. -/
def lockedCopy (s : State) (c : Nat) (t : Target) : Option (Nat × CLine) :=
  match ownCopy s c t with
  | some (slot, l) => if (lockMaskOf s c).testBit (slot % 4) then some (slot, l) else none
  | none => none

/-- A locked way of the line's set has lost its line (R250). -/
def lockedLost (s : State) (c a : Nat) : Bool :=
  (List.range 4).any fun w => (lockMaskOf s c).testBit w && (mapFind? (core s c).dcache (4 * setOf a + w)).isNone

/-- The code of an access that R196 does not allow. -/
def regionCode (s : State) (c a : Nat) : Nat := if pinnedCa s c a || lockedLost s c a then 3 else 1

/-- Where an access of a region goes: a locked way's slot, or none for the core's own scratchpad. -/
def regionTarget (c : Nat) (p : Prog) (a n : Nat) (perm : Perm) (vol nc : Bool) : M (Target × Option (Nat × CLine)) := do
  if 2 ^ 51 ≤ a then throw (.abort 1)
  let t ← seqTarget c p a n perm
  let s ← get
  let own := match caKind t.addr with
    | .spad k _ => decide (k = c)
    | _ => false
  match (if vol || nc then none else lockedCopy s c t) with
  | some x => return (t, some x)
  | none => if nc && own then return (t, none) else throw (.abort (if (mirrorOff t).isSome then 1 else regionCode s c a))

def regionLoad (c : Nat) (p : Prog) (a n : Nat) (vol nc : Bool) : M (List Byte × Bool) := do
  let r ← regionTarget c p a n .r vol nc
  let s ← get
  match r.2 with
  | some (slot, l) =>
    set (dcPut s c slot l)
    return ((l.data.drop (r.1.addr % 64)).take n, l.poison)
  | none => readPart (whoCore s c) r.1 (lineOf r.1) (r.1.addr % 64) n

/-- A clean store into a held line. -/
def storeLine (l : CLine) (t : Target) (d : List Byte) : CLine := { l with st := .m, data := splice l.data (t.addr % 64) d }

def regionStore (c : Nat) (p : Prog) (a : Nat) (d : List Byte) (vol nc : Bool) : M Unit := do
  let r ← regionTarget c p a d.length .w vol nc
  let s ← get
  match r.2 with
  | some (slot, l) =>
    if hasOwn l then set (dcPut s c slot (storeLine l r.1 d)) else throw (.abort 3)
  | none => writePart (whoCore s c) r.1 (lineOf r.1) (r.1.addr % 64) d false

/-- A store that needs ownership of its line asks for it; one whose request failed is discarded (R293). -/
def ownMiss (c a : Nat) (t : Target) (noData : Bool) : M Unit := do
  let s ← get
  match failedFill s c t with
  | some _ => set (useFailed s c)
  | none => demandMiss c a t true noData

/-! LD and ST. -/

def isVolatile (ord : BitVec 2) : Bool := ord.getLsbD 1
def isOrdered (ord : BitVec 2) : Bool := ord.getLsbD 0

def seqLd (c : Nat) (k0 : Core) (p : Prog) (f : FmtM) : M Unit := do
  let a := offset (sreg p f.ra) f.off
  let n := sizeBytes f.size
  seqCa a n
  let x ← if p.injig then regionLoad c p a n (isVolatile f.ord) (f.hint = 1) else queueLoad c k0 p a n (isVolatile f.ord) (f.hint = 1)
  if x.2 then poisonExc a
  progM c fun q => setSreg q f.rd (loadValue f.size (ofBytes x.1))

/-- A store in queue mode. -/
def queueStore (c : Nat) (k0 : Core) (p : Prog) (a : Nat) (d : List Byte) (f : FmtM) : M Unit := do
  let n := d.length
  if seqHeld p a n true then throw .wait
  let t ← seqTarget c p a n .w
  if isOrdered f.ord then releaseM k0 c f.scope.toNat
  let s ← get
  match mirrorOff t with
  | some o => set (performWrite s { rq := .mirror, key := o, size := n, val := BitVec.ofNat 64 (ofBytes d) })
  | none =>
    if isVolatile f.ord || f.hint = 1 || !allocates t then
      set (giveUpLine s c t)
      bufPush c { tgt := t, named := a, nc := true, data := d }
    else
      match ownCopy s c t with
      | some (slot, l) =>
        if hasOwn l then
          if l.poison then poisonExc a
          set (dcPut s c slot l)
          bufPush c { tgt := t, named := a, nc := false, data := d }
        else ownMiss c a t false
      | none => ownMiss c a t false

def seqSt (c : Nat) (k0 : Core) (p : Prog) (f : FmtM) : M Unit := do
  let a := offset (sreg p f.ra) f.off
  let n := sizeBytes f.size
  seqCa a n
  let d := toBytes n (sreg p f.rd).toNat
  if p.injig then regionStore c p a d (isVolatile f.ord) (f.hint = 1) else queueStore c k0 p a d f

/-! AMO (R178, R277). -/

/-- The old bytes, and the new ones, of an AMO on `n` bytes. -/
def amoBytes (p : Prog) (f : FmtA) (n : Nat) (old : List Byte) : List Byte :=
  toBytes n (amoNew f.aop.toNat (8 * n) (ofBytes old) ((sreg p f.rb).toNat % 2 ^ (8 * n)) ((sreg p f.rd).toNat % 2 ^ (8 * n)))

/-- In the data cache, once it holds the line Modified. -/
def amoCached (c a : Nat) (p : Prog) (f : FmtA) (t : Target) (n : Nat) : M (List Byte) := do
  let s ← get
  match ownCopy s c t with
  | some (slot, l) =>
    if hasOwn l then
      if l.poison then poisonExc a
      let old := (l.data.drop (t.addr % 64)).take n
      set (dcPut s c slot (storeLine l t (amoBytes p f n old)))
      return old
    else demandMiss c a t true false
  | none => if (failedFill s c t).isSome then poisonExc a else demandMiss c a t true false

/-- At the location's controller, after every copy has been recalled. -/
def amoLocal (c a : Nat) (p : Prog) (f : FmtA) (t : Target) (n : Nat) : M (List Byte) := do
  let s ← get
  if lineBusy s false (lineOf t) then throw .wait
  set (recallLine s false (lineOf t))
  let s ← get
  let w := { whoCore s c with jig := false }
  let x ← readPart w { t with cc := false } (lineOf t) (t.addr % 64) n
  if x.2 then poisonExc a
  writePart w { t with cc := false } (lineOf t) (t.addr % 64) (amoBytes p f n x.1) false
  return x.1

/-- On host memory: the device cache obtains the line in M or E first (R293). -/
def amoHost (c a : Nat) (p : Prog) (f : FmtA) (t : Target) (n : Nat) : M (List Byte) := do
  let s ← get
  let k := lineOf t
  if lineBusy s true k then throw .wait
  match (core s c).ncLine with
  | some l =>
    set (setCore s c { core s c with ncLine := none })
    if l.line = k && l.host && l.poison then poisonExc a else throw .wait
  | none =>
    match devLine s k with
    | some (slot, l0) =>
      if l0.st = .m || l0.st = .e then
        let s := recallLine s true k
        let l := ((devLine s k).map Prod.snd).getD l0
        if l.poison then poisonExc a
        let old := (l.data.drop (t.addr % 64)).take n
        set (countHost (putDev s slot { storeLine l t (amoBytes p f n old) with stamp := devStamp s }) c (2 * n))
        return old
      else
        if hostPending s k then throw .wait
        set (cxlRequest s c 1 k 0 [] false)
        throw .wait
    | none =>
      if hostPending s k then throw .wait
      set (globalCtr (cxlRequest s c 1 k 0 [] false) 113 1)
      throw .wait

def seqAmo (c : Nat) (k0 : Core) (p : Prog) (f : FmtA) : M Unit := do
  let a := offset (sreg p f.ra) f.off
  let n := sizeBytes f.size
  seqCa a n
  if a < 2 ^ 51 && isMirror a then throw (.exc 1 0 a 0)
  if seqHeld p a n true then throw .wait
  let t ← seqTarget c p a n .a
  if (mirrorOff t).isSome then throw (.exc 1 0 a 0)
  if (bufFind k0.sbuf t n).isSome then throw .wait
  if f.ord.getLsbD 1 then releaseM k0 c f.scope.toNat
  let old ← if t.host then amoHost c a p f t n
    else if decide (f.scope.toNat ≤ 1) && allocates t then amoCached c a p f t n else amoLocal c a p f t n
  progM c fun q => setSreg q f.rd (BitVec.ofNat 64 (ofBytes old))

/-! PF, CACHE, DLOCK, FENCE (R180, R181, R249-R251). -/

/-- A fill into the line's set would need the write-back buffer while it is full. -/
def needsFullWb (s : State) (c a : Nat) : Bool :=
  (core s c).wb.isSome && match mapFind? (core s c).dcache (dcVictim (core s c).dcache (lockMaskOf s c) (setOf a)) with
    | some l => isDirty l.st
    | none => false

def seqPf (c : Nat) (p : Prog) (f : FmtM) : M Unit := do
  let a := offset (sreg p f.ra) f.off
  let s ← get
  let own := decide (f.hint = 1)
  if 2 ^ 51 ≤ a then pure ()
  else match segCheck s p.ctx a 1 (if own then .w else .r) with
    | .error _ => pure ()
    | .ok w =>
      let t := segTarget a w
      if isHole s t.addr || !allocates t || (ownCopy s c t).isSome || needsFullWb s c a
          || decide (4 ≤ ((core s c).fills.filter Fill.prefetch).length) then pure ()
      else set (requestLine s c (setOf a) t own false true)

/-- CACHE WB: the line is written back and stays, clean (R181, R285). -/
def writeBackLine (s : State) (c : Nat) (slot : Nat) (l : CLine) : State :=
  let s := evictDirty s c { l with st := .o }
  let shared := l.st = .o || (!l.host && (findLine (cluster s (clusterOf c)).ccache false l.line).isSome)
  setDcache s c (mapPut (core s c).dcache slot { l with st := if shared then .s else .e })

/-- CACHE ZL (R251). -/
def zeroLine (c a : Nat) (t : Target) : M Unit := do
  let s ← get
  if allocates t then
    match ownCopy s c t with
    | some (slot, l) =>
      if hasOwn l then set (dcPut s c slot { l with st := .m, data := List.replicate 64 0, poison := false })
      else ownMiss c a t true
    | none => ownMiss c a t true
  else bufPush c { tgt := { t with addr := lineOf t * 64 }, named := a / 64 * 64, nc := true, data := List.replicate 64 0 }

def seqCache (c : Nat) (k0 : Core) (p : Prog) (op : Nat) (f : FmtM) : M Unit := do
  if op = 4 then modify fun s => setCore s c { core s c with icache := [] }
  else
    let a := offset (sreg p f.ra) f.off
    if 2 ^ 52 ≤ a then throw (.exc 4 6 a 0)
    let perm : Perm := if op = 0 || op = 3 then .w else .r
    let b := a / 64 * 64
    if op = 0 && seqHeld p b 64 true then throw .wait
    let t ← seqTarget c p a 1 perm
    if let some o := mirrorOff t then
      (if op = 0 then modify fun s => performWrite s { rq := .mirror, key := o / 64 * 64, size := 64, val := 0 } else pure ())
    else if k0.sbuf.any fun x => bufOverlaps x { t with addr := lineOf t * 64 } 64 then throw .wait
    else if op = 0 then zeroLine c a t
    else
      let s ← get
      match ownCopy s c t with
      | none => pure ()
      | some (slot, l) =>
        let drop := setDcache s c (mapDel (core s c).dcache slot)
        if op = 1 then (if isDirty l.st then set (writeBackLine s c slot l) else pure ())
        else if op = 2 then set (if isDirty l.st then evictDirty drop c l else drop)
        else set drop

def seqFence (c : Nat) (k0 : Core) (f : FmtM) : M Unit := do
  if f.ord ≠ 1 then releaseM k0 c f.scope.toNat

/-! Peer accesses (R179, R279, R280, R397). -/

def peerOf (p : Prog) (rb : BitVec 6) : Nat := (sreg p rb).toNat % 256

/-- The outstanding PLD of a core's task. -/
def pldOut (s : State) (c : Nat) (p : Prog) : Bool :=
  s.dtOut.any fun r => decide (r.core = c) && decide (r.task = p.task) && match r.kind with
    | .pld _ _ => true
    | _ => false

def countPeer (s : State) (c n : Nat) : State := ctxCtr s (ctxOf s c) 7 n

def seqPld (c : Nat) (p : Prog) (f : FmtM) : M Unit := do
  let a := offset (sreg p f.ra) f.off
  let n := sizeBytes f.size
  seqCa a n
  let s ← get
  let dead : M Unit := progM c fun q => { setSreg q f.rd 0 with deadrd := true }
  match p.reply with
  | some (.data v poison) =>
    if poison then poisonExc a
    modify fun s => countPeer s c n
    progM c fun q => setSreg q f.rd (loadValue f.size v)
  | some .dead => dead
  | some .refused => throw (.exc 4 3 a 0)
  | none =>
    if pldOut s c p then throw .wait
    else if !peerAlive s (peerOf p f.rb) then dead
    else
      set (dtRequest s (peerOf p f.rb) c p.task 0 (.pld f.rd.toNat n) dtREAD a (toBytes 4 n) false)
      throw .wait

def seqPst (c : Nat) (k0 : Core) (p : Prog) (f : FmtM) : M Unit := do
  let a := offset (sreg p f.ra) f.off
  let n := sizeBytes f.size
  seqCa a n
  if f.ord = 1 then releaseM k0 c 5
  let s ← get
  if !peerAlive s (peerOf p f.rb) then progM c fun q => { q with lost := true }
  else set (countPeer (dtRequest s (peerOf p f.rb) c p.task 0 .pst dtWRITE a (toBytes n (sreg p f.rd).toNat) false) c n)

/-! FTLD and CBLD (R182), and the descriptor of an ISSUE (R183): reads of the core's own scratchpad. -/

/-- `n` bytes at CA `a` of the own scratchpad; they wait for buffered stores and engine operations that overlap them. -/
def ownSpadRead (c : Nat) (k0 : Core) (p : Prog) (a n : Nat) : M (List Byte) := do
  if a < spadBase c ∨ spadBase c + spadSize < a + n then throw (.exc 4 5 a 0)
  let s ← get
  if seqHeld p a n false then throw .wait
  match segCheck s p.ctx a n .r with
  | .error sub => throw (.exc 4 sub a 0)
  | .ok w =>
    let t := segTarget a w
    if k0.sbuf.any fun b => bufOverlaps b t n then throw .wait
    let r ← readParts (whoCore s c) t (parts t.addr n)
    if r.bad then poisonExc a
    return r.bytes

/-- The first number at which a list of results fails. -/
def firstBad (base : Nat) (l : List Bool) : Option Nat := (l.findIdx? fun b => !b).map (· + base)

def seqFtld (c : Nat) (k0 : Core) (p : Prog) (f : FmtM) : M Unit := do
  let a := offset (sreg p f.ra) f.off
  seqCa a 8
  let n := f.rb.toNat
  let bs ← ownSpadRead c k0 p a (8 * n)
  let ws := wordsOf n bs
  progM c fun q => { q with fmt := (List.range n).foldl (fun m i => mapPut m (f.rd.toNat + i) (fmtLoaded (wordAt ws i))) q.fmt }
  match firstBad f.rd.toNat (ws.map fmtLoadOk) with
  | some i => throw (.exc 7 0 a i)
  | none => return ()

/-- The 32 bytes of a codebook slot hold nothing beside the values and BASE. -/
def cbOk (b : List Byte) : Bool := ((b.getD 16 0).toNat ≤ 1) && (b.drop 17).all (· = 0)

def seqCbld (c : Nat) (k0 : Core) (p : Prog) (f : FmtM) : M Unit := do
  let a := offset (sreg p f.ra) f.off
  seqCa a 8
  let n := f.rb.toNat
  let bs ← ownSpadRead c k0 p a (32 * n)
  let slot := fun i => (bs.drop (32 * i)).take 32
  progM c fun q => { q with cb := (List.range n).foldl (fun m i =>
    mapPut m (f.rd.toNat + i) { valid := cbOk (slot i), base := ((slot i).getD 16 0).getLsbD 0, bytes := (slot i).take 16 }) q.cb }
  match firstBad f.rd.toNat ((List.range n).map fun i => cbOk (slot i)) with
  | some i => throw (.exc 7 0 a i)
  | none => return ()

/-! The store buffer drains. -/

/-- An NC or volatile store to host memory: in the device cache, which first obtains the line (R293). -/
def hostNcStore (c : Nat) (b : BufStore) : M Unit := do
  let s ← get
  let k := lineOf b.tgt
  if lineBusy s true k then throw .wait
  match devLine s k, (core s c).ncLine with
  | some (slot, l0), _ =>
    if l0.st = .m || l0.st = .e then
      let s := recallLine s true k
      let l := ((devLine s k).map Prod.snd).getD l0
      set (countHost (putDev s slot { storeLine l b.tgt b.data with stamp := devStamp s }) c b.data.length)
    else
      if hostPending s k then throw .wait
      set (cxlRequest s c 1 k 0 [] false)
      throw .wait
  | none, some l =>
    set (setCore s c { core s c with ncLine := none })
    if l.line = k && l.host && l.poison then return () else throw .wait
  | none, none =>
    if hostPending s k then throw .wait
    set (globalCtr (cxlRequest s c 1 k 0 [] false) 113 1)
    throw .wait

/-- A buffered store asks for its line again; where that request has failed, the write is discarded (R293). -/
def drainMiss (c : Nat) (b : BufStore) : M Unit := do
  let s ← get
  match failedFill s c b.tgt with
  | some _ => set (useFailed s c)
  | none =>
    set (requestLine s c (setOf b.named) b.tgt true false false)
    throw .wait

/-- A buffered store is performed; it waits while it lacks its line. -/
def drainStore (c : Nat) (b : BufStore) : M Unit := do
  let s ← get
  if b.nc then
    if b.tgt.host && !b.tgt.io then hostNcStore c b
    else writePart { whoCore s c with jig := false } b.tgt (lineOf b.tgt) (b.tgt.addr % 64) b.data false
  else
    match ownCopy s c b.tgt with
    | some (slot, l) =>
      if hasOwn l then set (dcPut s c slot (storeLine l b.tgt b.data)) else drainMiss c b
    | none => drainMiss c b

/-- The buffered store that may leave next from place `n`: writes to different bytes are performed in any order, those to one
byte in program order (R268). -/
def drainable (l : List BufStore) (n : Nat) : Option BufStore :=
  match l[n]? with
  | some b => if (l.take n).any fun x => bufOverlaps x b.tgt b.data.length then none else some b
  | none => none

/-- STORE_BUFFER_DRAIN (R264, R266, R268). -/
def execStoreBufferDrain (core : CoreIx) (entry : Nat) (s : State) : Out :=
  let c := core.val
  match drainable (Machine.core s c).sbuf entry with
  | none => idle s
  | some b =>
    if !running s then idle s
    else match (drainStore c b).run s with
      | .ok _ s' => done (setCore s' c { Machine.core s' c with sbuf := (Machine.core s c).sbuf.eraseIdx entry })
      | .error _ s' => done s'

end Sys2Proof.Machine
end

