-- ==== Sys2Proof/Machine/SeqCtl.lean ====
section
/-! DEFINITION. ISSUE (R183, R184, R204), credits (R190, R191), special registers (R163), PREHEAT, MARK, jig regions
(R193-R197), YIELD, END and the returns of control of a sequencer. -/

namespace Sys2Proof.Machine

/-! ISSUE. -/

def queueDepth (e : Nat) : Nat :=
  match e with
  | 2 | 4 | 5 => 32
  | 3 => 8
  | _ => 16

/-- Operations of a queue that have not started: one leaves its queue as it starts (R231). -/
def queued (p : Prog) (e : Nat) : Nat := ((queue p e).filter fun o => !opStarted o).length

/-- R113: the table of an in-region Tongs operation is one that the contract allows. -/
def jigTable (s : State) (c : Nat) (p : Prog) (d : List Word) : Bool :=
  match tableOf s p (fld (wordAt d 0) 55 52) with
  | some (_, t) => decide (dPlace t = 0) && decide (dNcores t = 1) && decide (dCore0 t = c) && !dLive t && !dSsp t
  | none => false

/-- R204: the operation may appear in a jig region. -/
def jigOp (s : State) (c : Nat) (p : Prog) (e : Nat) (d : List Word) : Bool :=
  let code := fld (wordAt d 0) 63 56
  match e with
  | 2 => (code = 0x40 || code = 0x41 || code = 0x42) && jigTable s c p d
  | 4 | 5 => (code = 0x80 || code = 0x81) && !flag (wordAt d 0) 55
  | _ => (engineOpcodes e).contains code

/-- The descriptor an ISSUE captures, word PW replaced (R183). -/
def issueDesc (p : Prog) (f : FmtE) (bs : List Byte) : List Word :=
  let ws := wordsOf 8 bs
  if f.pe then ws.set f.pw.toNat (sreg p f.rb) else ws

def issuedOf (p : Prog) (e : Nat) : Nat := mapGet (fun _ => 0) p.issued e
def issuedAll (p : Prog) : Nat := (List.range 6).foldl (fun n e => n + issuedOf p e) 0

/-- A captured operation; `p` holds the formats, codebooks and rules as they stood before the bundle. -/
def newOp (p : Prog) (f : FmtE) (d : List Word) (ord seq : Nat) : EngOp :=
  { desc := d, fmts := p.fmt, cbs := p.cb, rules := p.rules, credit := if f.ce then some f.cq.toNat else none, ord,
    inJig := p.injig, pins := ((if p.injig then p.jig else none).map Jig.parts).getD [], ran := false, progress := 0, locked := false, slot := none, parked := false, sent := false, tags := [],
    sums := [], noted := false, rows := [], marks := [], deferred := [], ldesc := [], lepoch := 0, hole := none, parity := false, orphaned := false, exts := [], seq }

/-- The operation that an ISSUE gives its engine, with the extents it records (R267); `p` is the program state as the bundle has left it
by then. -/
def issueOp (s : State) (c : Nat) (p0 : Prog) (f : FmtE) (d : List Word) (p : Prog) : EngOp :=
  let e := f.eng.toNat
  let op := newOp p0 f d (issuedOf p e + 1) (issuedAll p + 1)
  { op with exts := (extents s p c e op).map fun x => (x.lo, x.hi, x.wr) }

/-- The engine takes the operation, or discards it where its fault is pending before the bundle (R163, R186). -/
def enqueue (s : State) (c : Nat) (p0 : Prog) (f : FmtE) (d : List Word) (p : Prog) : Prog :=
  let e := f.eng.toNat
  let op := issueOp s c p0 f d p
  let p' := { p with issued := mapSet (fun _ => 0) p.issued e (issuedOf p e + 1) }
  if p0.faultedEng.contains e then p' else setQueue p' e (queue p e ++ [op])

/-- A buffered store that an operation's extents overlap, by the CAs as they were named (R267). -/
def bufHeld (k0 : Core) (op : EngOp) : Bool :=
  k0.sbuf.any fun b => op.exts.any (conflict (b.named, b.named + b.data.length, true))

def seqIssue (c : Nat) (k0 : Core) (p : Prog) (f : FmtE) : M Unit := do
  let e := f.eng.toNat
  let ra := (sreg p f.ra).toNat
  if ra % 64 ≠ 0 then throw (.exc 3 0 (spadBase c + ra) 0)
  let off := (ra + 64 * f.off64.toNat) % 2 ^ 64
  if spadSize < off + 64 then throw (.exc 4 5 (spadBase c + off) 0)
  let bs ← ownSpadRead c k0 p (spadBase c + off) 64
  let d := issueDesc p f bs
  let s ← get
  let q := (prog? s c).getD p
  if p.injig then
    if !jigOp s c p e d then throw (.abort 2)
    if !(core s c).engOn.getLsbD e then
      set (requestEngines s c (BitVec.ofNat 6 (2 ^ e)))
      throw (.abort 6)
    if queueDepth e ≤ queued q e then throw (.abort 5)
  else if !(core s c).engOn.getLsbD e then
    set (requestEngines s c (BitVec.ofNat 6 (2 ^ e)))
    throw .wait
  else if queueDepth e ≤ queued q e || bufHeld k0 (issueOp s c p f d q) then throw .wait
  progM c (enqueue s c p f d)

/-- Every operation of the engines of `mask` has completed or been discarded (R185). -/
def enginesDone (p : Prog) (mask : Nat) : Bool := (List.range 6).all fun e => !mask.testBit e || (queue p e).isEmpty

/-- Wait for the operations that earlier bundles have issued to the engines of `mask` (R185; log entry 137). -/
def waitEngines (p : Prog) (mask : Nat) : M Unit := do
  if !enginesDone p mask then throw .wait

/-! Credits (R190, R191). -/

def seqCwait (c : Nat) (p : Prog) (f : FmtC) : M Unit := do
  let q := f.cq.toNat
  if (credit p q).toNat < f.n.toNat then throw .wait
  if p.blocked then modify fun s => coreRing s c 0x05 p.ctx.toNat (place 35 32 q ||| place 31 0 f.n.toNat)
  progM c fun x => setCredit x q (credit x q - BitVec.ofNat 32 f.n.toNat)

def seqCsig (c : Nat) (k0 : Core) (p : Prog) (f : FmtC) : M Unit := do
  let t := (sreg p f.rb).toNat % 65536
  if !scopeHolds f.scope.toNat c t then throw (.exc 1 0 0 0)
  releaseM k0 c f.scope.toNat
  let r := signalCore (← get) p.ctx t f.cq.toNat f.n.toNat
  set r.2
  if !r.1 then progM c fun x => { x with sigdrop := true }

/-! Special registers (R163). -/

def coreIdWord (c : Nat) : Word :=
  place 15 0 c ||| place 19 16 (c % 8) ||| place 23 20 (clusterOf c % 6) ||| place 27 24 (regionOf c % 4) ||| place 31 28 (dieOf c)

/-- What MFS reads. -/
def specialReg (s : State) (c : Nat) (p : Prog) (num : Nat) : Word :=
  match num with
  | 0x000 => coreIdWord c
  | 0x001 => p.ctx.setWidth 64
  | 0x002 => p.taskId.setWidth 64
  | 0x010 => s.stc
  | 0x011 => cycOf s c
  | 0x020 => cstat p
  | 0x021 => p.numsum.setWidth 64
  | 0x022 => p.poisonCnt
  | 0x023 => p.missCnt
  | 0x030 => p.ehnd.setWidth 64
  | 0x031 => p.epc.setWidth 64
  | 0x032 => p.ecode.setWidth 64
  | 0x033 => p.einfo
  | 0x034 => p.eaddr.setWidth 64
  | 0x040 => jigstat p
  | 0x050 => p.mark.setWidth 64
  | 0x060 => (core s c).engOn.setWidth 64
  | _ => 0

/-- MTS: the RW fields of CSTAT, or EHND, whose bits [2:0] are 0. -/
def writeSpecial (num : Nat) (v : Word) (p : Prog) : Prog :=
  if num = 0x30 then { p with ehnd := BitVec.ofNat 52 (v.toNat / 8 * 8) } else writeCstat p v

/-! PREHEAT and MARK (R192, R197). -/

def preheat (s : State) (cl cores engines : Nat) : State :=
  if 48 ≤ cl then s
  else (List.range 8).foldl (fun s i =>
    let k := cl * 8 + i
    if cores.testBit i && coreEnabled s k && !coreFenced s k then requestEngines s k (BitVec.ofNat 6 engines) else s) s

def markRec (p : Prog) (imm : Nat) : Word := place 63 32 imm ||| place 31 0 p.taskId.toNat

def seqMark (s : State) (c : Nat) (p : Prog) (f : FmtL) : State :=
  let w2 := markRec p f.imm.toNat
  let s := updProg s c fun q => { q with mark := BitVec.ofNat 33 (f.imm.toNat + (if f.flag then 2 ^ 32 else 0)) }
  let s := traceRec s c (if f.flag then 4 else 3) p.ctx.toNat w2 (cycOf s c)
  if f.flag then watchMatch s c p (bitsN f.imm.toNat 31 16) (bitsN f.imm.toNat 15 0) w2 else s

/-! Jig regions (R193-R195, R202). -/

/-- The strike line that the program's line `n` names (R217, R336). -/
def physLine (s : State) (p : Prog) (n : Nat) : Option Nat := (taskOf s p.task).bind fun t => t.lines[n]?

/-- A line enters the instruction cache (R246); its replacement is not given, so a free value chooses, among the lines that are not
of `pinned` (R193). -/
def icFill (s : State) (c k : Nat) (pinned : List Nat) (d : List Byte) : State :=
  let l := (core s c).icache
  let same := (l.map Prod.fst).filter fun x => x % 256 = k % 256
  if same.length < 4 then setCore s c { core s c with icache := mapPut l k d }
  else
    let f := freeNat s
    let free := same.filter fun x => !pinned.contains x
    let from_ := if free.isEmpty then same else free
    setCore f.2 c { core f.2 c with icache := mapPut (mapDel l (from_.getD (f.1 % from_.length) 0)) k d }

/-- The line of CA `a` is read into the instruction cache, where it displaces none of `pinned`. -/
def icLoad (c : Nat) (p : Prog) (pinned : List Nat) (a : Nat) : M Unit := do
  let t ← seqTarget c p a 8 .x
  let s ← get
  if (mapFind? (core s c).icache (icKey p.ctx a)).isSome then pure ()
  else
    set (coreCtr s c 17 1)
    let x ← readPart { whoCore s c with jig := false } t (lineOf t) 0 64
    if x.2 then poisonExc a
    modify fun s => icFill s c (icKey p.ctx a) pinned x.1

/-- JIG.OPEN's loads: a line that the program may not fetch is left out. -/
def icPin (c : Nat) (p : Prog) (pinned : List Nat) (a : Nat) : Nat → M Unit
  | 0 => return ()
  | n + 1 => do
    match (icLoad c p pinned a).run (← get) with
    | .ok _ s => set s
    | .error (.exc 4 _ _ _) _ => pure ()
    | .error e s =>
      set s
      throw e
    icPin c p pinned (a + 64) n

def startRegion (s : State) (c : Nat) (lead : Nat) (group : List Nat) : State :=
  let s := updProg s c fun q => { q with armed := false, injig := true, jig := q.jig.map fun j => { j with lead, parts := group } }
  match prog? s c with
  | some q => coreRing s c 0x0B q.ctx.toNat (place 3 0 (((q.jig.bind Jig.line)).getD 0) ||| place 31 16 q.jid.toNat)
  | none => s

def seqJigOpen (c : Nat) (k0 : Core) (p : Prog) (f : FmtL) (nextPc : Nat) : M Unit := do
  let s ← get
  if f.flag && (physLine s p (jLine f)).isNone then throw (.exc 1 0 0 0)
  waitEngines p 63
  if !k0.sbuf.isEmpty || (!p.pend.isEmpty && !p.inexc) then throw .wait
  let hi := (nextPc + 64 * jLen f + 63) / 64 * 64
  let lines := (List.range (hi / 64 - nextPc / 64)).map fun i => icKey p.ctx (nextPc / 64 * 64 + 64 * i)
  icPin c p lines (nextPc / 64 * 64) (hi / 64 - nextPc / 64)
  let line := if f.flag then physLine s p (jLine f) else none
  modify fun s => setReg s (bCore c) 0x2C0 0
  progM c fun q => { q with
    jid := jJid f, slips := 0, armed := f.flag,
    jig := some { lo := nextPc, hi, line, lead := c, parts := [c], slip := none, cycle := 0, last := none, fmt0 := q.fmt, cb0 := q.cb,
                  curves0 := q.curves, rules0 := q.rules } }
  match line with
  | some l => modify fun s =>
      let s := setStrikeLine s l { strikeLine s l with armed := (strikeLine s l).armed ++ [c] }
      coreRing s c 0x0A p.ctx.toNat (place 3 0 l ||| place 31 16 (jJid f).toNat)
  | none => modify fun s => startRegion s c c [c]

/-- JIG.SEAL (R195). -/
def sealRegion (s : State) (c : Nat) (p : Prog) : State :=
  let s := coreRing (traceRec s c 5 p.ctx.toNat (place 63 48 p.jid.toNat ||| place 47 40 p.jcode.toNat ||| place 31 0 p.taskId.toNat)
    (place 31 0 p.slips.toNat)) c 0x0C p.ctx.toNat (place 31 16 p.jid.toNat)
  let s := { s with undo := s.undo.filter fun u => u.core ≠ c }
  updProg s c fun q => { q with injig := false, jig := none, streams := q.streams.map fun e => (e.1, { e.2 with inJig := false }) }

def seqStrike (c : Nat) (p : Prog) (f : FmtS) : M Unit := do
  let s ← get
  match physLine s p (f.rd.toNat / 4) with
  | none => throw (.exc 1 0 0 0)
  | some l =>
    if p.granted then pure ()
    else
      let x := strikeLine s l
      if !(x.strikers.any fun k => k.1 = c) then
        set (setStrikeLine s l { x with strikers := x.strikers ++ [(c, (sreg p f.ra).toNat)] })
      throw .wait

/-! Task control (R197-R199, R313). -/

/-- A switched-out part of a task has no agent that still waits for its translation. -/
def canResume (s : State) (t : Task) (c : Nat) : Bool :=
  !((cluster s (clusterOf c)).trk.any fun x => !isFailed x.stage && x.waiters.any fun w => decide (w.core = c) && decide (w.task = t.id))

/-- Another task is ready for the core: not started there yet, or switched out and able to resume. -/
def otherReady (s : State) (c task : Nat) : Bool :=
  s.tasks.any fun t => t.id ≠ task && placedAt t c && (if t.started.contains c then (mapFind? t.saved c).isSome && canResume s t c else true)

/-- A free save slot of a context (R314, CTX_SAVE). -/
def freeSlot (s : State) (ctx : BitVec 12) : Option Nat :=
  let used := (s.tasks.filter fun t => t.ctx = ctx).flatMap fun t => t.saved.map fun e => e.2.1
  (List.range (wkf s (.ctx ctx) 0x8110 63 56)).find? fun n => !used.contains n

def seqYield (c : Nat) (p : Prog) : M Unit := do
  waitEngines p 63
  modify fun s => if otherReady s c p.task && (freeSlot s p.ctx).isSome then updProg s c fun q => { q with yielding := true } else s

/-- END waits while a fault is pending, which is taken first, also while the handler runs (R198, R199). Operations that its own bundle
issues are completed before the task leaves (log entry 137). -/
def seqEnd (c : Nat) (k0 : Core) (p : Prog) : M Unit := do
  waitEngines p 63
  releaseM k0 c 5
  if !p.pend.isEmpty then throw .wait
  modify fun s => leaveRest s c 0

/-! Branches (R174). -/

def branchTo (c : Nat) (a : Int) : M Unit := progM c fun q => { q with pc := BitVec.ofInt 52 a }

def seqBri (c : Nat) (p : Prog) (f : FmtB) : M Unit := do
  let a := (sreg p f.ra).toNat
  if a % 8 ≠ 0 ∨ 2 ^ 52 ≤ a then throw (.exc 3 0 a 0)
  branchTo c a

def seqEret (c : Nat) (p : Prog) : M Unit := do
  if !p.inexc then throw (.exc 1 0 0 0)
  progM c exceptionReturn

end Sys2Proof.Machine
end

