-- ==== Sys2Proof/Machine/Seq.lean ====
section
/-! DEFINITION. A sequencer's bundles (R164-R168, R199): instructions that arrive are staged until their bundle is
complete; then the bundle is fetched, checked and performed as a whole, waits, raises an exception or aborts its jig
region. Each instruction's meaning is `effect`. -/

namespace Sys2Proof.Machine

/-- The effect of one instruction that executes: `ca` is its bundle's CA, `nextPc` that of the next bundle; `k0` and `p`
are the core and its program state before the bundle. -/
def effect (c : Nat) (k0 : Core) (p : Prog) (ca nextPc : Nat) : SOp → M Unit
  | .nop _ => return ()
  | .alu op f => progM c fun q => setSreg q f.rd (aluOp op (sreg p f.ra) (sreg p f.rb))
  | .alui op f => progM c fun q => setSreg q f.rd (aluOp op (sreg p f.ra) (f.imm.signExtend 64))
  | .psel f => progM c fun q => setSreg q f.rd (if preg p (f.fn.setWidth 4) then sreg p f.ra else sreg p f.rb)
  | .clz f => progM c fun q => setSreg q f.rd (BitVec.ofNat 64 (clzWord (sreg p f.ra)))
  | .popc f => progM c fun q => setSreg q f.rd (BitVec.ofNat 64 (popWord (sreg p f.ra)))
  | .bfx f => progM c fun q => setSreg q f.rd (bfxWord (sreg p f.ra) f.fn)
  | .bfi f => progM c fun q => setSreg q f.rd (bfiWord (sreg p f.rd) (sreg p f.ra) f.fn)
  | .movi f => progM c fun q => setSreg q f.rd (f.imm.signExtend 64)
  | .movk f => progM c fun q => setSreg q f.rd
      (if f.flag then setFld (sreg p f.rd) 63 32 f.imm.toNat else setFld (sreg p f.rd) 31 0 f.imm.toNat)
  | .cmp f => progM c fun q =>
      let v := condition f.cond (sreg p f.ra) (sreg p f.rb)
      setPreg (setPreg q f.pd v) f.pe (!v)
  | .cmpi f => progM c fun q =>
      let v := condition f.cond (sreg p f.ra) (f.imm.signExtend 64)
      setPreg (setPreg q f.pd v) f.pe (!v)
  | .plog f => progM c fun q => setPreg q f.pd (predOp f.op (preg p f.pa) (preg p f.pb))
  | .br f => branchTo c (ca + 8 * f.disp.toInt)
  | .bri f => seqBri c p f
  | .call f => do
    progM c fun q => setSreg q f.rd (BitVec.ofNat 64 nextPc)
    branchTo c (ca + 8 * f.disp.toInt)
  | .eret _ => seqEret c p
  | .ld f => seqLd c k0 p f
  | .st f => seqSt c k0 p f
  | .amo f => seqAmo c k0 p f
  | .pf f => seqPf c p f
  | .cache op f => seqCache c k0 p op f
  | .dlock f => progM c fun q => { q with lockMask := f.imm.setWidth 4 }
  | .fence f => seqFence c k0 f
  | .pld f => seqPld c p f
  | .pst f => seqPst c k0 p f
  | .ftld f => seqFtld c k0 p f
  | .cbld f => seqCbld c k0 p f
  | .issue f => seqIssue c k0 p f
  | .ewait f => waitEngines p f.rd.toNat
  | .cwait f => seqCwait c p f
  | .csig f => seqCsig c k0 p f
  | .ctest f => progM c fun q => setPreg q (f.rd.setWidth 4) (decide (f.n.toNat ≤ (credit p f.cq.toNat).toNat))
  | .crd f => progM c fun q => setSreg q f.rd ((credit p f.cq.toNat).setWidth 64)
  | .cset f => progM c fun q => setCredit q f.cq.toNat ((sreg p f.rb).setWidth 32)
  | .mfs f => do
    let s ← get
    progM c fun q => setSreg q f.rd (specialReg s c p f.num.toNat)
  | .mts f => progM c (writeSpecial f.num.toNat (sreg p f.ra))
  | .preheat f => modify fun s => preheat s (sreg p f.ra).toNat (bitsN f.rest.toNat 22 15) (bitsN f.rest.toNat 14 9)
  | .strike f => seqStrike c p f
  | .jigOpen f => seqJigOpen c k0 p f nextPc
  | .jigSeal _ => do
    if !p.injig then throw (.exc 1 0 0 0)
    modify fun s => sealRegion s c p
  | .mark f => modify fun s => seqMark s c p f
  | .yieldI _ => seqYield c p
  | .endTask _ => seqEnd c k0 p
  | .waitI f => do
    let s ← get
    progM c fun q => { q with waitTo := some (cycOf s c + f.imm.setWidth 64) }
  | .brk f => throw (.exc 0x0A 0 0 (f.imm.toNat % 65536))

/-- The word at CA `a`, where the instruction cache holds it, has an opcode of R171's list. -/
def listedAt (k0 : Core) (p : Prog) (a : Nat) : Bool :=
  match icWord k0 p.ctx a with
  | some w => listedWord w
  | none => true

/-- Instruction `i` of a bundle: its decoding checks, its predicate, what a region forbids, its effect (R168, R171). -/
def perform (c : Nat) (k0 : Core) (p : Prog) (ca nextPc i : Nat) (x : Hdr × SOp) : M Unit := do
  if !listedAt k0 p (ca + 8 * i) || !decodes x.2 then throw (.exc 1 0 0 0)
  if qualified p x.1 then
    if p.injig && notInJig x.2 then throw (.abort 2)
    effect c k0 p ca nextPc x.2

/-! Fetch (R174, R193, R246). -/

/-- The fetch of the instruction at CA `a`; injected errors of the core fire here (R425). -/
def fetchOne (c : Nat) (p : Prog) (a : Nat) : M Unit := do
  match (if p.injig then p.jig else none) with
  | some j => if a < j.lo / 64 * 64 ∨ j.hi ≤ a then throw (.abort 4)
  | none => pure ()
  let s ← get
  let s := (fireInjection (fireInjection s (bCore c) 6 (some c) none).2 (bCore c) 3 (some c) none).2
  let r := fireInjection s (bCore c) 4 (some c) none
  set (if r.1 then setCore r.2 c { core r.2 c with icache := mapDel (core r.2 c).icache (icKey p.ctx a) } else r.2)
  if r.1 && p.injig then throw (.abort 4)
  icLoad c p [] a

/-- What fetching the instructions of a bundle met: nothing, or the first that fails. -/
inductive Fetched where
  | ok (s : State)
  | bad (i : Nat) (e : Stop) (s : State)
  deriving DecidableEq, Repr

def fetchAll (c : Nat) (p : Prog) (ca : Nat) : Nat → Nat → State → Fetched
  | 0, _, s => .ok s
  | n + 1, i, s =>
    match (fetchOne c p (ca + 8 * i)).run s with
    | .ok _ s' => fetchAll c p ca n (i + 1) s'
    | .error e s' => .bad i e s'

/-! A bundle. -/

/-- What performing instructions in order met: all performed, or the first that stops, with the state at the stop. -/
inductive Ran where
  | fin (s : State)
  | stop (i : Nat) (e : Stop) (at_ : State)
  deriving DecidableEq, Repr

def runOps (c : Nat) (k0 : Core) (p : Prog) (ca nextPc : Nat) : Nat → List (Hdr × SOp) → State → Ran
  | _, [], s => .fin s
  | i, x :: xs, s =>
    match (perform c k0 p ca nextPc i x).run s with
    | .ok _ s' => runOps c k0 p ca nextPc (i + 1) xs s'
    | .error e s' => .stop i e s'

/-- The bundle has issued. -/
def bundleDone (s : State) (c : Nat) : State :=
  updProg (setCore s c { core s c with bundle := [], parkedSeq := false, accepted := [] }) c fun p => { p with blocked := false, granted := false, reply := none }

/-- Ring events of a bundle that begins to wait (R449). -/
def blockEvent (s : State) (c : Nat) (p : Prog) (o : SOp) : State :=
  let ctx := p.ctx.toNat
  match o with
  | .cwait f => coreRing s c 0x04 ctx (place 35 32 f.cq.toNat ||| place 31 0 f.n.toNat)
  | .ewait f => coreRing s c 0x06 ctx (place 5 0 f.rd.toNat)
  | .issue f =>
    let cold := !(core s c).engOn.getLsbD f.eng.toNat
    if cold || decide (queueDepth f.eng.toNat ≤ queued p f.eng.toNat) then
      coreRing s c 0x07 ctx (place 2 0 f.eng.toNat ||| place 8 8 (boolNat cold))
    else s
  | .strike f => coreRing s c 0x0D ctx (place 3 0 (f.rd.toNat / 4) ||| place 31 16 (sreg p f.ra).toNat)
  | _ => s

/-- The sequencer waits with a complete bundle, at its instruction `o` or for its fetch; its next attempt repeats the bundle. -/
def blockAt (s : State) (c : Nat) (o : Option SOp) (park : Bool) : State :=
  match prog? s c with
  | none => s
  | some p =>
    let s := match o with
      | some o => if p.blocked then s else blockEvent s c p o
      | none => s
    let s := setCore s c { core s c with parkedSeq := park }
    updProg s c fun q => { q with blocked := q.blocked || o.isSome }

def isPark : Stop → Bool
  | .park => true
  | _ => false

/-- The sequencer no longer waits for a translation. -/
def dropSeqWaits (s : State) (c : Nat) : State :=
  let cl := cluster s (clusterOf c)
  let ts := cl.trk.map fun t => { t with waiters := t.waiters.filter fun w => !(decide (w.core = c) && decide (w.agent = 0) && decide (w.task = taskAt s c)) }
  setCluster s (clusterOf c) { cl with trk := ts.filter fun t => !isFailed t.stage || !t.waiters.isEmpty }

/-- A cluster-cache line that a check has found in error is poisoned (R253). -/
def keepLine (s1 s : State) (k cl : Nat) : State :=
  match findLine (cluster s cl).ccache false k, findLine (cluster s1 cl).ccache false k with
  | some (i, l), some (_, x) => setCcache s cl (mapPut (cluster s cl).ccache i { l with poison := l.poison || x.poison })
  | _, _ => s

/-- An injected error that the bundle's accesses have met has happened, also where the bundle has no effect (R425): its event, its
ARMED bit and what it has marked. -/
def keepCheck (s1 s : State) (r : Raised) : State :=
  let s := setRf { s with raised := s.raised ++ [r] } r.block 0x70 62 62 (rf s1 r.block 0x70 62 62)
  match r.addr with
  | some a =>
    let s := if chunkPoison s1 (a / 64) then setChunkPoison s (a / 64) true else s
    (s.clusters.map Prod.fst).foldl (fun s cl => keepLine s1 s (a / 64) cl) s
  | none => s

def keepChecks (s0 s1 : State) : State :=
  ((s1.raised.drop s0.raised.length).filter Raised.tested).foldl (keepCheck s1) { s0 with inject := s1.inject }

/-- A synchronous stop of the bundle at CA `ca`: nothing of it has effect (R167, R199), except what FTLD and CBLD have
loaded (R182), the power that an ISSUE has asked for (R184) and injected errors that were met (R425). `s0` is the state before the bundle, `s1` at the stop. -/
def bundleFault (s0 s1 : State) (c : Nat) (ca nextPc i : Nat) (e : Stop) : State :=
  let s0 := keepChecks s0 s1
  let s := setCore s0 c { core s0 c with bundle := [], ncLine := none, parkedSeq := false, accepted := [] }
  match e with
  | .abort code => abortRegion (if code = 6 then requestEngines s c (core s1 c).engReq else s) c code 0 0 0
  | .exc code sub ea detail =>
    let s := if code = 7 then match prog? s1 c with
        | some q => updProg s c fun p => { p with fmt := q.fmt, cb := q.cb }
        | none => s
      else s
    let s := updProg (dropSeqWaits s c) c fun p => { p with blocked := false, granted := false, reply := none }
    syncException s c code sub i detail ea (BitVec.ofNat 52 (if code = 0x0A then nextPc else ca))
  | _ => s

/-- A bundle that must wait at instruction `i`: nothing of it has effect but what that instruction has asked for (R167). -/
def bundleWait (s0 : State) (c : Nat) (k0 : Core) (p : Prog) (ca nextPc i : Nat) (x : Hdr × SOp) (e : Stop) : State :=
  match (perform c k0 p ca nextPc i x).run s0 with
  | .error (.abort code) s1 => bundleFault s0 s1 c ca nextPc i (.abort code)
  | .error (.exc code sub ea d) s1 => bundleFault s0 s1 c ca nextPc i (.exc code sub ea d)
  | .error _ s1 =>
    let s1 := if classOf x.2 = .memory then s1 else setCore s1 c { core s1 c with ncLine := none }
    blockAt s1 c (some x.2) (isPark e)
  | .ok _ _ => blockAt s0 c (some x.2) (isPark e)

/-- The end of an attempt to perform the instructions `ops` of a bundle; `fin` is what follows where all are performed. -/
def ranEnd (s0 : State) (c : Nat) (k0 : Core) (p : Prog) (ops : List (Hdr × SOp)) (ca nextPc : Nat) (fin : State → State) :
    Ran → State
  | .fin s1 => fin s1
  | .stop i e at_ =>
    match e with
    | .wait | .park =>
      match ops[i]? with
      | some x => bundleWait s0 c k0 p ca nextPc i x e
      | none => s0
    | _ => bundleFault s0 at_ c ca nextPc i e

/-- The region cycle in which a participant issues its next bundle: the present one, and a later one than that of its bundle before
(R164, R202; log entry 220). -/
def bundleCycle (j : Jig) : Nat :=
  match j.last with
  | none => j.cycle
  | some m => max j.cycle (m + 1)

/-- A bundle of a region issues (R202, R225). -/
def regionBundle (q : Prog) : Option Jig :=
  if q.injig then q.jig.map fun j => { j with last := some (bundleCycle j), cycle := bundleCycle j } else q.jig

/-- Perform the fetched instructions `ops` of a bundle (R166, R167). -/
def performAll (s0 : State) (c : Nat) (p : Prog) (ops : List (Hdr × SOp)) (ca nextPc : Nat) (fin : State → State) : State :=
  let k0 := core s0 c
  ranEnd s0 c k0 p ops ca nextPc fin
    (runOps c k0 p ca nextPc 0 ops (updProg s0 c fun q => { q with pc := BitVec.ofNat 52 nextPc, jig := regionBundle q }))

/-- Row `x` is the one that the word at CA `a` comes as, where the instruction cache holds it (R164, R170, R171). -/
def rowSpelled (k : Core) (p : Prog) (a : Nat) (x : Instr) : Bool :=
  match icWord k p.ctx a, view x with
  | some w, some (h, _) => decide (x = rowOfWord h.core w)
  | _, _ => true

/-- The fetched words of the bundle at CA `ca` spell its rows. A bundle that waits has been fetched already. -/
def bundleSpelled (k : Core) (p : Prog) : Nat → List Instr → Bool
  | _, [] => true
  | a, x :: xs => (p.blocked || rowSpelled k p a x) && bundleSpelled k p (a + 8) xs

/-- The collected rows are not the words that the core fetches: the core executes none of them (log entry 134). -/
def bundleStrange (s : State) (c : Nat) : State := setCore s c { core s c with bundle := [], parkedSeq := false, accepted := [] }

/-- Run the complete bundle `l` of a core whose program state is `p`. BUNDLE comes before every other exception (R167). -/
def runBundle (s : State) (c : Nat) (p : Prog) (l : List Instr) : State :=
  let ops := l.filterMap view
  let ca := p.pc.toNat
  let nextPc := ca + 8 * ops.length
  match fetchAll c p ca ops.length 0 (setCore s c { core s c with bundle := l }) with
  | .ok s0 =>
    if !bundleSpelled (core s0 c) p ca l then bundleStrange s0 c else
    match bundleError ca [] ops with
    | some j => bundleFault s0 s0 c ca nextPc j (.exc 2 0 0 0)
    | none => performAll s0 c p ops ca nextPc fun s1 => bundleDone s1 c
  | .bad b e s0 =>
    match e with
    | .wait => blockAt s0 c none false
    | .park => blockAt s0 c none true
    | .abort code => bundleFault s0 s0 c ca nextPc 0 (.abort code)
    | .exc .. =>
      if !bundleSpelled (core s0 c) p ca (l.take b) then bundleStrange s0 c else
      match bundleError ca [] (ops.take b) with
      | some j => bundleFault s0 s0 c ca nextPc j (.exc 2 0 0 0)
      | none => performAll s0 c p (ops.take b) ca nextPc fun _ => bundleFault s0 s0 c ca nextPc b e

/-! An instruction arrives. -/

/-- The instructions make a complete bundle: STOP, four of them, or the end of the 64-byte line (R164). -/
def bundleFull (ca : Nat) (l : List Instr) : Bool :=
  match l.getLast?.bind view with
  | some (h, _) => h.stop || decide (4 ≤ l.length) || decide ((ca + 8 * (l.length - 1)) % 64 = 56)
  | none => false

/-- The core's sequencer can issue: clocks running, C0, a task that is neither armed nor switched out nor leaving, no slip,
past the end of a WAIT, and with no engine of the task parked (R313). -/
def seqReady (s : State) (c : Nat) (p : Prog) : Bool :=
  running s && (core s c).power = .c0 && !coreStale s c && !slipping s c && !clockPaused s c && !p.armed && !p.yielding && p.leaving.isNone
    && !(enginesParked s c p.task)
    && (match p.waitTo with
      | some t => decide (t.toNat ≤ (cycOf s c).toNat)
      | none => true)

/-- The next instruction of a core's program. A waiting bundle is tried again by its last instruction; a new bundle
begins only when no engine fault is to be taken (R186). -/
def seqRun (i : Instr) (s : State) : Out :=
  match view i with
  | none => idle s
  | some (h, _) =>
    let c := h.core.val
    match prog? s c with
    | none => idle s
    | some p =>
      let l := (core s c).bundle
      if !seqReady s c p then idle s
      else if bundleFull p.pc.toNat l then
        (if l.getLast? = some i then done (runBundle s c p l) else idle s)
      else if l.isEmpty && !p.pend.isEmpty && !p.inexc then idle s
      else if bundleFull p.pc.toNat (l ++ [i]) then
        done (runBundle (updProg s c fun q => { q with waitTo := none }) c { p with waitTo := none } (l ++ [i]))
      else done (setCore s c { core s c with bundle := l ++ [i] })

/-! The instructions. -/

/-- NOP (R171). -/
def execNop (h : Hdr) (f : FmtR) (s : State) : Out := seqRun (.nop h f) s

/-- ADD (R172). -/
def execAdd (h : Hdr) (f : FmtR) (s : State) : Out := seqRun (.add h f) s

/-- SUB (R172). -/
def execSub (h : Hdr) (f : FmtR) (s : State) : Out := seqRun (.sub h f) s

/-- AND (R172). -/
def execAndR (h : Hdr) (f : FmtR) (s : State) : Out := seqRun (.andR h f) s

/-- OR (R172). -/
def execOrR (h : Hdr) (f : FmtR) (s : State) : Out := seqRun (.orR h f) s

/-- XOR (R172). -/
def execXorR (h : Hdr) (f : FmtR) (s : State) : Out := seqRun (.xorR h f) s

/-- SHL (R172). -/
def execShl (h : Hdr) (f : FmtR) (s : State) : Out := seqRun (.shl h f) s

/-- SHR (R172). -/
def execShr (h : Hdr) (f : FmtR) (s : State) : Out := seqRun (.shr h f) s

/-- SAR (R172). -/
def execSar (h : Hdr) (f : FmtR) (s : State) : Out := seqRun (.sar h f) s

/-- MUL (R172). -/
def execMul (h : Hdr) (f : FmtR) (s : State) : Out := seqRun (.mul h f) s

/-- MULHU (R172). -/
def execMulhu (h : Hdr) (f : FmtR) (s : State) : Out := seqRun (.mulhu h f) s

/-- MULHS (R172). -/
def execMulhs (h : Hdr) (f : FmtR) (s : State) : Out := seqRun (.mulhs h f) s

/-- DIVU (R172). -/
def execDivu (h : Hdr) (f : FmtR) (s : State) : Out := seqRun (.divu h f) s

/-- DIVS (R172). -/
def execDivs (h : Hdr) (f : FmtR) (s : State) : Out := seqRun (.divs h f) s

/-- REMU (R172). -/
def execRemu (h : Hdr) (f : FmtR) (s : State) : Out := seqRun (.remu h f) s

/-- REMS (R172). -/
def execRems (h : Hdr) (f : FmtR) (s : State) : Out := seqRun (.rems h f) s

/-- MIN (R172). -/
def execMinS (h : Hdr) (f : FmtR) (s : State) : Out := seqRun (.minS h f) s

/-- MAX (R172). -/
def execMaxS (h : Hdr) (f : FmtR) (s : State) : Out := seqRun (.maxS h f) s

/-- MINU (R172). -/
def execMinU (h : Hdr) (f : FmtR) (s : State) : Out := seqRun (.minU h f) s

/-- MAXU (R172). -/
def execMaxU (h : Hdr) (f : FmtR) (s : State) : Out := seqRun (.maxU h f) s

/-- PSEL (R171). -/
def execPsel (h : Hdr) (f : FmtR) (s : State) : Out := seqRun (.psel h f) s

/-- CLZ (R171). -/
def execClz (h : Hdr) (f : FmtR) (s : State) : Out := seqRun (.clz h f) s

/-- POPC (R171). -/
def execPopc (h : Hdr) (f : FmtR) (s : State) : Out := seqRun (.popc h f) s

/-- BFX (R172). -/
def execBfx (h : Hdr) (f : FmtR) (s : State) : Out := seqRun (.bfx h f) s

/-- BFI (R172). -/
def execBfi (h : Hdr) (f : FmtR) (s : State) : Out := seqRun (.bfi h f) s

/-- ADDI (R171). -/
def execAddi (h : Hdr) (f : FmtI) (s : State) : Out := seqRun (.addi h f) s

/-- SUBI (R171). -/
def execSubi (h : Hdr) (f : FmtI) (s : State) : Out := seqRun (.subi h f) s

/-- ANDI (R171). -/
def execAndi (h : Hdr) (f : FmtI) (s : State) : Out := seqRun (.andi h f) s

/-- ORI (R171). -/
def execOri (h : Hdr) (f : FmtI) (s : State) : Out := seqRun (.ori h f) s

/-- XORI (R171). -/
def execXori (h : Hdr) (f : FmtI) (s : State) : Out := seqRun (.xori h f) s

/-- SHLI (R171). -/
def execShli (h : Hdr) (f : FmtI) (s : State) : Out := seqRun (.shli h f) s

/-- SHRI (R171). -/
def execShri (h : Hdr) (f : FmtI) (s : State) : Out := seqRun (.shri h f) s

/-- SARI (R171). -/
def execSari (h : Hdr) (f : FmtI) (s : State) : Out := seqRun (.sari h f) s

/-- MULI (R171). -/
def execMuli (h : Hdr) (f : FmtI) (s : State) : Out := seqRun (.muli h f) s

/-- MULHUI (R171). -/
def execMulhui (h : Hdr) (f : FmtI) (s : State) : Out := seqRun (.mulhui h f) s

/-- MULHSI (R171). -/
def execMulhsi (h : Hdr) (f : FmtI) (s : State) : Out := seqRun (.mulhsi h f) s

/-- DIVUI (R171). -/
def execDivui (h : Hdr) (f : FmtI) (s : State) : Out := seqRun (.divui h f) s

/-- DIVSI (R171). -/
def execDivsi (h : Hdr) (f : FmtI) (s : State) : Out := seqRun (.divsi h f) s

/-- REMUI (R171). -/
def execRemui (h : Hdr) (f : FmtI) (s : State) : Out := seqRun (.remui h f) s

/-- REMSI (R171). -/
def execRemsi (h : Hdr) (f : FmtI) (s : State) : Out := seqRun (.remsi h f) s

/-- MINI (R171). -/
def execMini (h : Hdr) (f : FmtI) (s : State) : Out := seqRun (.mini h f) s

/-- MAXI (R171). -/
def execMaxi (h : Hdr) (f : FmtI) (s : State) : Out := seqRun (.maxi h f) s

/-- MINUI (R171). -/
def execMinui (h : Hdr) (f : FmtI) (s : State) : Out := seqRun (.minui h f) s

/-- MAXUI (R171). -/
def execMaxui (h : Hdr) (f : FmtI) (s : State) : Out := seqRun (.maxui h f) s

/-- MOVI (R171). -/
def execMovi (h : Hdr) (f : FmtL) (s : State) : Out := seqRun (.movi h f) s

/-- MOVK (R171). -/
def execMovk (h : Hdr) (f : FmtL) (s : State) : Out := seqRun (.movk h f) s

/-- CMP (R173). -/
def execCmp (h : Hdr) (f : FmtP) (s : State) : Out := seqRun (.cmp h f) s

/-- CMPI (R173). -/
def execCmpi (h : Hdr) (f : FmtP) (s : State) : Out := seqRun (.cmpi h f) s

/-- PLOG (R173). -/
def execPlog (h : Hdr) (f : FmtPlog) (s : State) : Out := seqRun (.plog h f) s

/-- BR (R174). -/
def execBr (h : Hdr) (f : FmtB) (s : State) : Out := seqRun (.br h f) s

/-- BRI (R174). -/
def execBri (h : Hdr) (f : FmtB) (s : State) : Out := seqRun (.bri h f) s

/-- CALL (R174). -/
def execCall (h : Hdr) (f : FmtB) (s : State) : Out := seqRun (.call h f) s

/-- ERET (R199). -/
def execEret (h : Hdr) (f : FmtB) (s : State) : Out := seqRun (.eret h f) s

/-- LD (R175). -/
def execLd (h : Hdr) (f : FmtM) (s : State) : Out := seqRun (.ld h f) s

/-- ST (R175). -/
def execSt (h : Hdr) (f : FmtM) (s : State) : Out := seqRun (.st h f) s

/-- AMO (R178). -/
def execAmo (h : Hdr) (f : FmtA) (s : State) : Out := seqRun (.amo h f) s

/-- PF (R249). -/
def execPf (h : Hdr) (f : FmtM) (s : State) : Out := seqRun (.pf h f) s

/-- CACHE_ZL (R251). -/
def execCacheZl (h : Hdr) (f : FmtM) (s : State) : Out := seqRun (.cacheZl h f) s

/-- CACHE_WB (R181). -/
def execCacheWb (h : Hdr) (f : FmtM) (s : State) : Out := seqRun (.cacheWb h f) s

/-- CACHE_WBINV (R181). -/
def execCacheWbinv (h : Hdr) (f : FmtM) (s : State) : Out := seqRun (.cacheWbinv h f) s

/-- CACHE_INV (R181). -/
def execCacheInv (h : Hdr) (f : FmtM) (s : State) : Out := seqRun (.cacheInv h f) s

/-- CACHE_IINV (R181). -/
def execCacheIinv (h : Hdr) (f : FmtM) (s : State) : Out := seqRun (.cacheIinv h f) s

/-- DLOCK (R250). -/
def execDlock (h : Hdr) (f : FmtL) (s : State) : Out := seqRun (.dlock h f) s

/-- FENCE (R180). -/
def execFence (h : Hdr) (f : FmtM) (s : State) : Out := seqRun (.fence h f) s

/-- PLD (R179). -/
def execPld (h : Hdr) (f : FmtM) (s : State) : Out := seqRun (.pld h f) s

/-- PST (R179). -/
def execPst (h : Hdr) (f : FmtM) (s : State) : Out := seqRun (.pst h f) s

/-- FTLD (R182). -/
def execFtld (h : Hdr) (f : FmtM) (s : State) : Out := seqRun (.ftld h f) s

/-- CBLD (R182). -/
def execCbld (h : Hdr) (f : FmtM) (s : State) : Out := seqRun (.cbld h f) s

/-- ISSUE (R183). -/
def execIssue (h : Hdr) (f : FmtE) (s : State) : Out := seqRun (.issue h f) s

/-- EWAIT (R185). -/
def execEwait (h : Hdr) (f : FmtS) (s : State) : Out := seqRun (.ewait h f) s

/-- CWAIT (R190). -/
def execCwait (h : Hdr) (f : FmtC) (s : State) : Out := seqRun (.cwait h f) s

/-- CSIG (R191). -/
def execCsig (h : Hdr) (f : FmtC) (s : State) : Out := seqRun (.csig h f) s

/-- CTEST (R190). -/
def execCtest (h : Hdr) (f : FmtC) (s : State) : Out := seqRun (.ctest h f) s

/-- CRD (R190). -/
def execCrd (h : Hdr) (f : FmtC) (s : State) : Out := seqRun (.crd h f) s

/-- CSET (R190). -/
def execCset (h : Hdr) (f : FmtC) (s : State) : Out := seqRun (.cset h f) s

/-- MFS (R163). -/
def execMfs (h : Hdr) (f : FmtS) (s : State) : Out := seqRun (.mfs h f) s

/-- MTS (R163). -/
def execMts (h : Hdr) (f : FmtS) (s : State) : Out := seqRun (.mts h f) s

/-- PREHEAT (R192). -/
def execPreheat (h : Hdr) (f : FmtS) (s : State) : Out := seqRun (.preheat h f) s

/-- STRIKE (R194). -/
def execStrike (h : Hdr) (f : FmtS) (s : State) : Out := seqRun (.strike h f) s

/-- JIG_OPEN (R193). -/
def execJigOpen (h : Hdr) (f : FmtL) (s : State) : Out := seqRun (.jigOpen h f) s

/-- JIG_SEAL (R195). -/
def execJigSeal (h : Hdr) (f : FmtL) (s : State) : Out := seqRun (.jigSeal h f) s

/-- MARK (R197). -/
def execMark (h : Hdr) (f : FmtL) (s : State) : Out := seqRun (.mark h f) s

/-- YIELD (R198). -/
def execYieldI (h : Hdr) (f : FmtL) (s : State) : Out := seqRun (.yieldI h f) s

/-- END (R198). -/
def execEndTask (h : Hdr) (f : FmtL) (s : State) : Out := seqRun (.endTask h f) s

/-- WAIT (R197). -/
def execWaitI (h : Hdr) (f : FmtL) (s : State) : Out := seqRun (.waitI h f) s

/-- BRK (R197). -/
def execBrk (h : Hdr) (f : FmtL) (s : State) : Out := seqRun (.brk h f) s

end Sys2Proof.Machine
end

