-- ==== Sys2Proof/Machine/Jig.lean ====
section
/-! DEFINITION. What happens to a sequencer beside its instructions: strikes (R194, R216), the end of a slip
(R221, R222), and engine faults taken as asynchronous exceptions (R186, R199). -/

namespace Sys2Proof.Machine

/-- The armed cores of a line with one JID. -/
def armedWith (s : State) (l : List Nat) (jid : BitVec 16) : List Nat := l.filter fun k => match prog? s k with
  | some q => q.armed && q.jid = jid
  | none => false

/-- Every armed core starts its region; the cores with one JID form one region, led by the lowest (R202, R221). -/
def strikeStart (s : State) (armed : List Nat) : State :=
  armed.foldl (fun s' k => match prog? s k with
    | some q =>
      let group := armedWith s armed q.jid
      if q.armed then startRegion s' k (group.foldl min k) group else s'
    | none => s') s

/-- STRIKE_SENT (R216): the first waiting STRIKE of the line whose count is met is sent. -/
def execStrikeSent (line : Fin 16) (s : State) : Out :=
  let x := strikeLine s line.val
  match x.strikers.find? fun k => decide (k.2 ≤ x.armed.length) with
  | none => idle s
  | some (c, _) =>
    if !running s then idle s
    else
      let s := (fireInjection s .gfe 4 none none).2
      let s := setStrikeLine s line.val { x with armed := [], strikers := x.strikers.filter fun k => k.1 ≠ c }
      let s := updProg s c fun q => { q with granted := true }
      done (strikeStart s x.armed)

/-- SLIP_END: the causes that accesses of any engine, of a sequencer or from outside have met join the slip or make it (R220), and
the slip ends where every cause in it has ended (R222). -/
def execSlipEnd (slip : SlipMet) (s : State) : Out :=
  if !running s then idle s
  else
    let t := applySlips s slip.core.val slip.met
    if slipOver t slip.core.val false then done ((regionCores t slip.core.val).foldl slipEnd t)
    else if (slipOf t slip.core.val).isSome then done t
    else idle s

/-- The core's sequencer waits with a bundle that ends in END. -/
def endWaits (k : Core) (p : Prog) : Bool :=
  p.blocked && match k.bundle.getLast?.bind view with
    | some (_, .endTask _) => true
    | _ => false

/-- The fault of an operation that a region's abort has met behind its JIG.SEAL has no EINFO of an engine (R200, R201). -/
def asyncInfo (f : EngFault) : Word := if f.ecode = 9 then 0 else einfoAsync f

/-- ASYNC_ENGINE_FAULT (R186): the oldest held fault is taken at the next bundle boundary; instructions of a bundle that
has not issued are not part of it, but a STRIKE that has been sent is. While the handler runs the fault is held, until its END (R198),
and so it is while the core is armed; inside a region the region aborts (R201). -/
def execAsyncEngineFault (core : CoreIx) (s : State) : Out :=
  let c := core.val
  match prog? s c with
  | none => idle s
  | some p => match p.pend with
    | [] => idle s
    | f :: rest =>
      if (p.inexc && p.leaving.isNone && !endWaits (Machine.core s c) p) || p.armed || p.granted || p.leaving.any (· ≠ 0) || !running s || (Machine.core s c).power ≠ .c0 then idle s
      else
        let s := setProg (dropSeqWaits s c) c { p with pend := rest, leaving := none }
        let s := setCore s c { Machine.core s c with ncLine := none }
        if p.injig then done (abortRegion s c 0x08 f.ecode (asyncInfo f) f.eaddr)
        else done (takeException s c f.ecode (asyncInfo f) (newEaddr p f.ecode f.eaddr) p.pc)

end Sys2Proof.Machine
end

