-- ==== Sys2Proof/Machine/Jtag.lean ====
section
/-! DEFINITION. The JTAG port (R456). -/

namespace Sys2Proof.Machine

def sendJtag (s : State) (v : BitVec 512) : State := send s (.jtag v)

/-- One Shift-DR of the one-bit bypass register: the bit held goes out, TDI comes in. -/
def execJtagBypass (tdi : Bool) (s : State) : Out :=
  done { sendJtag s (BitVec.ofNat 512 (boolNat s.jtagBypass)) with jtagBypass := tdi }

def execJtagDbgaddr (val : Word) (s : State) : Out := done { s with jtagAddr := val }

/-- `n` registers of BAR0 from a byte offset. -/
def bar0Words (off : Nat) : Nat → State → List Word × State
  | 0, s => ([], s)
  | n + 1, s =>
    let r := readReg s off
    let t := bar0Words (off + 8) n r.2
    (r.1 :: t.1, t.2)

/-- A read of the register at `off` waits behind a held enable of its block (R42). -/
def portHeld (s : State) (off : Nat) : Bool :=
  match locate (off / 8 * 8) with
  | some (b, _) => !(heldAccs s b).isEmpty
  | none => false

/-- A DBGDATA capture: BAR0 with STRUCT 0xFF, else the frozen state (R455); OFFSET then advances. -/
def execJtagDbgdata (s : State) : Out :=
  let a := s.jtagAddr
  let o := fld a 35 0
  if fld a 63 56 = 0xFF && (List.range 8).any fun i => portHeld s (o * 64 + 8 * i) then idle s
  else
  let r : List Byte × State :=
    if fld a 63 56 = 0xFF then
      let w := bar0Words (o * 64) 8 s
      (bytesOfWords w.1, w.2)
    else frozenBytes s (fld a 63 56) (fld a 55 44) (o * 64) 64
  done { sendJtag r.2 (BitVec.ofNat 512 (ofBytes r.1)) with jtagAddr := setFld a 35 0 (o + 1) }

def dbgOff (v : BitVec 128) : Nat := (v.toNat) % 2 ^ 26

/-- Capture-DR of DBGREG: DATA takes the register at the offset last shifted in; it waits behind a held enable (R42). -/
def execJtagDbgregCapture (s : State) : Out :=
  let o := dbgOff s.jtagReg
  if portHeld s o then idle s
  else
    let r := readReg s o
    let v : BitVec 128 := BitVec.ofNat 128 (r.1.toNat * 2 ^ 64 + s.jtagReg.toNat % 2 ^ 64)
    done { sendJtag r.2 (v.setWidth 512) with jtagReg := v }

/-- Update-DR of DBGREG: with WRITE, DATA is written as a JTAG requester. -/
def execJtagDbgregUpdate (val : BitVec 128) (s : State) : Out :=
  let s := { s with jtagReg := val }
  if val.getLsbD 63 then
    done (performWrite s { rq := .jtag, key := dbgOff val, size := 8, val := BitVec.ofNat 64 (val.toNat / 2 ^ 64) })
  else done s

end Sys2Proof.Machine
end

