-- ==== Sys2Proof/Machine/MemEvents.lean ====
section
/-! DEFINITION. Events of the memories: scrub and refresh (R209, R245, R255, R256), and host accesses through the
BAR4 aperture (R242-R244). -/

namespace Sys2Proof.Machine

/-- SPAD_PATROL_SCRUB (R245): word `word` of a scratchpad whose domain is on. -/
def execSpadPatrolScrub (core : CoreIx) (word : Nat) (found : EccFound) (s : State) : Out :=
  let c := core.val
  let ca := spadBase c + 8 * word
  if running s && coreEnabled s c && decide ((Machine.core s c).power ≠ .c3) && decide (word < spadSize / 8) then
    done (eccEvent (chunkCheck s whoNone (ca / 64)).2 (.core core) c ca found)
  else idle s

def execDrawerRefresh (core : CoreIx) (bank : Fin 16) (found : EccFound) (word : Nat) (s : State) : Out :=
  if running s && coreEnabled s core.val then done (refreshRow s core bank.val found word) else idle s

/-- DRAWER_SELF_REFRESH (R255): while DCLK is stopped. -/
def execDrawerSelfRefresh (core : CoreIx) (bank : Fin 16) (found : EccFound) (word : Nat) (s : State) : Out :=
  if !running s && coreEnabled s core.val then done (refreshRow s core bank.val found word) else idle s

/-- STACK_REFRESH (R256): the rate follows the stack's temperature; no data changes. -/
def execStackRefresh (stack : Fin 12) (tempC : Nat) (s : State) : Out :=
  done { s with power := { s.power with stackTemp := mapSet (fun _ => 0) s.power.stackTemp stack.val tempC } }

/-- REFRESH_MANAGEMENT_REQUEST (R256): honoured; no data changes. -/
def execRefreshManagementRequest (_ : Fin 12) (s : State) : Out := done s

/-! The aperture. -/

/-- A CA that the aperture reaches (R243). -/
def apReach (s : State) (a : Nat) : Bool :=
  match caKind (canon a) with
  | .stack _ _ | .drawer _ _ | .spad _ _ => !isHole s (canon a)
  | _ => false

/-- The selector of a BAR4 range and the CA its first byte maps to; none where R243 refuses it. -/
def apMap (s : State) (off len : Nat) : Option (Nat × Word) :=
  let n := off / 2 ^ 32
  let x := off % 2 ^ 32
  let b := reg s .ep (0x1000 + 16 * n)
  let w := reg s .ep (0x1008 + 16 * n)
  let a := fld b 51 16 * 65536 + x
  if decide (n < 16) && flag b 63 && decide (x + len ≤ fld w 32 16 * 65536) && decide (0 < len)
      && (!flag w 53 || (keyAt s (fld w 63 54)).isSome)
      && (List.range (len / 64 + 2)).all (fun i => let o := min (64 * i) (len - 1); apReach s (a + o)) then
    some (a, w)
  else none

def apKey (w : Word) (a : Nat) : Option Nat := if flag w 53 && encApplies (canon a) then some (fld w 63 54) else none

/-- Read or write each part of a range at its location, with no snoop (R244). -/
def apRead (w : Word) : List (Nat × Nat × Nat) → State → (List Byte × Bool) × State
  | [], s => (([], false), s)
  | (k, o, l) :: t, s =>
    let a := canon (k * 64)
    let r := chunkRead s whoNone (a / 64) o l (apKey w a)
    let q := apRead w t r.2
    ((r.1.1 ++ q.1.1, r.1.2 || q.1.2), q.2)

def apWrite (w : Word) (p : Bool) : List (Nat × Nat × Nat) → List Byte → State → State
  | [], _, s => s
  | (k, o, l) :: t, d, s =>
    let a := canon (k * 64)
    apWrite w p t (d.drop l) (chunkWrite s whoNone (a / 64) o (d.take l) p (apKey w a))

/-- The complex serves BAR4 now (R354, R376, R423, R452). -/
def apServes (s : State) : Bool := claims s && running s

def execBar4Read (off len : Nat) (s : State) : Out :=
  if stopped s then idle s
  else if !apServes s then done (refuseRead s)
  else match apMap s off len with
    | some (a, w) =>
      let r := apRead w (parts a len) (globalCtr s 73 len)
      done (send r.2 (.cpl r.1.1 r.1.2))
    | none => done (refuseRead s)

/-- A poisoned payload is logged where the write is not refused (R367). -/
def execBar4Write (off : Nat) (data : List Byte) (poisoned : Bool) (s : State) : Out :=
  if stopped s then idle s
  else if !apServes s then done (logUnsupported s true)
  else match apMap s off data.length with
    | some (a, w) =>
      let s := if poisoned then poisonedTlp s else s
      if flag w 52 then done s else done (apWrite w poisoned (parts a data.length) data (globalCtr s 72 data.length))
    | none => done (logUnsupported s true)

end Sys2Proof.Machine
end

