-- ==== Sys2Proof/Machine/Switch.lean ====
section
/-! DEFINITION. Task switching (R198, R312-R314): a parked or yielding task is saved to a save slot of its context, and
restored to its core. -/

namespace Sys2Proof.Machine

/-- No started operation is between its start and its end or its park (R313). -/
def enginesQuiet (s : State) (c : Nat) (p : Prog) : Bool :=
  (List.range 6).all fun e => (queue p e).all fun o =>
    !opStarted o || (!o.ran && o.tags.isEmpty && (match engAgent e with
      | some ag => agentParked s c p.task ag
      | none => false))

/-- Write `n` chunks of a slot image from offset `o`; bytes that the manual leaves open come from a free value. -/
def saveChunks (p : Prog) (base o f : Nat) : Nat → State → State
  | 0, s => s
  | n + 1, s =>
    let k := (base + o) / 64
    saveChunks p base (o + 64) f n (chunkWrite (recallLine s false k) whoNone k 0 (saveBytes p o 64 f) false none)

def slotBase (s : State) (ctx : BitVec 12) (slot : Nat) : Nat := canon (wkf s (.ctx ctx) 0x8110 51 20 * 0x100000 + slot * 0x100000)

/-- The parts of the slot a task needs: offset and chunks. The fixed part, open streams, live banks (R314). -/
def saveParts (p : Prog) : List (Nat × Nat) :=
  (0, 0x5900 / 64)
    :: ((p.streams.filter fun e => e.2.isOpen).map fun e => (0x8000 + e.1 * 0x4000, ceilDiv (16 * e.2.entries.length) 64))
    ++ ((p.banks.filter fun e => e.2.live).map fun e => (0x48000 + e.1 * 0x40000, if e.2.mode = .ordered then 0x200 else 0x1000))

def saveSlot (s : State) (p : Prog) (slot : Nat) : State :=
  let f := freeNat s
  (saveParts p).foldl (fun s x => saveChunks p (slotBase s p.ctx slot) x.1 f.1 x.2 s) f.2

/-- The CAs of the lines of a task's saved parts (R314). -/
def slotLines (s : State) (p : Prog) (slot : Nat) : List Nat :=
  (saveParts p).flatMap fun x => (List.range x.2).map fun i => slotBase s p.ctx slot + x.1 + 64 * i

/-- The task leaves its core for the slot (R313). The instructions of a bundle that has not issued are not part of it. -/
def switchOut (s : State) (c : Nat) (p : Prog) (slot : Nat) : State :=
  let s := saveSlot s p slot
  let q := { p with blocked := false, granted := false, yielding := false, waitTo := none }
  let s := updTask s p.task fun t => { t with saved := mapPut t.saved c (slot, q) }
  let k := core s c
  let s := setCore s c { k with prog := none, bundle := [], parkedSeq := false, idleAt := s.stc, fills := k.fills.filter Fill.prefetch,
                                 ncLine := none }
  clusterRing (clusterCtr s (clusterOf c) 8 1) (clusterOf c) 0x10 p.ctx.toNat (place 2 0 (c % 8) ||| place 63 32 p.taskId.toNat)

/-- TASK_SWITCH_OUT (R313): the CSQ takes the offered task where another is ready and a slot is free. A YIELD whose
other task is ready no more ends. -/
def execTaskSwitchOut (core : CoreIx) (s : State) : Out :=
  let c := core.val
  match prog? s c with
  | none => idle s
  | some p =>
    let offered := p.yielding || (Machine.core s c).parkedSeq || [1, 2, 3].any (agentParked s c p.task)
    if !running s || !offered || p.injig || p.armed || p.leaving.isSome || !enginesQuiet s c p then idle s
    else match otherReady s c p.task, freeSlot s p.ctx with
      | true, some slot =>
        let ls := slotLines s p slot
        done (if ls.all fun a => gfeReady s a 64 then switchOut s c p slot else ls.foldl (fun s a => gfeSnoop s a 64) s)
      | _, _ => done (updProg s c fun q => { q with yielding := false })

/-- Lines of a slot as the CSQ reads them: offset and bytes of each, and whether any is poisoned (R314). -/
def readLines (base : Nat) : List Nat → State → (List (Nat × List Byte) × Bool) × State
  | [], s => (([], false), s)
  | o :: l, s =>
    let r := gfeRead s whoNone (base + o) 64 none
    let q := readLines base l r.2
    (((o, r.1.1) :: q.1.1, r.1.2 || q.1.2), q.2)

/-- The saved parts of a task's slot. -/
def readSlot (s : State) (p : Prog) (slot : Nat) : (List (Nat × List Byte) × Bool) × State :=
  readLines (slotBase s p.ctx slot) ((saveParts p).flatMap fun x => (List.range x.2).map fun i => x.1 + 64 * i) s

/-- The number in the `n` bytes at offset `o` of the slot that was read; they lie in one line. -/
def slotNum (img : List (Nat × List Byte)) (o n : Nat) : Nat :=
  ofBytes (((((img.find? fun x => decide (x.1 = o / 64 * 64)).map Prod.snd).getD []).drop (o % 64)).take n)

/-- An XP32 element as a restore takes it; a free value where the slot holds no XP32 element, which the manual leaves open. -/
def restoredAcc (w f : Nat) : Acc :=
  (accOfBytes (toBytes 32 w)).getD
    { value := BitVec.ofNat 224 f, nan := f.testBit 224, pinf := f.testBit 225, ninf := f.testBit 226, wov := f.testBit 227,
      trunc := f.testBit 228, count := bitsN f 252 229 }

/-- Element `i` of bank `n` from the slot (R86, R314); its POISON bit stays as it was saved. -/
def restoreElem (img : List (Nat × List Byte)) (f n : Nat) (b : Bank) (i : Nat) : Bank :=
  let e := mapGet (fun _ => elemZero) b.elems i
  let e := if b.mode = .ordered then { e with f32 := BitVec.ofNat 32 (slotNum img (0x48000 + n * 0x40000 + 4 * i) 4) }
    else { e with acc := restoredAcc (slotNum img (0x48000 + n * 0x40000 + 32 * i) 32) (f >>> (256 * i)) }
  { b with elems := mapSet (fun _ => elemZero) b.elems i e }

/-- The entries of stream `n` from the slot (R148, R314); their poison stays as it was saved. -/
def restoreStream (img : List (Nat × List Byte)) (n : Nat) (x : Stream) : Stream :=
  { x with entries := x.entries.mapIdx fun i e => candOf (toBytes 16 (slotNum img (0x8000 + n * 0x4000 + 16 * i) 16)) e.poison }

/-- `n` bytes of the slot from `o`, which may cross lines. -/
def slotBytes (img : List (Nat × List Byte)) (o n : Nat) : List Byte := (List.range n).map fun i => BitVec.ofNat 8 (slotNum img (o + i) 1)

/-- The registers of the fixed part from the slot (R314, log entry 219). The credit counters, the flags of CSTAT that the complex
sets, NUMSUM and the counts are those that the task has now, since signals and replies reach a task that is switched out (R191, R395). -/
def restoreRegs (p : Prog) (img : List (Nat × List Byte)) : Prog :=
  let w := fun o => slotNum img o 8
  let j := w 0x2E8
  let p := (List.range 16).foldl (fun p i => setPreg p (BitVec.ofNat 4 i) (decide (slotNum img (0x240 + 4 * i) 4 ≠ 0))) p
  { p with
    taskId := BitVec.ofNat 32 (w 0), pc := BitVec.ofNat 52 (w 8), inexc := flag (BitVec.ofNat 64 (w 0x10)) 7,
    ehnd := BitVec.ofNat 52 (w 0x2C0), epc := BitVec.ofNat 52 (w 0x2C8), ecode := BitVec.ofNat 8 (w 0x2D0), einfo := BitVec.ofNat 64 (w 0x2D8),
    eaddr := BitVec.ofNat 52 (w 0x2E0), jid := BitVec.ofNat 16 (j / 2 ^ 48), jcode := BitVec.ofNat 8 (j / 2 ^ 40),
    jorig := BitVec.ofNat 8 (j / 2 ^ 32), slips := BitVec.ofNat 32 j, mark := BitVec.ofNat 33 (w 0x2F0), lockMask := BitVec.ofNat 4 (w 0x310) }

/-- The valid codebook and curve slots from the slot (R59, R100, R314). -/
def restoreTabs (p : Prog) (img : List (Nat × List Byte)) : Prog :=
  { p with
    cb := p.cb.map fun e => if e.2.valid then
      (e.1, { e.2 with bytes := slotBytes img (0x600 + 32 * e.1) 16, base := decide (slotNum img (0x600 + 32 * e.1 + 16) 1 ≠ 0) }) else e
    curves := p.curves.map fun e => if e.2.valid then (e.1, { e.2 with bytes := slotBytes img (0x800 + 1088 * e.1) 1088 }) else e }

/-- The task as its slot gives it back (R314): what the table lays out within an area comes from the slot, the rest as it was saved. -/
def restoreProg (p : Prog) (img : List (Nat × List Byte)) (f : Nat) : Prog :=
  let p := (List.range 64).foldl (fun p i => setSreg p (BitVec.ofNat 6 i) (BitVec.ofNat 64 (slotNum img (0x40 + 8 * i) 8))) (restoreTabs (restoreRegs p img) img)
  let p := { p with
    fmt := (List.range 16).foldl (fun m i => mapSet (fun _ => 0) m (16 + i) (BitVec.ofNat 64 (slotNum img (0x400 + 8 * i) 8))) p.fmt
    rules := (List.range 16).foldl (fun m i => mapSet (fun _ => 0) m i (BitVec.ofNat 128 (slotNum img (0x480 + 16 * i) 16))) p.rules }
  let p := (p.streams.filter fun e => e.2.isOpen).foldl (fun p e => setStream p e.1 (restoreStream img e.1 e.2)) p
  { p with banks := p.banks.map fun e => if e.2.live then (e.1, (List.range 8192).foldl (restoreElem img f e.1) e.2) else e }

/-- TASK_SWITCH_IN (R313): back on the core it left, as its slot gives it back. A poisoned slot, or a core that has lost its
scratchpad, ends the task there with TRANS (R314, R383). -/
def execTaskSwitchIn (core : CoreIx) (task : Nat) (s : State) : Out :=
  let c := core.val
  match taskOf s task with
  | none => idle s
  | some t =>
    match mapFind? t.saved c with
    | none => idle s
    | some (slot, p) =>
      if !running s || (prog? s c).isSome || !placedAt t c || !canResume s t c then idle s
      else if (Machine.core s c).power ≠ .c0 then done (requestWake s c)
      else if (slotLines s p slot).any fun a => !(gfeLines s a 64).isEmpty then
        done (gfeAsk s ((slotLines s p slot).flatMap fun a => gfeLines s a 64))
      else
        let r := readSlot s p slot
        let lost := coreStale s c || clusterStale s (clusterOf c) || r.1.2
        let f := freeNat (updTask r.2 task fun x => { x with saved := mapDel x.saved c })
        let s := setProg f.2 c (restoreProg p r.1.1 f.1)
        let s := clusterRing s (clusterOf c) 0x11 p.ctx.toNat (place 2 0 (c % 8) ||| place 63 32 p.taskId.toNat)
        if lost then done (leaveNow (noteException s c 8 0 0) c 8) else done s

end Sys2Proof.Machine
end

