-- ==== Sys2Proof/Machine/Dispatch.lean ====
section
/-! DEFINITION. One arm per command of spec/opcode_table.json; each is one call of its meaning. -/

namespace Sys2Proof.Machine

def exec (i : Instr) (s : State) : Host.Outcome State Fault Refusal :=
  match i with
  | .registerWrite rq sp off size val => Sys2Proof.Machine.execRegisterWrite rq sp off size val s
  | .blkEnable rq b val => Sys2Proof.Machine.execBlkEnable rq b val s
  | .blkDisable rq b val => Sys2Proof.Machine.execBlkDisable rq b val s
  | .blkDrainDone b => Sys2Proof.Machine.execBlkDrainDone b s
  | .blkHeldEnable b => Sys2Proof.Machine.execBlkHeldEnable b s
  | .statusClear rq sp off size val => Sys2Proof.Machine.execStatusClear rq sp off size val s
  | .nop h f => Sys2Proof.Machine.execNop h f s
  | .add h f => Sys2Proof.Machine.execAdd h f s
  | .sub h f => Sys2Proof.Machine.execSub h f s
  | .andR h f => Sys2Proof.Machine.execAndR h f s
  | .orR h f => Sys2Proof.Machine.execOrR h f s
  | .xorR h f => Sys2Proof.Machine.execXorR h f s
  | .shl h f => Sys2Proof.Machine.execShl h f s
  | .shr h f => Sys2Proof.Machine.execShr h f s
  | .sar h f => Sys2Proof.Machine.execSar h f s
  | .mul h f => Sys2Proof.Machine.execMul h f s
  | .mulhu h f => Sys2Proof.Machine.execMulhu h f s
  | .mulhs h f => Sys2Proof.Machine.execMulhs h f s
  | .divu h f => Sys2Proof.Machine.execDivu h f s
  | .divs h f => Sys2Proof.Machine.execDivs h f s
  | .remu h f => Sys2Proof.Machine.execRemu h f s
  | .rems h f => Sys2Proof.Machine.execRems h f s
  | .minS h f => Sys2Proof.Machine.execMinS h f s
  | .maxS h f => Sys2Proof.Machine.execMaxS h f s
  | .minU h f => Sys2Proof.Machine.execMinU h f s
  | .maxU h f => Sys2Proof.Machine.execMaxU h f s
  | .psel h f => Sys2Proof.Machine.execPsel h f s
  | .clz h f => Sys2Proof.Machine.execClz h f s
  | .popc h f => Sys2Proof.Machine.execPopc h f s
  | .bfx h f => Sys2Proof.Machine.execBfx h f s
  | .bfi h f => Sys2Proof.Machine.execBfi h f s
  | .addi h f => Sys2Proof.Machine.execAddi h f s
  | .subi h f => Sys2Proof.Machine.execSubi h f s
  | .andi h f => Sys2Proof.Machine.execAndi h f s
  | .ori h f => Sys2Proof.Machine.execOri h f s
  | .xori h f => Sys2Proof.Machine.execXori h f s
  | .shli h f => Sys2Proof.Machine.execShli h f s
  | .shri h f => Sys2Proof.Machine.execShri h f s
  | .sari h f => Sys2Proof.Machine.execSari h f s
  | .muli h f => Sys2Proof.Machine.execMuli h f s
  | .mulhui h f => Sys2Proof.Machine.execMulhui h f s
  | .mulhsi h f => Sys2Proof.Machine.execMulhsi h f s
  | .divui h f => Sys2Proof.Machine.execDivui h f s
  | .divsi h f => Sys2Proof.Machine.execDivsi h f s
  | .remui h f => Sys2Proof.Machine.execRemui h f s
  | .remsi h f => Sys2Proof.Machine.execRemsi h f s
  | .mini h f => Sys2Proof.Machine.execMini h f s
  | .maxi h f => Sys2Proof.Machine.execMaxi h f s
  | .minui h f => Sys2Proof.Machine.execMinui h f s
  | .maxui h f => Sys2Proof.Machine.execMaxui h f s
  | .movi h f => Sys2Proof.Machine.execMovi h f s
  | .movk h f => Sys2Proof.Machine.execMovk h f s
  | .cmp h f => Sys2Proof.Machine.execCmp h f s
  | .cmpi h f => Sys2Proof.Machine.execCmpi h f s
  | .plog h f => Sys2Proof.Machine.execPlog h f s
  | .br h f => Sys2Proof.Machine.execBr h f s
  | .bri h f => Sys2Proof.Machine.execBri h f s
  | .call h f => Sys2Proof.Machine.execCall h f s
  | .eret h f => Sys2Proof.Machine.execEret h f s
  | .ld h f => Sys2Proof.Machine.execLd h f s
  | .st h f => Sys2Proof.Machine.execSt h f s
  | .amo h f => Sys2Proof.Machine.execAmo h f s
  | .pf h f => Sys2Proof.Machine.execPf h f s
  | .cacheZl h f => Sys2Proof.Machine.execCacheZl h f s
  | .cacheWb h f => Sys2Proof.Machine.execCacheWb h f s
  | .cacheWbinv h f => Sys2Proof.Machine.execCacheWbinv h f s
  | .cacheInv h f => Sys2Proof.Machine.execCacheInv h f s
  | .cacheIinv h f => Sys2Proof.Machine.execCacheIinv h f s
  | .dlock h f => Sys2Proof.Machine.execDlock h f s
  | .fence h f => Sys2Proof.Machine.execFence h f s
  | .pld h f => Sys2Proof.Machine.execPld h f s
  | .pst h f => Sys2Proof.Machine.execPst h f s
  | .ftld h f => Sys2Proof.Machine.execFtld h f s
  | .cbld h f => Sys2Proof.Machine.execCbld h f s
  | .issue h f => Sys2Proof.Machine.execIssue h f s
  | .ewait h f => Sys2Proof.Machine.execEwait h f s
  | .cwait h f => Sys2Proof.Machine.execCwait h f s
  | .csig h f => Sys2Proof.Machine.execCsig h f s
  | .ctest h f => Sys2Proof.Machine.execCtest h f s
  | .crd h f => Sys2Proof.Machine.execCrd h f s
  | .cset h f => Sys2Proof.Machine.execCset h f s
  | .mfs h f => Sys2Proof.Machine.execMfs h f s
  | .mts h f => Sys2Proof.Machine.execMts h f s
  | .preheat h f => Sys2Proof.Machine.execPreheat h f s
  | .strike h f => Sys2Proof.Machine.execStrike h f s
  | .jigOpen h f => Sys2Proof.Machine.execJigOpen h f s
  | .jigSeal h f => Sys2Proof.Machine.execJigSeal h f s
  | .mark h f => Sys2Proof.Machine.execMark h f s
  | .yieldI h f => Sys2Proof.Machine.execYieldI h f s
  | .endTask h f => Sys2Proof.Machine.execEndTask h f s
  | .waitI h f => Sys2Proof.Machine.execWaitI h f s
  | .brk h f => Sys2Proof.Machine.execBrk h f s
  | .asyncEngineFault core => Sys2Proof.Machine.execAsyncEngineFault core s
  | .strikeSent line => Sys2Proof.Machine.execStrikeSent line s
  | .slipEnd slip => Sys2Proof.Machine.execSlipEnd slip s
  | .anvMma core slips => Sys2Proof.Machine.execAnvMma core slips s
  | .anvRd core => Sys2Proof.Machine.execAnvRd core s
  | .anvLdacc core => Sys2Proof.Machine.execAnvLdacc core s
  | .anvAddacc core => Sys2Proof.Machine.execAnvAddacc core s
  | .anvClr core => Sys2Proof.Machine.execAnvClr core s
  | .chsAdd core => Sys2Proof.Machine.execChsAdd core s
  | .chsSub core => Sys2Proof.Machine.execChsSub core s
  | .chsMul core => Sys2Proof.Machine.execChsMul core s
  | .chsFma core => Sys2Proof.Machine.execChsFma core s
  | .chsMax core => Sys2Proof.Machine.execChsMax core s
  | .chsMin core => Sys2Proof.Machine.execChsMin core s
  | .chsAbs core => Sys2Proof.Machine.execChsAbs core s
  | .chsSel core => Sys2Proof.Machine.execChsSel core s
  | .chsDiv core => Sys2Proof.Machine.execChsDiv core s
  | .chsRsqrt core => Sys2Proof.Machine.execChsRsqrt core s
  | .chsCvt core => Sys2Proof.Machine.execChsCvt core s
  | .chsQnt core => Sys2Proof.Machine.execChsQnt core s
  | .chsCurve core => Sys2Proof.Machine.execChsCurve core s
  | .chsRsum core => Sys2Proof.Machine.execChsRsum core s
  | .chsRssq core => Sys2Proof.Machine.execChsRssq core s
  | .chsRmax core => Sys2Proof.Machine.execChsRmax core s
  | .chsRmin core => Sys2Proof.Machine.execChsRmin core s
  | .chsRargmax core => Sys2Proof.Machine.execChsRargmax core s
  | .chsCld core => Sys2Proof.Machine.execChsCld core s
  | .tngGather core => Sys2Proof.Machine.execTngGather core s
  | .tngPool core => Sys2Proof.Machine.execTngPool core s
  | .tngScatter core => Sys2Proof.Machine.execTngScatter core s
  | .tngMupd core => Sys2Proof.Machine.execTngMupd core s
  | .tngStage core => Sys2Proof.Machine.execTngStage core s
  | .tngCommit core => Sys2Proof.Machine.execTngCommit core s
  | .tngMigrate core => Sys2Proof.Machine.execTngMigrate core s
  | .tngReshard core => Sys2Proof.Machine.execTngReshard core s
  | .tngTswap core => Sys2Proof.Machine.execTngTswap core s
  | .tngTscrub core => Sys2Proof.Machine.execTngTscrub core s
  | .tngUrld core => Sys2Proof.Machine.execTngUrld core s
  | .rowLockAcquire core => Sys2Proof.Machine.execRowLockAcquire core s
  | .veneerSlotAlloc core => Sys2Proof.Machine.execVeneerSlotAlloc core s
  | .copyBack core entry => Sys2Proof.Machine.execCopyBack core entry s
  | .veneerSlotFree core entry => Sys2Proof.Machine.execVeneerSlotFree core entry s
  | .tblLookupRetire entry => Sys2Proof.Machine.execTblLookupRetire entry s
  | .tblEpochAdvance => Sys2Proof.Machine.execTblEpochAdvance s
  | .tblEpochCfgWrite rq val => Sys2Proof.Machine.execTblEpochCfgWrite rq val s
  | .descDrained desc => Sys2Proof.Machine.execDescDrained desc s
  | .poolUnitShare stack => Sys2Proof.Machine.execPoolUnitShare stack s
  | .selSopen core => Sys2Proof.Machine.execSelSopen core s
  | .selSpush core => Sys2Proof.Machine.execSelSpush core s
  | .selSpushl core => Sys2Proof.Machine.execSelSpushl core s
  | .selSread core => Sys2Proof.Machine.execSelSread core s
  | .selPqscan core => Sys2Proof.Machine.execSelPqscan core s
  | .selSbest core => Sys2Proof.Machine.execSelSbest core s
  | .xfrCopy core u slips => Sys2Proof.Machine.execXfrCopy core u slips s
  | .xfrFill core u => Sys2Proof.Machine.execXfrFill core u s
  | .xfrPcopy core u => Sys2Proof.Machine.execXfrPcopy core u s
  | .xfrNote core u => Sys2Proof.Machine.execXfrNote core u s
  | .engineOpComplete core op => Sys2Proof.Machine.execEngineOpComplete core op s
  | .enginePowerOn core eng => Sys2Proof.Machine.execEnginePowerOn core eng s
  | .enginePowerOff core eng => Sys2Proof.Machine.execEnginePowerOff core eng s
  | .coreEnterC2 core => Sys2Proof.Machine.execCoreEnterC2 core s
  | .coreEnterC3 core => Sys2Proof.Machine.execCoreEnterC3 core s
  | .rampTokenGrant die => Sys2Proof.Machine.execRampTokenGrant die s
  | .coreWakeDone core => Sys2Proof.Machine.execCoreWakeDone core s
  | .lineFillDone core line => Sys2Proof.Machine.execLineFillDone core line s
  | .wbBufferDrain core => Sys2Proof.Machine.execWbBufferDrain core s
  | .spadPatrolScrub core word found => Sys2Proof.Machine.execSpadPatrolScrub core word found s
  | .drawerRefresh core bank found word => Sys2Proof.Machine.execDrawerRefresh core bank found word s
  | .drawerSelfRefresh core bank found word => Sys2Proof.Machine.execDrawerSelfRefresh core bank found word s
  | .stackRefresh stack tempC => Sys2Proof.Machine.execStackRefresh stack tempC s
  | .bar4Read off len => Sys2Proof.Machine.execBar4Read off len s
  | .bar4Write off data poisoned => Sys2Proof.Machine.execBar4Write off data poisoned s
  | .keyLoad rq ctx val => Sys2Proof.Machine.execKeyLoad rq ctx val s
  | .keyZero rq ctx val => Sys2Proof.Machine.execKeyZero rq ctx val s
  | .keyEffective slot => Sys2Proof.Machine.execKeyEffective slot s
  | .ringRequestGrant cluster line => Sys2Proof.Machine.execRingRequestGrant cluster line s
  | .homeAgentRequest region line => Sys2Proof.Machine.execHomeAgentRequest region line s
  | .locationRequest line => Sys2Proof.Machine.execLocationRequest line s
  | .dirRecall region line => Sys2Proof.Machine.execDirRecall region line s
  | .birsp line inv data => Sys2Proof.Machine.execBirsp line inv data s
  | .hostMemrd hpa caches => Sys2Proof.Machine.execHostMemrd hpa caches s
  | .hostMemwr hpa data poison => Sys2Proof.Machine.execHostMemwr hpa data poison s
  | .snpdata hpa => Sys2Proof.Machine.execSnpdata hpa s
  | .snpinv hpa => Sys2Proof.Machine.execSnpinv hpa s
  | .snpcur hpa => Sys2Proof.Machine.execSnpcur hpa s
  | .watchRearm ctx fclk => Sys2Proof.Machine.execWatchRearm ctx fclk s
  | .cxlGo hpa grant data poison => Sys2Proof.Machine.execCxlGo hpa grant data poison s
  | .cxlGoErr hpa => Sys2Proof.Machine.execCxlGoErr hpa s
  | .completionTimeout hpa => Sys2Proof.Machine.execCompletionTimeout hpa s
  | .mirrorWalkDone cluster entry => Sys2Proof.Machine.execMirrorWalkDone cluster entry s
  | .atsCompletion ctx page res => Sys2Proof.Machine.execAtsCompletion ctx page res s
  | .prgResponse prg code => Sys2Proof.Machine.execPrgResponse prg code s
  | .taskSwitchOut core => Sys2Proof.Machine.execTaskSwitchOut core s
  | .taskSwitchIn core task => Sys2Proof.Machine.execTaskSwitchIn core task s
  | .granuleMigrate ctx page steps => Sys2Proof.Machine.execGranuleMigrate ctx page steps s
  | .xltInvReq rq val => Sys2Proof.Machine.execXltInvReq rq val s
  | .xltInvDone => Sys2Proof.Machine.execXltInvDone s
  | .atsInvalidationRequest pasid => Sys2Proof.Machine.execAtsInvalidationRequest pasid s
  | .cmdNop ctx w => Sys2Proof.Machine.execCmdNop ctx w s
  | .cmdTask ctx w => Sys2Proof.Machine.execCmdTask ctx w s
  | .cmdWait ctx w => Sys2Proof.Machine.execCmdWait ctx w s
  | .cmdSignal ctx w => Sys2Proof.Machine.execCmdSignal ctx w s
  | .cmdCall ctx w => Sys2Proof.Machine.execCmdCall ctx w s
  | .taskPlace ctx => Sys2Proof.Machine.execTaskPlace ctx s
  | .taskCoreStart core task => Sys2Proof.Machine.execTaskCoreStart core task s
  | .cplRecordIssue task => Sys2Proof.Machine.execCplRecordIssue task s
  | .afterSignal ctx => Sys2Proof.Machine.execAfterSignal ctx s
  | .ctxFset rq ctx val => Sys2Proof.Machine.execCtxFset rq ctx val s
  | .ctxAbort rq ctx val => Sys2Proof.Machine.execCtxAbort rq ctx val s
  | .abortComplete ctx => Sys2Proof.Machine.execAbortComplete ctx s
  | .wdogStall ctx => Sys2Proof.Machine.execWdogStall ctx s
  | .intAckArm rq val => Sys2Proof.Machine.execIntAckArm rq val s
  | .msiEnable => Sys2Proof.Machine.execMsiEnable s
  | .msiUnmask => Sys2Proof.Machine.execMsiUnmask s
  | .flrInitiate => Sys2Proof.Machine.execFlrInitiate s
  | .flrComplete => Sys2Proof.Machine.execFlrComplete s
  | .bmeClear => Sys2Proof.Machine.execBmeClear s
  | .bmeSet => Sys2Proof.Machine.execBmeSet s
  | .d3hotEnter => Sys2Proof.Machine.execD3hotEnter s
  | .d0Return => Sys2Proof.Machine.execD0Return s
  | .priReenable => Sys2Proof.Machine.execPriReenable s
  | .hdmDecoderCommit dec base size dpa bi => Sys2Proof.Machine.execHdmDecoderCommit dec base size dpa bi s
  | .romRead off len => Sys2Proof.Machine.execRomRead off len s
  | .doeDiscovery ix => Sys2Proof.Machine.execDoeDiscovery ix s
  | .getVersion => Sys2Proof.Machine.execGetVersion s
  | .getCapabilities ver flags => Sys2Proof.Machine.execGetCapabilities ver flags s
  | .negotiateAlgorithms asym hash => Sys2Proof.Machine.execNegotiateAlgorithms asym hash s
  | .getDigests => Sys2Proof.Machine.execGetDigests s
  | .getCertificate off len => Sys2Proof.Machine.execGetCertificate off len s
  | .challenge nonce => Sys2Proof.Machine.execChallenge nonce s
  | .getMeasurements op => Sys2Proof.Machine.execGetMeasurements op s
  | .cdatRead entry => Sys2Proof.Machine.execCdatRead entry s
  | .doeAbort => Sys2Proof.Machine.execDoeAbort s
  | .linkUp => Sys2Proof.Machine.execLinkUp s
  | .linkRetrain => Sys2Proof.Machine.execLinkRetrain s
  | .powerOnReset => Sys2Proof.Machine.execPowerOnReset s
  | .warmReset src => Sys2Proof.Machine.execWarmReset src s
  | .hotReset => Sys2Proof.Machine.execHotReset s
  | .surpriseLinkDown => Sys2Proof.Machine.execSurpriseLinkDown s
  | .bankReattach rq val => Sys2Proof.Machine.execBankReattach rq val s
  | .reattachComplete => Sys2Proof.Machine.execReattachComplete s
  | .bankDiscard rq val => Sys2Proof.Machine.execBankDiscard rq val s
  | .bringupPllLock => Sys2Proof.Machine.execBringupPllLock s
  | .bringupConfigReady => Sys2Proof.Machine.execBringupConfigReady s
  | .bringupBsmReady => Sys2Proof.Machine.execBringupBsmReady s
  | .mcLoad rq val => Sys2Proof.Machine.execMcLoad rq val s
  | .mcLoadDone => Sys2Proof.Machine.execMcLoadDone s
  | .bringupRun => Sys2Proof.Machine.execBringupRun s
  | .clRejoin rq cluster val => Sys2Proof.Machine.execClRejoin rq cluster val s
  | .slotPccOn rq port val => Sys2Proof.Machine.execSlotPccOn rq port val s
  | .slotPccOff rq port val => Sys2Proof.Machine.execSlotPccOff rq port val s
  | .slotIndicatorWrite rq port val => Sys2Proof.Machine.execSlotIndicatorWrite rq port val s
  | .fmpPresenceDetect port => Sys2Proof.Machine.execFmpPresenceDetect port s
  | .fmpPowerGood port => Sys2Proof.Machine.execFmpPowerGood port s
  | .fmpLinkL0 port width speed => Sys2Proof.Machine.execFmpLinkL0 port width speed s
  | .fmpEnumerateDone port x => Sys2Proof.Machine.execFmpEnumerateDone port x s
  | .fmpStateTimeout port => Sys2Proof.Machine.execFmpStateTimeout port s
  | .fmpDrainDone port => Sys2Proof.Machine.execFmpDrainDone port s
  | .fmpSurpriseRemoval port how => Sys2Proof.Machine.execFmpSurpriseRemoval port how s
  | .fmpPowerFault port => Sys2Proof.Machine.execFmpPowerFault port s
  | .fmpAttentionButton port => Sys2Proof.Machine.execFmpAttentionButton port s
  | .dtRead src tag ca len => Sys2Proof.Machine.execDtRead src tag ca len s
  | .dtReadReply tag data poison => Sys2Proof.Machine.execDtReadReply tag data poison s
  | .dtWrite src tag ca data poison => Sys2Proof.Machine.execDtWrite src tag ca data poison s
  | .dtWriteAck tag => Sys2Proof.Machine.execDtWriteAck tag s
  | .dtLookup src tag handle q rows => Sys2Proof.Machine.execDtLookup src tag handle q rows s
  | .dtRows tag rows => Sys2Proof.Machine.execDtRows tag rows s
  | .dtPlookup src tag handle q share wgt => Sys2Proof.Machine.execDtPlookup src tag handle q share wgt s
  | .dtPartial tag elems missing poison => Sys2Proof.Machine.execDtPartial tag elems missing poison s
  | .dtUpdate src tag handle q row u => Sys2Proof.Machine.execDtUpdate src tag handle q row u s
  | .dtUpdateAck tag => Sys2Proof.Machine.execDtUpdateAck tag s
  | .dtRefuse tag => Sys2Proof.Machine.execDtRefuse tag s
  | .dtHeartbeatReceived src inc => Sys2Proof.Machine.execDtHeartbeatReceived src inc s
  | .dtBeaconReceived src mstc => Sys2Proof.Machine.execDtBeaconReceived src mstc s
  | .heartbeatSend => Sys2Proof.Machine.execHeartbeatSend s
  | .beaconSend => Sys2Proof.Machine.execBeaconSend s
  | .peerDead peer => Sys2Proof.Machine.execPeerDead peer s
  | .beaconTimeout => Sys2Proof.Machine.execBeaconTimeout s
  | .syncBeaconEdge => Sys2Proof.Machine.execSyncBeaconEdge s
  | .dtRevive rq val => Sys2Proof.Machine.execDtRevive rq val s
  | .dtChBind rq ch val => Sys2Proof.Machine.execDtChBind rq ch val s
  | .dtChUnbind rq ch val => Sys2Proof.Machine.execDtChUnbind rq ch val s
  | .dtLinkChange port up => Sys2Proof.Machine.execDtLinkChange port up s
  | .finjGo rq b val => Sys2Proof.Machine.execFinjGo rq b val s
  | .clFenceSet rq cluster val => Sys2Proof.Machine.execClFenceSet rq cluster val s
  | .clFenceLift rq cluster val => Sys2Proof.Machine.execClFenceLift rq cluster val s
  | .conditionReevent b src => Sys2Proof.Machine.execConditionReevent b src s
  | .dipBegin rail mv => Sys2Proof.Machine.execDipBegin rail mv s
  | .dipRestore => Sys2Proof.Machine.execDipRestore s
  | .powerSample avg1us avg10ms => Sys2Proof.Machine.execPowerSample avg1us avg10ms s
  | .forceHalfWrite rq val => Sys2Proof.Machine.execForceHalfWrite rq val s
  | .thermPauseBegin cluster tempC => Sys2Proof.Machine.execThermPauseBegin cluster tempC s
  | .thermTrip tempC => Sys2Proof.Machine.execThermTrip tempC s
  | .pllUnlock => Sys2Proof.Machine.execPllUnlock s
  | .temperMeasure mon value => Sys2Proof.Machine.execTemperMeasure mon value s
  | .temperHourTick => Sys2Proof.Machine.execTemperHourTick s
  | .quenchPin => Sys2Proof.Machine.execQuenchPin s
  | .quenchGo rq val => Sys2Proof.Machine.execQuenchGo rq val s
  | .quenchAtReached => Sys2Proof.Machine.execQuenchAtReached s
  | .quenchStop ofs => Sys2Proof.Machine.execQuenchStop ofs s
  | .quenchRelease rq val => Sys2Proof.Machine.execQuenchRelease rq val s
  | .quenchWindowRead off len => Sys2Proof.Machine.execQuenchWindowRead off len s
  | .traceEnable rq val => Sys2Proof.Machine.execTraceEnable rq val s
  | .traceFifoDrain fifo => Sys2Proof.Machine.execTraceFifoDrain fifo s
  | .watchArm rq w val => Sys2Proof.Machine.execWatchArm rq w val s
  | .watchCopy w => Sys2Proof.Machine.execWatchCopy w s
  | .jtagBypass tdi => Sys2Proof.Machine.execJtagBypass tdi s
  | .jtagDbgaddr val => Sys2Proof.Machine.execJtagDbgaddr val s
  | .jtagDbgdata => Sys2Proof.Machine.execJtagDbgdata s
  | .jtagDbgregCapture => Sys2Proof.Machine.execJtagDbgregCapture s
  | .jtagDbgregUpdate val => Sys2Proof.Machine.execJtagDbgregUpdate val s
  | .quenchRestart => Sys2Proof.Machine.execQuenchRestart s
  | .storeBufferDrain core entry => Sys2Proof.Machine.execStoreBufferDrain core entry s
  | .linkLevelRetry link => Sys2Proof.Machine.execLinkLevelRetry link s
  | .internalLinkDown link => Sys2Proof.Machine.execInternalLinkDown link s
  | .phyRetrain stack => Sys2Proof.Machine.execPhyRetrain stack s
  | .conditionSourceEnds b src => Sys2Proof.Machine.execConditionSourceEnds b src s
  | .thermalClockPause cluster => Sys2Proof.Machine.execThermalClockPause cluster s
  | .thermalExcursionEnd cluster => Sys2Proof.Machine.execThermalExcursionEnd cluster s
  | .configurationWrite off size val => Sys2Proof.Machine.execConfigurationWrite off size val s
  | .ioflushReadComplete => Sys2Proof.Machine.execIoflushReadComplete s
  | .refreshManagementRequest stack => Sys2Proof.Machine.execRefreshManagementRequest stack s

end Sys2Proof.Machine
end

