-- ==== Sys2Proof/Machine/Idle.lean ====
section
/-! DEFINITION. What happens while no command waits (log entry 4): time passes, and what only waited for accesses to be performed
goes on. -/

namespace Sys2Proof.Machine

/-- 5 ns pass on an empty queue. -/
def idlePass (s : State) : State := serveAtsInv (passTime s)

end Sys2Proof.Machine
end

