-- ==== Sys2Proof/Safety.lean ====
section
/-! DEFINITION. What counts as a safe run, and the words in which claims about commands are stated: that a core's
sequencer issues an instruction alone in its bundle, the state in which its effect begins, and the state that follows. -/

namespace Sys2Proof

open Sys2Proof.Machine

/-- The outcome is a next state for which `p` holds. -/
def Answers (o : Host.Outcome Machine.State Machine.Fault Machine.Refusal) (p : Machine.State → Prop) : Prop :=
  ∃ t, o = .next t ∧ p t

/-- `k` steps from `s` neither fault nor are refused. -/
def SafeRun (k : Nat) (s : Machine.State) : Prop := Answers (match k with | 0 => .next s | _ => core.run k s) fun _ => True

/-! A sequencer that issues one instruction as a bundle of its own. -/

/-- No injected error of the block is armed. -/
def NoInjection (s : Machine.State) (b : Blk) : Prop := mapGet (fun _ => 0) s.inject (blkNo b) = 0

/-- The instruction at the program's PC is fetched without a wait: its CA passes the check of execution, its line is in the
instruction cache, and inside a region it lies in the pinned code (R174, R193, R246). -/
def Fetches (s : Machine.State) (c : Nat) (p : Prog) : Prop :=
  p.pc.toNat < 2 ^ 51 ∧ (segCheck s p.ctx p.pc.toNat 8 .x).isOk = true
    ∧ isHole s (canon p.pc.toNat) = false ∧ isHole s (canon (p.pc.toNat + 7)) = false
    ∧ (mapFind? (Machine.core s c).icache (icKey p.ctx p.pc.toNat)).isSome = true
    ∧ NoInjection s (bCore c)
    ∧ (p.injig = true → ∀ j, p.jig = some j → j.lo / 64 * 64 ≤ p.pc.toNat ∧ p.pc.toNat < j.hi)

/-- The word at CA `a` in core `c`'s instruction cache is one that spells `i` (R164, R170, R171). -/
def SpelledAt (s : Machine.State) (c : CoreIx) (p : Prog) (a : Nat) (i : Instr) : Prop :=
  ∃ w, icWord (Machine.core s c.val) p.ctx a = some w ∧ decodeWord c w = some i

/-- The word at the program's PC spells `i`. -/
def Spells (s : Machine.State) (h : Hdr) (p : Prog) (i : Instr) : Prop := SpelledAt s h.core p p.pc.toNat i

/-- The core of `h` runs `p`, can issue, waits with nothing, and fetches an instruction whose STOP bit is set. -/
def Issues (s : Machine.State) (h : Hdr) (p : Prog) : Prop :=
  prog? s h.core.val = some p ∧ seqReady s h.core.val p = true ∧ (Machine.core s h.core.val).bundle = []
    ∧ (p.pend = [] ∨ p.inexc = true) ∧ h.stop = true ∧ Fetches s h.core.val p

/-- It issues, and the instruction's qualifying predicate lets it execute (R168). -/
def Executes (s : Machine.State) (h : Hdr) (p : Prog) : Prop := Issues s h p ∧ qualified p h = true

/-- It executes outside a jig region. -/
def ExecutesQueue (s : Machine.State) (h : Hdr) (p : Prog) : Prop := Executes s h p ∧ p.injig = false

/-- CA of the bundle that follows an instruction alone in its bundle. -/
def nextCa (p : Prog) : BitVec 52 := BitVec.ofNat 52 (p.pc.toNat + 8)

/-- No WAIT is left. -/
def noWait (p : Prog) : Prog := { p with waitTo := none }

/-- The program state in which the instruction's effect begins: PC names the next bundle, no WAIT is left, and inside a region the
bundle issues in the region's present cycle. -/
def atIssue (p : Prog) : Prog := { p with waitTo := none, pc := nextCa p, jig := regionBundle p }

/-- The state in which the effect of `i`, alone in its bundle, begins. -/
def fetched (s : Machine.State) (h : Hdr) (i : Instr) (p : Prog) : Machine.State :=
  setCore s h.core.val { Machine.core s h.core.val with bundle := [i], prog := some (atIssue p) }

/-- The core as the effect sees it, before the effect. -/
def coreBefore (s : Machine.State) (h : Hdr) (i : Instr) (p : Prog) : Core :=
  { Machine.core s h.core.val with bundle := [i], prog := some (noWait p) }

/-- The state in which a bundle that holds `i` alone has been fetched and nothing of it has had effect. -/
def begun (s : Machine.State) (h : Hdr) (i : Instr) (p : Prog) : Machine.State := setCore s h.core.val (coreBefore s h i p)

/-- The program state after its bundle has issued. -/
def afterBundle (q : Prog) : Prog := { q with blocked := false, granted := false, reply := none }

/-- The state after a bundle whose only effect is that the core's program state became `q`. -/
def issued (s : Machine.State) (h : Hdr) (q : Prog) : Machine.State :=
  setCore s h.core.val { Machine.core s h.core.val with bundle := [], parkedSeq := false, accepted := [], prog := some (afterBundle q) }

/-- The state after a release at scope `sc` that waits for nothing: from PACKAGE on, engine writes that cluster caches hold have reached
their controllers (R264, R272). -/
def released (s : Machine.State) (sc : Nat) : Machine.State := if 4 ≤ sc then performPackage s else s

/-! The outcomes of a command that is an instruction alone in its bundle. -/

/-- The bundle issues, and its only effect is that the program state becomes `q`. -/
def becomes (s : Machine.State) (h : Hdr) (q : Prog) : Out := .next (settle (issued s h q))

/-- The bundle issues, and its effect leads from the state in which it begins to `t`. -/
def completes (h : Hdr) (t : Machine.State) : Out := .next (settle (bundleDone t h.core.val))

/-- The bundle has no effect and raises the exception `code`; inside a region that aborts with EXCEPT. -/
def raises (s : Machine.State) (h : Hdr) (i : Instr) (p : Prog) (code sub ea detail : Nat) : Out :=
  .next (settle (bundleFault (begun s h i p) (begun s h i p) h.core.val p.pc.toNat (p.pc.toNat + 8) 0 (.exc code sub ea detail)))

/-- The bundle has no effect and its region aborts with `code`. -/
def aborts (s : Machine.State) (h : Hdr) (i : Instr) (p : Prog) (code : Nat) : Out :=
  .next (settle (bundleFault (begun s h i p) (begun s h i p) h.core.val p.pc.toNat (p.pc.toNat + 8) 0 (.abort code)))

/-- The bundle has no effect but what its waiting instruction `o` has asked for in `t`, and the sequencer waits with it. -/
def waitsAt (h : Hdr) (o : SOp) (t : Machine.State) : Out := .next (settle (blockAt t h.core.val (some o) false))

/-- The bundle has no effect and the sequencer waits with its instruction `o`, which accesses no memory. -/
def waits (s : Machine.State) (h : Hdr) (i : Instr) (o : SOp) (p : Prog) : Out :=
  waitsAt h o (setCore s h.core.val { coreBefore s h i p with ncLine := none })

/-- A program access at CA `a` of local memory: aligned, allowed by the segments, in no hole, in conflict with no operation of an
engine, and at `t` (R175, R176, R267). -/
def LocalAccess (s : Machine.State) (p : Prog) (a n : Nat) (perm : Perm) (wr : Bool) (t : Target) : Prop :=
  a < 2 ^ 51 ∧ 1 ≤ n ∧ a % n = 0 ∧ (∃ w, segCheck s p.ctx a n perm = .ok w ∧ t = segTarget a w)
    ∧ isHole s (canon a) = false ∧ isHole s (canon (a + n - 1)) = false ∧ seqHeld (noWait p) a n wr = false

/-- The own scratchpad gives `bs` for `n` bytes at CA `a`, and the state is then `t` (its counters). -/
def SpadGives (s : Machine.State) (c : Nat) (p : Prog) (a n : Nat) (bs : List Byte) (t : Machine.State) : Prop :=
  spadBase c ≤ a ∧ a + n ≤ spadBase c + spadSize ∧ seqHeld (noWait p) a n false = false
    ∧ ∃ w r, segCheck s p.ctx a n .r = .ok w ∧ ((Machine.core s c).sbuf.any fun b => bufOverlaps b (segTarget a w) n) = false
        ∧ readParts (whoCore s c) (segTarget a w) (parts (segTarget a w).addr n) s = .ok r t ∧ r.bad = false ∧ r.bytes = bs

/-! Commands of the other agents. -/

/-- The answer of a command whose effect led to `t`: its fault events are taken and the interrupt lines settle. -/
def after (t : Machine.State) : Out := .next (settle t)

/-- A register write of `n` bytes by `rq` at register key `k` answers, at `s`, the end of a command at `t`: a host's is counted as it came,
or is an unsupported request where the function claims no access there (R354, R376, R441). -/
def afterReg (s : Machine.State) (rq : Requester) (k n : Nat) (t : Machine.State) : Out := after (regArrived s rq k n t)

/-- Engine `e` of core `c` can work, no parity error is injected into it as it moves rows, and `op`, of opcode `code`, is its first
operation that has not run, held by nothing (R183-R186, R267, R313). -/
def EngineReady (s : Machine.State) (c e code : Nat) (p : Prog) (op : EngOp) : Prop :=
  engineUp s c e = true ∧ prog? s c = some p ∧ nextOp p e = some op ∧ opHeld p e op = false ∧ startHeld s c e p op = false
    ∧ opcodeOf op = code ∧ parityMet s c e op = s

/-- The state after an operation whose work led to `t`: it has run, and an armed parity error marks its results (R411, R425). -/
def ranTo (t : Machine.State) (p : Prog) (c e : Nat) (op : EngOp) : Machine.State :=
  engineParity (updOp t c e op.ord fun o => { o with ran := true }) p c e op

/-- The context's segments let a program read and write the whole of core `c`'s scratchpad. -/
def OpenSpad (s : Machine.State) (c : Nat) (ctx : BitVec 12) : Prop :=
  ∀ a n perm, spadBase c ≤ a → a + n ≤ spadBase c + spadSize → (segCheck s ctx a n perm).isOk = true

/-- Programs and engines of context `ctx` may read, write and replace the `n` bytes at CA `a`, which lie in memory that is there and
is not the mirror (R175, R21, R187), and of which the cluster cache takes no line in, for which it might have no room (R253, R289). -/
def Reach (s : Machine.State) (ctx : BitVec 12) (a n : Nat) : Prop :=
  a + n ≤ 2 ^ 51 ∧ ∀ x l perm, 1 ≤ l → a ≤ x → x + l ≤ a + n →
    (∃ w, segCheck s ctx x l perm = .ok w ∧ (flag w 52 && ccacheable (canon x)) = false) ∧ isHole s (canon x) = false ∧ isHole s (canon (x + l - 1)) = false ∧ isMirror x = false

/-- No request of a line is in service, no write-back waits, and the host holds no line of the package's memory (R282, R285, R299): no
access to local memory waits. -/
def Quiet (s : Machine.State) : Prop :=
  s.txns = [] ∧ (∀ k, hostBit s k = false) ∧ ∀ c, (Machine.core s c).wb = none

/-- The bytes lie in one core's scratchpad. -/
def InSpad (a n : Nat) : Prop := ∃ c, c < 384 ∧ spadBase c ≤ a ∧ a + n ≤ spadBase c + spadSize

/-- The operation is the only one of its queue with its order number, its work has not begun, and it is outside a region. -/
def FreshOp (p : Prog) (e : Nat) (op : EngOp) : Prop :=
  p.injig = false ∧ ((queue p e).filter fun o => o.ord = op.ord) = [op] ∧ op.inJig = false ∧ op.progress = 0 ∧ op.tags = [] ∧ op.hole = none ∧ op.deferred = []

/-- The 8-byte word of memory at CA `a`, where it lies in a scratchpad. -/
def WordIs (s : Machine.State) (a : Nat) (w : Word) : Prop := InSpad a 8 ∧ BitVec.ofNat 64 (ofBytes (memBytes s a 8)) = w

/-- `k` rows of `n` bytes, `stride` apart from offset `off` on, lie in a scratchpad. -/
def RowsFit (off stride n k : Nat) : Prop := ∀ i, i < k → off + i * stride + n ≤ spadSize

/-- A write of the whole register at window offset `o` of block `b` by `rq` is performed now (R21, R34, R35, R39, R42, R423). -/
def Accepts (s : Machine.State) (rq : Requester) (b : Blk) (o : Nat) : Prop :=
  requesterReaches s rq b = true ∧ windowLives s b = true ∧ (rq = .pmc → b = .pwr) ∧ writePerformed s b o = true
    ∧ heldAccs s b = [] ∧ writeGated s b o = false

/-- What such a write leaves in the register where it takes effect as a plain one (R37, R38). -/
def writtenWord (s : Machine.State) (b : Blk) (o : Nat) (val : Word) : Word := storedWord b o (reg s b o) val

end Sys2Proof
end

