-- ==== Sys2Proof/Certificates/Slice0/Obligations.lean ====
section
/-! DEFINITION. The statements for the provers. Each says what a rule of the manual says of the complex, for every state
and all operands that meet its hypotheses. -/

namespace Sys2Proof.Claims

open Sys2Proof.Machine

/-- The operations of R172 with two sources, with the register form and the immediate form of each. -/
def aluTable : List ((Hdr → FmtR → Instr) × (Hdr → FmtI → Instr) × (Word → Word → Word)) :=
  [(.add, .addi, fun a b => a + b),
   (.sub, .subi, fun a b => a - b),
   (.andR, .andi, fun a b => a &&& b),
   (.orR, .ori, fun a b => a ||| b),
   (.xorR, .xori, fun a b => a ^^^ b),
   (.shl, .shli, fun a b => a <<< (b.toNat % 64)),
   (.shr, .shri, fun a b => a >>> (b.toNat % 64)),
   (.sar, .sari, fun a b => a.sshiftRight (b.toNat % 64)),
   (.mul, .muli, fun a b => BitVec.ofNat 64 (a.toNat * b.toNat)),
   (.mulhu, .mulhui, fun a b => BitVec.ofNat 64 (a.toNat * b.toNat / 2 ^ 64)),
   (.mulhs, .mulhsi, fun a b => BitVec.ofInt 64 (a.toInt * b.toInt / 2 ^ 64)),
   (.divu, .divui, fun a b => if b = 0 then BitVec.ofNat 64 (2 ^ 64 - 1) else BitVec.ofNat 64 (a.toNat / b.toNat)),
   (.divs, .divsi, fun a b => if b = 0 then BitVec.ofInt 64 (-1)
      else if a = BitVec.ofInt 64 (-2 ^ 63) ∧ b = BitVec.ofInt 64 (-1) then BitVec.ofInt 64 (-2 ^ 63)
      else BitVec.ofInt 64 (a.toInt.tdiv b.toInt)),
   (.remu, .remui, fun a b => if b = 0 then a else a - b * BitVec.ofNat 64 (a.toNat / b.toNat)),
   (.rems, .remsi, fun a b => if b = 0 then a else a - b * BitVec.ofInt 64 (a.toInt.tdiv b.toInt)),
   (.minS, .mini, fun a b => if a.toInt ≤ b.toInt then a else b),
   (.maxS, .maxi, fun a b => if a.toInt ≤ b.toInt then b else a),
   (.minU, .minui, fun a b => if a.toNat ≤ b.toNat then a else b),
   (.maxU, .maxui, fun a b => if a.toNat ≤ b.toNat then b else a)]

/-- A command that performs an operation of an engine: the engine, the opcode (R88, R95, R142, R160, R187), the command for a core, and
the operation's own work. -/
structure EngineRow where
  eng : Nat
  code : Nat
  cmd : CoreIx → Instr
  body : Nat → Prog → EngOp → M Unit

/-- Work that may meet slips (R220). -/
def withSlips (slips : List SlipObs) (body : Nat → Prog → EngOp → M Unit) (c : Nat) (p : Prog) (op : EngOp) : M Unit := do
  modify fun s => if p.injig then applySlips s c slips else s
  body c p op

/-- Chisel's commands other than CLD. -/
def chiselRows : List (Nat × (CoreIx → Instr)) :=
  [(0x20, .chsAdd), (0x21, .chsSub), (0x22, .chsMul), (0x23, .chsFma), (0x24, .chsMax), (0x25, .chsMin), (0x26, .chsAbs), (0x27, .chsSel),
   (0x28, .chsDiv), (0x29, .chsRsqrt), (0x2A, .chsCvt), (0x2B, .chsQnt), (0x2C, .chsCurve), (0x30, .chsRsum), (0x31, .chsRssq),
   (0x32, .chsRmax), (0x33, .chsRmin), (0x34, .chsRargmax)]

/-- Every command that performs an operation of an engine. -/
def engineRows (slips : List SlipObs) : List EngineRow :=
  [⟨0, 1, fun k => .anvMma k slips, withSlips slips anvMma⟩, ⟨0, 2, .anvRd, anvRdBody⟩, ⟨0, 3, .anvLdacc, anvLoadBody false⟩,
   ⟨0, 4, .anvAddacc, anvLoadBody true⟩, ⟨0, 5, .anvClr, anvClrBody⟩]
  ++ chiselRows.map (fun e => ⟨1, e.1, e.2, chsBody⟩) ++ [⟨1, 0x3F, .chsCld, chsCldBody⟩]
  ++ [⟨2, 0x40, .tngGather, gatherBody⟩, ⟨2, 0x41, .tngPool, poolBody⟩, ⟨2, 0x42, .tngScatter, scatterBody⟩, ⟨2, 0x43, .tngMupd, mupdBody⟩,
      ⟨2, 0x44, .tngStage, stageBody⟩, ⟨2, 0x45, .tngCommit, commitBody⟩, ⟨2, 0x46, .tngMigrate, migrateBody⟩,
      ⟨2, 0x47, .tngReshard, reshardBody⟩, ⟨2, 0x48, .tngTswap, tswapBody⟩, ⟨2, 0x49, .tngTscrub, tscrubBody⟩, ⟨2, 0x4A, .tngUrld, urldBody⟩]
  ++ [⟨3, 0x60, .selSopen, sopenBody⟩, ⟨3, 0x61, .selSpush, spushBody⟩, ⟨3, 0x62, .selSpushl, spushlBody⟩, ⟨3, 0x63, .selSread, sreadBody⟩,
      ⟨3, 0x64, .selPqscan, pqscanBody⟩, ⟨3, 0x65, .selSbest, sbestBody⟩]
  ++ ([0, 1] : List (Fin 2)).flatMap fun u =>
    [⟨4 + u.val, 0x80, fun k => .xfrCopy k u slips, withSlips slips (copyBody (4 + u.val))⟩,
     ⟨4 + u.val, 0x81, fun k => .xfrFill k u, fillBody (4 + u.val)⟩, ⟨4 + u.val, 0x82, fun k => .xfrPcopy k u, pcopyBody (4 + u.val)⟩,
     ⟨4 + u.val, 0x83, fun k => .xfrNote k u, noteBody (4 + u.val)⟩]

/-- The registers of a block that hold no command and whose write does no more than store their fields (R38). -/
def plainRegister (b : Blk) (o : Nat) : Bool :=
  match b with
  | .gfe => !([0x110, 0x2010, 0x2200, 0x3008, 0x3108].contains o)
  | .ep => o != 0x20008 && o != 0x11300
  | .pwr => !([0x110, 0x200, 0x210].contains o)
  | .dbg => o != 0x200 && o != 0x300 && !(0x400 ≤ o && o < 0x500)
  | .fmp _ => o != 0x108
  | .dt => o != 0x150 && !(0x3000 ≤ o && o < 0x3200)
  | .cluster _ => o != 0x608 && o != 0x610
  | .ctx _ => !([0x8078, 0x8088, 0x8440].contains o)
  | _ => true

/-- A block as the write that sets EN leaves it (R41, R387). -/
def enabledBlock (s : Machine.State) (b : Blk) : Machine.State :=
  match b with
  | .fmp n => slotEnabled (enableBlock s b) n.val
  | _ => enableBlock s b

/-- Entries of the fixed formats of R58 that are floats of 8 bits or fewer: E4M3, E5M2, E3M2, E2M3 and E2M1. -/
def smallFloats : List Nat := [3, 4, 5, 6, 7]

end Sys2Proof.Claims

open Sys2Proof Sys2Proof.Machine Sys2Proof.Claims

/-! The queue of commands. -/

/-- One step runs the command at the front of the queue on the state with the queue's rest. -/
def Obligations.StepRunsFrontCommand : Prop :=
  ∀ (c : Instr) (q : List Instr) (s : State), s.pending = c :: q → step s = exec c { s with pending := q }

/-- On an empty queue 5 ns pass (log entry 4, the model's own choice): STC counts them while it runs, moved by 1 ns while a
correction is left, and no core, no memory byte and no poison mark changes. -/
def Obligations.IdleStepAdvancesTime : Prop :=
  ∀ s : State, s.pending = [] → s.atsInv = [] → railLost (tick s) = false → mapWf (fun _ => coreInit) s.cores = true → ∃ t, step s = .next t
    ∧ t.stc = (if s.stcRun then s.stc + (if s.slew = 0 then 5 else if 0 < s.slew then 6 else 4) else s.stc)
    ∧ (∀ k, (∀ p, prog? s k = some p → p.injig = false) → Machine.core t k = Machine.core s k) ∧ t.mem = s.mem ∧ t.poison = s.poison ∧ t.pending = []

/-! The sequencer: arithmetic, predicates and branches. -/

/-- R172: the two-operand operations with a register or an immediate, and the bit-field operations. -/
def Obligations.ScalarOperationsCompute : Prop :=
  (∀ row ∈ aluTable, ∀ (s : State) (h : Hdr) (p : Prog), Executes s h p →
    (∀ f : FmtR, f.rc = 0 → f.fn = 0 →
      Spells s h p (row.1 h f) → exec (row.1 h f) s = becomes s h (setSreg (atIssue p) f.rd (row.2.2 (sreg p f.ra) (sreg p f.rb))))
    ∧ (∀ f : FmtI, Spells s h p (row.2.1 h f) → exec (row.2.1 h f) s = becomes s h (setSreg (atIssue p) f.rd (row.2.2 (sreg p f.ra) (f.imm.signExtend 64)))))
  ∧ (∀ (s : State) (h : Hdr) (p : Prog) (f : FmtR) (pos len : Nat), Executes s h p → f.rb = 0 → f.rc = 0 → pos < 64 → 1 ≤ len → len ≤ 64 →
      f.fn.toNat = 64 * pos + (len - 1) →
      (Spells s h p (.bfx h f) →
        exec (.bfx h f) s = becomes s h (setSreg (atIssue p) f.rd (BitVec.ofNat 64 ((sreg p f.ra).toNat / 2 ^ pos % 2 ^ len))))
      ∧ (Spells s h p (.bfi h f) → ∃ v, exec (.bfi h f) s = becomes s h (setSreg (atIssue p) f.rd v)
        ∧ ∀ k, k < 64 → v.getLsbD k = if pos ≤ k ∧ k < pos + len then (sreg p f.ra).getLsbD (k - pos) else (sreg p f.rd).getLsbD k))

/-- R171: NOP, PSEL, CLZ, POPC, MOVI and MOVK. -/
def Obligations.SimpleInstructionsCompute : Prop :=
  ∀ (s : State) (h : Hdr) (p : Prog), Executes s h p →
    (∀ f : FmtR, f.rd = 0 → f.ra = 0 → f.rb = 0 → f.rc = 0 → f.fn = 0 → Spells s h p (.nop h f) → exec (.nop h f) s = becomes s h (atIssue p))
    ∧ (∀ f : FmtR, f.rc = 0 → f.fn.toNat < 16 →
        Spells s h p (.psel h f) → exec (.psel h f) s = becomes s h (setSreg (atIssue p) f.rd (if preg p (f.fn.setWidth 4) then sreg p f.ra else sreg p f.rb)))
    ∧ (∀ f : FmtR, f.rb = 0 → f.rc = 0 → f.fn = 0 →
        Spells s h p (.clz h f) → ∃ n, exec (.clz h f) s = becomes s h (setSreg (atIssue p) f.rd (BitVec.ofNat 64 n))
          ∧ n ≤ 64 ∧ (∀ k, 64 ≤ k + n → (sreg p f.ra).getLsbD k = false) ∧ (n < 64 → (sreg p f.ra).getLsbD (63 - n) = true))
    ∧ (∀ f : FmtR, f.rb = 0 → f.rc = 0 → f.fn = 0 →
        Spells s h p (.popc h f) → exec (.popc h f) s
          = becomes s h (setSreg (atIssue p) f.rd (BitVec.ofNat 64 ((List.range 64).filter ((sreg p f.ra).getLsbD ·)).length)))
    ∧ (∀ f : FmtL, f.ext = 0 → f.flag = false → Spells s h p (.movi h f) → exec (.movi h f) s = becomes s h (setSreg (atIssue p) f.rd (f.imm.signExtend 64)))
    ∧ (∀ f : FmtL, f.ext = 0 → Spells s h p (.movk h f) → exec (.movk h f) s = becomes s h (setSreg (atIssue p) f.rd
        (if f.flag then BitVec.ofNat 64 (f.imm.toNat * 2 ^ 32 + (sreg p f.rd).toNat % 2 ^ 32)
         else BitVec.ofNat 64 ((sreg p f.rd).toNat / 2 ^ 32 * 2 ^ 32 + f.imm.toNat))))

/-- R173: CMP and CMPI set PD to the condition that COND names and PE to its inverse, PLOG sets PD to its operation; one
predicate other than p0 in both fields, and an operation code above 3, raise ILLEGAL. -/
def Obligations.ConditionsSetPredicates : Prop :=
  ∀ (s : State) (h : Hdr) (p : Prog),
    (Executes s h p → ∀ f : FmtP, f.z = 0 → (f.pd ≠ f.pe ∨ f.pd = 0) → ∀ b : Word, ∀ i : Instr,
      ((i = .cmp h f ∧ f.imm = 0 ∧ b = sreg p f.rb) ∨ (i = .cmpi h f ∧ f.rb = 0 ∧ b = f.imm.signExtend 64)) →
      Spells s h p i → ∃ v : Bool, exec i s = becomes s h (setPreg (setPreg (atIssue p) f.pd v) f.pe (!v))
        ∧ (f.cond = 0 → (v = true ↔ sreg p f.ra = b)) ∧ (f.cond = 1 → (v = true ↔ sreg p f.ra ≠ b))
        ∧ (f.cond = 2 → (v = true ↔ (sreg p f.ra).toInt < b.toInt)) ∧ (f.cond = 3 → (v = true ↔ b.toInt ≤ (sreg p f.ra).toInt))
        ∧ (f.cond = 4 → (v = true ↔ (sreg p f.ra).toNat < b.toNat)) ∧ (f.cond = 5 → (v = true ↔ b.toNat ≤ (sreg p f.ra).toNat))
        ∧ (f.cond = 6 → (v = true ↔ (sreg p f.ra).getLsbD (b.toNat % 64) = false))
        ∧ (f.cond = 7 → (v = true ↔ (sreg p f.ra).getLsbD (b.toNat % 64) = true)))
    ∧ (Executes s h p → ∀ f : FmtPlog, f.rest = 0 → f.op.toNat ≤ 3 →
      Spells s h p (.plog h f) → exec (.plog h f) s = becomes s h (setPreg (atIssue p) f.pd
        (if f.op = 0 then preg p f.pa && preg p f.pb else if f.op = 1 then preg p f.pa || preg p f.pb
         else if f.op = 2 then preg p f.pa ^^ preg p f.pb else preg p f.pa && !preg p f.pb)))
    ∧ (Issues s h p → ∀ f : FmtP, f.pd = f.pe → f.pd ≠ 0 →
      ∀ i : Instr, (i = .cmp h f ∨ i = .cmpi h f) → Spells s h p i → exec i s = raises s h i p 1 0 0 0)
    ∧ (Issues s h p → ∀ f : FmtPlog, 4 ≤ f.op.toNat ∨ f.rest ≠ 0 → Spells s h p (.plog h f) → exec (.plog h f) s = raises s h (.plog h f) p 1 0 0 0)

/-- R174: BR and CALL go to the CA of their bundle plus 8 × DISP, BRI to the value of RA, which raises ALIGN unless its bits
[63:52] and [2:0] are 0; a fetch that fails the check of execution raises ACCESS with EADDR the fetch CA. R199: ERET goes to EPC
and ends the handler, and outside it raises ILLEGAL. -/
def Obligations.BranchesSetTheCounter : Prop :=
  ∀ (s : State) (h : Hdr) (p : Prog),
    (Executes s h p →
      (∀ f : FmtB, f.rd = 0 → f.ra = 0 → f.z = 0 →
        Spells s h p (.br h f) → exec (.br h f) s = becomes s h { atIssue p with pc := BitVec.ofInt 52 (p.pc.toNat + 8 * f.disp.toInt) })
      ∧ (∀ f : FmtB, f.ra = 0 → f.z = 0 →
        Spells s h p (.call h f) → exec (.call h f) s = becomes s h { setSreg (atIssue p) f.rd (BitVec.ofNat 64 (p.pc.toNat + 8)) with
          pc := BitVec.ofInt 52 (p.pc.toNat + 8 * f.disp.toInt) })
      ∧ (∀ f : FmtB, f.rd = 0 → f.z = 0 → f.disp = 0 →
        Spells s h p (.bri h f) → exec (.bri h f) s =
          if (sreg p f.ra).toNat % 8 = 0 ∧ (sreg p f.ra).toNat < 2 ^ 52 then
            becomes s h { atIssue p with pc := BitVec.ofNat 52 (sreg p f.ra).toNat }
          else raises s h (.bri h f) p 3 0 (sreg p f.ra).toNat 0)
      ∧ (p.injig = false → ∀ f : FmtB, f.rd = 0 → f.ra = 0 → f.z = 0 → f.disp = 0 →
        Spells s h p (.eret h f) → exec (.eret h f) s =
          if p.inexc then becomes s h { atIssue p with pc := p.epc, inexc := false } else raises s h (.eret h f) p 1 0 0 0))
    ∧ (∀ (i : Instr) (o : SOp) (sub : Nat), view i = some (h, o) → prog? s h.core.val = some p → seqReady s h.core.val p = true →
        (Machine.core s h.core.val).bundle = [] → (p.pend = [] ∨ p.inexc = true) → h.stop = true → p.injig = false →
        p.pc.toNat < 2 ^ 51 → NoInjection s (bCore h.core.val) → segCheck s p.ctx p.pc.toNat 8 .x = .error sub →
        exec i s = raises s h i p 4 sub p.pc.toNat 0)

/-- R168: an instruction whose qualifying predicate is false issues with its bundle and has no effect. R165: an instruction that does not
end its bundle is held until the bundle is whole, and nothing of the bundle has effect before. R166: two instructions of one bundle read
their sources as they stood before it, and their results are written together. R171: a word whose opcode the list lacks raises ILLEGAL. -/
def Obligations.BundlesQualifyHoldAndReadOldValues : Prop :=
  (∀ (i : Instr) (o : SOp) (s : State) (h : Hdr) (p : Prog), view i = some (h, o) → Issues s h p →
     Spells s h p i → (decodes o = true → (preg p h.qp ^^ h.qn) = false → exec i s = becomes s h (atIssue p))
     ∧ (decodes o = false → exec i s = raises s h i p 1 0 0 0))
  ∧ (∀ (i : Instr) (o : SOp) (s : State) (h : Hdr) (p : Prog), view i = some (h, o) → prog? s h.core.val = some p →
     seqReady s h.core.val p = true → bundleFull p.pc.toNat (Machine.core s h.core.val).bundle = false →
     ((Machine.core s h.core.val).bundle ≠ [] ∨ p.pend = [] ∨ p.inexc = true) → h.stop = false →
     (Machine.core s h.core.val).bundle.length < 3 → (p.pc.toNat + 8 * (Machine.core s h.core.val).bundle.length) % 64 ≠ 56 →
     exec i s = .next (settle (setCore s h.core.val { Machine.core s h.core.val with bundle := (Machine.core s h.core.val).bundle ++ [i] })))
  ∧ (∀ (s : State) (h g : Hdr) (p : Prog) (f e : FmtR), prog? s g.core.val = some p → h.core = g.core → seqReady s g.core.val p = true →
    (Machine.core s g.core.val).bundle = [.add h f] → h.stop = false → h.wait = 0 → p.pc.toNat % 64 ≠ 56 → p.pc.toNat % 8 = 0 →
    g.stop = true → p.injig = false → Fetches s g.core.val p → (segCheck s p.ctx (p.pc.toNat + 8) 8 .x).isOk = true →
    isHole s (canon (p.pc.toNat + 8)) = false → isHole s (canon (p.pc.toNat + 15)) = false →
    SpelledAt s g.core p p.pc.toNat (.add h f) → SpelledAt s g.core p (p.pc.toNat + 8) (.add g e) →
    (p.pend = [] ∨ p.inexc = true) → qualified p h = true → qualified p g = true → f.rc = 0 → f.fn = 0 → e.rc = 0 → e.fn = 0 →
    (f.rd ≠ e.rd ∨ f.rd = 0) →
    exec (.add g e) s = becomes s g
      { setSreg (setSreg (atIssue p) f.rd (sreg p f.ra + sreg p f.rb)) e.rd (sreg p e.ra + sreg p e.rb) with
        pc := BitVec.ofNat 52 (p.pc.toNat + 16) })
  ∧ (∀ (s : State) (h : Hdr) (p : Prog) (f : FmtR) (w : Nat), Issues s h p → icWord (Machine.core s h.core.val) p.ctx p.pc.toNat = some w →
    decodeWord h.core w = none → h = hdrOf h.core w → f = fmtR w → exec (.nop h f) s = raises s h (.nop h f) p 1 0 0 0)

/-! The sequencer: memory. In these statements S is the state in which the instruction's effect begins. -/

/-- R175-R177, R266: a load returns the bytes of the latest buffered store that covers it, else those of the core's own copy of the
line, zero- or sign-extended; a poisoned copy raises POISON, a misaligned CA ALIGN, and bits above 51 ACCESS. -/
def Obligations.LoadReturnsTheBytes : Prop :=
  ∀ (s : State) (h : Hdr) (p : Prog) (f : FmtM) (a n : Nat) (S : State), ExecutesQueue s h p → Spells s h p (.ld h f) → decodes (.ld f) = true →
    a = offset (sreg p f.ra) f.off → n = sizeBytes f.size → S = fetched s h (.ld h f) p →
    (∀ t, LocalAccess S p a n .r false t → mirrorOff t = none →
      (∀ d, bufFind (Machine.core s h.core.val).sbuf t n = some (some d) →
        exec (.ld h f) s = becomes s h (setSreg (atIssue p) f.rd (loadValue f.size (ofBytes d))))
      ∧ (∀ slot l, bufFind (Machine.core s h.core.val).sbuf t n = none → isVolatile f.ord = false → f.hint = 0 → allocates t = true →
          ownCopy S h.core.val t = some (slot, l) →
          exec (.ld h f) s =
            if l.poison then raises s h (.ld h f) p 5 0 a 0
            else completes h (updProg (dcPut S h.core.val slot l) h.core.val fun q =>
              setSreg q f.rd (loadValue f.size (ofBytes ((l.data.drop (t.addr % 64)).take n))))))
    ∧ (a < 2 ^ 52 → a % n ≠ 0 → exec (.ld h f) s = raises s h (.ld h f) p 3 0 a 0)
    ∧ (2 ^ 52 ≤ a → exec (.ld h f) s = raises s h (.ld h f) p 4 6 a 0)

/-- R175, R248, R264: a store of a line that the core holds M or E enters the store buffer with the low bytes of RD; an NC or
volatile store gives up the core's copy first; a store to a control register is performed at once. Nothing is written to memory
before the buffer drains. -/
def Obligations.StoreEntersTheBuffer : Prop :=
  ∀ (s : State) (h : Hdr) (p : Prog) (f : FmtM) (a n : Nat) (S R : State) (d : List Byte), ExecutesQueue s h p → Spells s h p (.st h f) → decodes (.st f) = true →
    R = (if isOrdered f.ord then released S f.scope.toNat else S) → a = offset (sreg p f.ra) f.off → n = sizeBytes f.size → S = fetched s h (.st h f) p → d = toBytes n (sreg p f.rd).toNat →
    (∀ t, LocalAccess S p a n .w true t →
      (isOrdered f.ord = true → releaseOk S (coreBefore s h (.st h f) p) h.core.val f.scope.toNat = true) →
      (∀ o, mirrorOff t = some o →
        exec (.st h f) s = completes h (performWrite R { rq := .mirror, key := o, size := n, val := BitVec.ofNat 64 (ofBytes d) }))
      ∧ (mirrorOff t = none → (isVolatile f.ord = true ∨ f.hint = 1 ∨ allocates t = false) →
          ∃ G, G = giveUpLine R h.core.val t ∧ exec (.st h f) s = completes h (setCore G h.core.val { Machine.core G h.core.val with
            sbuf := (Machine.core G h.core.val).sbuf ++ [{ tgt := t, named := a, nc := true, data := d }] }))
      ∧ (∀ slot l, mirrorOff t = none → isVolatile f.ord = false → f.hint = 0 → allocates t = true →
          ownCopy R h.core.val t = some (slot, l) → hasOwn l = true → l.poison = false →
          ∃ G, G = dcPut R h.core.val slot l ∧ exec (.st h f) s = completes h (setCore G h.core.val { Machine.core G h.core.val with
            sbuf := (Machine.core G h.core.val).sbuf ++ [{ tgt := t, named := a, nc := false, data := d }] })))
    ∧ (a < 2 ^ 52 → a % n ≠ 0 → exec (.st h f) s = raises s h (.st h f) p 3 0 a 0)
    ∧ (2 ^ 52 ≤ a → exec (.st h f) s = raises s h (.st h f) p 4 6 a 0)

/-- R196: inside a region a load that hits a locked way returns its bytes and a store there writes a line held M or E at once; an
access that no locked way holds and that is no NC access of the own scratchpad aborts the region. -/
def Obligations.RegionAccessHitsALockedWay : Prop :=
  ∀ (s : State) (h : Hdr) (p : Prog) (f : FmtM) (a n : Nat) (t : Target), Executes s h p → p.injig = true →
    a = offset (sreg p f.ra) f.off → n = sizeBytes f.size → isVolatile f.ord = false → f.hint = 0 →
    (∀ S, S = fetched s h (.ld h f) p → Spells s h p (.ld h f) → decodes (.ld f) = true → LocalAccess S p a n .r false t →
      (∀ slot l, lockedCopy S h.core.val t = some (slot, l) → l.poison = false →
        exec (.ld h f) s = completes h (updProg (dcPut S h.core.val slot l) h.core.val fun q =>
          setSreg q f.rd (loadValue f.size (ofBytes ((l.data.drop (t.addr % 64)).take n)))))
      ∧ (lockedCopy S h.core.val t = none → mirrorOff t = none →
        exec (.ld h f) s = aborts s h (.ld h f) p (regionCode S h.core.val a)))
    ∧ (∀ S, S = fetched s h (.st h f) p → Spells s h p (.st h f) → decodes (.st f) = true → LocalAccess S p a n .w true t →
      (∀ slot l, lockedCopy S h.core.val t = some (slot, l) → hasOwn l = true →
        exec (.st h f) s = completes h (dcPut S h.core.val slot (storeLine l t (toBytes n (sreg p f.rd).toNat)))))

/-- R178, R277: an AMO at CORE or CLUSTER scope on a line held M or E replaces the old bytes by what its operation code computes and
returns the old value; SYSTEM scope and other operation codes raise ILLEGAL, a misaligned CA ALIGN. -/
def Obligations.AtomicReturnsTheOldValue : Prop :=
  (∀ (s : State) (h : Hdr) (p : Prog) (f : FmtA) (a n : Nat) (S R : State), ExecutesQueue s h p → Spells s h p (.amo h f) →
     a = offset (sreg p f.ra) f.off → n = sizeBytes f.size → S = fetched s h (.amo h f) p →
     R = (if f.ord.getLsbD 1 then released S f.scope.toNat else S) →
     (decodes (.amo f) = true → ∀ t slot l old, LocalAccess S p a n .a true t → mirrorOff t = none → isMirror a = false →
       bufFind (Machine.core s h.core.val).sbuf t n = none →
       (f.ord.getLsbD 1 = true → releaseOk S (coreBefore s h (.amo h f) p) h.core.val f.scope.toNat = true) →
       f.scope.toNat ≤ 1 → t.host = false → allocates t = true → ownCopy R h.core.val t = some (slot, l) → hasOwn l = true → l.poison = false →
       old = (l.data.drop (t.addr % 64)).take n →
       exec (.amo h f) s = completes h (updProg
         (dcPut R h.core.val slot (storeLine l t (toBytes n
           (amoNew f.aop.toNat (8 * n) (ofBytes old) ((sreg p f.rb).toNat % 2 ^ (8 * n)) ((sreg p f.rd).toNat % 2 ^ (8 * n))))))
         h.core.val fun q => setSreg q f.rd (BitVec.ofNat 64 (ofBytes old))))
     ∧ (f.scope = 5 ∨ 10 ≤ f.aop.toNat ∨ (f.size ≠ 2 ∧ f.size ≠ 3) → exec (.amo h f) s = raises s h (.amo h f) p 1 0 0 0)
     ∧ (decodes (.amo f) = true → a < 2 ^ 52 → a % n ≠ 0 → exec (.amo h f) s = raises s h (.amo h f) p 3 0 a 0))
  ∧ (∀ w old b expect : Nat, 0 < w → old < 2 ^ w → b < 2 ^ w → expect < 2 ^ w →
     amoNew 0 w old b expect = b
     ∧ amoNew 1 w old b expect = (if old = expect then b else old)
     ∧ amoNew 2 w old b expect = (old + b) % 2 ^ w
     ∧ amoNew 3 w old b expect = old &&& b ∧ amoNew 4 w old b expect = old ||| b ∧ amoNew 5 w old b expect = old ^^^ b
     ∧ amoNew 6 w old b expect = (if (BitVec.ofNat w old).toInt ≤ (BitVec.ofNat w b).toInt then old else b)
     ∧ amoNew 7 w old b expect = (if (BitVec.ofNat w old).toInt ≤ (BitVec.ofNat w b).toInt then b else old)
     ∧ amoNew 8 w old b expect = min old b ∧ amoNew 9 w old b expect = max old b)


/-- R180, R181, R249, R251: PF of a line the core does not hold asks for it, and one whose CA fails its check is dropped; CACHE
zeroes, writes back or drops the core's copy of its line, or empties the instruction cache; DLOCK sets the lock mask; a FENCE
whose earlier writes are performed issues. -/
def Obligations.CacheOperationsAct : Prop :=
  ∀ (s : State) (h : Hdr) (p : Prog), ExecutesQueue s h p →
    (∀ (f : FmtM) (a : Nat) (S : State), Spells s h p (.pf h f) → decodes (.pf f) = true → a = offset (sreg p f.ra) f.off → S = fetched s h (.pf h f) p →
      (2 ^ 51 ≤ a → exec (.pf h f) s = becomes s h (atIssue p))
      ∧ (∀ e, a < 2 ^ 51 → segCheck S p.ctx a 1 (if f.hint = 1 then .w else .r) = .error e → exec (.pf h f) s = becomes s h (atIssue p))
      ∧ (∀ w t, a < 2 ^ 51 → segCheck S p.ctx a 1 (if f.hint = 1 then .w else .r) = .ok w → t = segTarget a w → isHole S t.addr = false →
          allocates t = true → ownCopy S h.core.val t = none → needsFullWb S h.core.val a = false →
          ((Machine.core S h.core.val).fills.filter Fill.prefetch).length < 4 →
          exec (.pf h f) s = completes h (requestLine S h.core.val (setOf a) t (decide (f.hint = 1)) false true)))
    ∧ (∀ (f : FmtM) (a : Nat) (t : Target) (slot : Nat) (l : CLine), a = offset (sreg p f.ra) f.off → f.rd = 0 → f.rb = 0 → f.scope = 0 →
        f.ord = 0 → f.hint = 0 → f.size.toNat ≤ 4 → mirrorOff t = none →
        ((Machine.core s h.core.val).sbuf.any fun x => bufOverlaps x { t with addr := lineOf t * 64 } 64) = false →
        (∀ S, S = fetched s h (.cacheZl h f) p → Spells s h p (.cacheZl h f) → LocalAccess S p a 1 .w false t →
          seqHeld (noWait p) (a / 64 * 64) 64 true = false → allocates t = true →
          ownCopy S h.core.val t = some (slot, l) → hasOwn l = true →
          exec (.cacheZl h f) s
            = completes h (dcPut S h.core.val slot { l with st := .m, data := List.replicate 64 0, poison := false }))
        ∧ (∀ S, S = fetched s h (.cacheWb h f) p → Spells s h p (.cacheWb h f) → LocalAccess S p a 1 .r false t → ownCopy S h.core.val t = some (slot, l) →
          exec (.cacheWb h f) s = completes h (if isDirty l.st then writeBackLine S h.core.val slot l else S))
        ∧ (∀ S D, S = fetched s h (.cacheWbinv h f) p → Spells s h p (.cacheWbinv h f) → LocalAccess S p a 1 .r false t →
          ownCopy S h.core.val t = some (slot, l) → D = setDcache S h.core.val (mapDel (Machine.core S h.core.val).dcache slot) →
          exec (.cacheWbinv h f) s = completes h (if isDirty l.st then evictDirty D h.core.val l else D))
        ∧ (∀ S, S = fetched s h (.cacheInv h f) p → Spells s h p (.cacheInv h f) → LocalAccess S p a 1 .w false t → ownCopy S h.core.val t = some (slot, l) →
          exec (.cacheInv h f) s = completes h (setDcache S h.core.val (mapDel (Machine.core S h.core.val).dcache slot))))
    ∧ (∀ f : FmtM, f.rd = 0 → f.rb = 0 → f.scope = 0 → f.ord = 0 → f.hint = 0 → f.size.toNat ≤ 4 →
        Spells s h p (.cacheIinv h f) → exec (.cacheIinv h f) s
          = completes h (setCore s h.core.val { Machine.core s h.core.val with bundle := [.cacheIinv h f], prog := some (atIssue p), icache := [] }))
    ∧ (∀ f : FmtL, decodes (.dlock f) = true → Spells s h p (.dlock h f) → exec (.dlock h f) s = becomes s h { atIssue p with lockMask := f.imm.setWidth 4 })
    ∧ (∀ (f : FmtM) (S : State), Spells s h p (.fence h f) → decodes (.fence f) = true → S = fetched s h (.fence h f) p →
        (f.ord = 1 ∨ releaseOk S (coreBefore s h (.fence h f) p) h.core.val f.scope.toNat = true) →
        exec (.fence h f) s = completes h (if f.ord = 1 then S else released S f.scope.toNat))

/-- R179: a PLD whose reply has come writes it to RD; to a dead peer it gives 0 and sets DEADRD; a PST to a live peer is sent, and to
a dead one discarded with LOST set. -/
def Obligations.PeerAccessesComplete : Prop :=
  ∀ (s : State) (h : Hdr) (p : Prog) (f : FmtM) (a n : Nat), ExecutesQueue s h p → a = offset (sreg p f.ra) f.off → n = sizeBytes f.size →
    a < 2 ^ 52 → a % n = 0 →
    (Spells s h p (.pld h f) → decodes (.pld f) = true → ∀ S, S = fetched s h (.pld h f) p →
      (∀ v, p.reply = some (.data v false) →
        exec (.pld h f) s = completes h (updProg (countPeer S h.core.val n) h.core.val fun q => setSreg q f.rd (loadValue f.size v)))
      ∧ (p.reply = some .dead → exec (.pld h f) s = becomes s h { setSreg (atIssue p) f.rd 0 with deadrd := true })
      ∧ (p.reply = none → pldOut S h.core.val (noWait p) = false → peerAlive S ((sreg p f.rb).toNat % 256) = false →
          exec (.pld h f) s = becomes s h { setSreg (atIssue p) f.rd 0 with deadrd := true }))
    ∧ (Spells s h p (.pst h f) → decodes (.pst f) = true → ∀ S, S = (if f.ord = 1 then released (fetched s h (.pst h f) p) 5 else fetched s h (.pst h f) p) →
      (f.ord = 1 → releaseOk (fetched s h (.pst h f) p) (coreBefore s h (.pst h f) p) h.core.val 5 = true) →
      exec (.pst h f) s =
        if peerAlive S ((sreg p f.rb).toNat % 256) then
          completes h (countPeer (dtRequest S ((sreg p f.rb).toNat % 256) h.core.val p.task 0 .pst dtWRITE a
            (toBytes n (sreg p f.rd).toNat) false) h.core.val n)
        else completes h (updProg S h.core.val fun q => { q with lost := true }))

/-- R182: FTLD writes each entry it names with VALID as its checks give, CBLD each slot; the first that fails raises FMTLOAD after all
are written. -/
def Obligations.FormatLoadsWriteEveryEntry : Prop :=
  ∀ (s : State) (h : Hdr) (p : Prog) (f : FmtM) (a n : Nat) (S t : State) (bs : List Byte), Executes s h p →
    a = offset (sreg p f.ra) f.off → a < 2 ^ 52 → a % 8 = 0 → n = f.rb.toNat →
    (∀ g : Prog → Prog, Spells s h p (.ftld h f) → decodes (.ftld f) = true → S = fetched s h (.ftld h f) p → SpadGives S h.core.val p a (8 * n) bs t →
      g = (fun q => { q with fmt := (List.range n).foldl (fun m i => mapPut m (f.rd.toNat + i) (fmtLoaded (wordAt (wordsOf n bs) i))) q.fmt }) →
      exec (.ftld h f) s = match firstBad f.rd.toNat ((wordsOf n bs).map fmtLoadOk) with
        | none => completes h (updProg t h.core.val g)
        | some i => .next (settle (bundleFault (begun s h (.ftld h f) p) (updProg t h.core.val g) h.core.val p.pc.toNat (p.pc.toNat + 8) 0
            (.exc 7 0 a i))))
    ∧ (∀ g : Prog → Prog, Spells s h p (.cbld h f) → decodes (.cbld f) = true → S = fetched s h (.cbld h f) p → SpadGives S h.core.val p a (32 * n) bs t →
      g = (fun q => { q with cb := (List.range n).foldl (fun m i => mapPut m (f.rd.toNat + i)
        { valid := cbOk ((bs.drop (32 * i)).take 32), base := (((bs.drop (32 * i)).take 32).getD 16 0).getLsbD 0,
          bytes := ((bs.drop (32 * i)).take 32).take 16 }) q.cb }) →
      exec (.cbld h f) s = match firstBad f.rd.toNat ((List.range n).map fun i => cbOk ((bs.drop (32 * i)).take 32)) with
        | none => completes h (updProg t h.core.val g)
        | some i => .next (settle (bundleFault (begun s h (.cbld h f) p) (updProg t h.core.val g) h.core.val p.pc.toNat (p.pc.toNat + 8) 0
            (.exc 7 0 a i))))

/-! The sequencer: engines, credits, special registers, regions and tasks. -/

/-- R183: an ISSUE to a powered engine whose queue has room appends the 64 bytes of its own scratchpad, word PW replaced by RB where
PE is 1, with the formats, codebooks and rules as they stand; a misaligned RA raises ALIGN. R185, R189: the oldest operation of an
engine completes once it has run and no peer request of it is outstanding: it leaves the queue and what its completion adds follows.
R87: an Anvil operation that no earlier one of its bank precedes may complete before an older one of the other path.
R185: EWAIT issues once every operation of the engines it names has left its queue, and waits before. -/
def Obligations.EngineQueuesFillAndEmpty : Prop :=
  (∀ (s : State) (h : Hdr) (p : Prog) (f : FmtE) (off e : Nat) (S t : State) (bs : List Byte) (d : List Word), Executes s h p →
    Spells s h p (.issue h f) → decodes (.issue f) = true → off = (sreg p f.ra).toNat + 64 * f.off64.toNat → e = f.eng.toNat → S = fetched s h (.issue h f) p →
    ((sreg p f.ra).toNat % 64 = 0 → off + 64 ≤ spadSize → SpadGives S h.core.val p (spadBase h.core.val + off) 64 bs t →
      d = (if f.pe then (wordsOf 8 bs).set f.pw.toNat (sreg p f.rb) else wordsOf 8 bs) →
      (Machine.core t h.core.val).engOn.getLsbD e = true → prog? t h.core.val = some (atIssue p) → (queue p e).length < queueDepth e →
      (if p.injig then jigOp t h.core.val (noWait p) e d = true
        else bufHeld (coreBefore s h (.issue h f) p) (issueOp t h.core.val (noWait p) f d (atIssue p)) = false) →
      exec (.issue h f) s = completes h (updProg t h.core.val (enqueue t h.core.val (noWait p) f d)))
    ∧ ((sreg p f.ra).toNat % 64 ≠ 0 → exec (.issue h f) s = raises s h (.issue h f) p 3 0 (spadBase h.core.val + (sreg p f.ra).toNat) 0))
  ∧ (∀ (s : State) (k : CoreIx) (e : Fin 6) (p : Prog) (op : EngOp) (rest : List EngOp), prog? s k.val = some p → queue p e.val = op :: rest →
     engineUp s k.val e.val = true → opFinished s k.val e.val op = true →
     exec (.engineOpComplete k (.oldest e)) s = after (leaveDone (completeOp (setProg s k.val (setQueue p e.val rest)) k.val e.val op) k.val))
  ∧ (∀ (s : State) (k : CoreIx) (p : Prog) (op : EngOp) (n : Nat), prog? s k.val = some p → overtaking (queue p 0) n = some op →
     engineUp s k.val 0 = true → opFinished s k.val 0 op = true →
     exec (.engineOpComplete k (.overtaker n)) s
       = after (leaveDone (completeOp (setProg s k.val (setQueue p 0 ((queue p 0).filter fun x => x.ord ≠ op.ord))) k.val 0 op) k.val))
  ∧ (∀ (s : State) (h : Hdr) (p : Prog) (f : FmtS), Executes s h p → Spells s h p (.ewait h f) → decodes (.ewait f) = true →
    ((∀ e, e < 6 → f.rd.toNat.testBit e = true → queue p e = []) → exec (.ewait h f) s = becomes s h (atIssue p))
    ∧ ((∃ e, e < 6 ∧ f.rd.toNat.testBit e = true ∧ queue p e ≠ []) → exec (.ewait h f) s = waits s h (.ewait h f) (.ewait f) p))

/-- R190: CWAIT takes N credits from a counter that holds as many and waits on any other, CTEST tests, CRD reads and CSET writes a
counter; one that would exceed 2^32 - 1 saturates there and sets COVF; R191: CSIG adds N to the counter of the earliest task of the
context at the target core, and sets SIGDROP where there is none. -/
def Obligations.CreditsAreCounted : Prop :=
  (∀ (s : State) (h : Hdr) (p : Prog) (f : FmtC),
     (ExecutesQueue s h p → Spells s h p (.cwait h f) → decodes (.cwait f) = true →
       ((credit p f.cq.toNat).toNat < f.n.toNat → exec (.cwait h f) s = waits s h (.cwait h f) (.cwait f) p)
       ∧ (f.n.toNat ≤ (credit p f.cq.toNat).toNat → p.blocked = false →
           exec (.cwait h f) s = becomes s h (setCredit (atIssue p) f.cq.toNat (BitVec.ofNat 32 ((credit p f.cq.toNat).toNat - f.n.toNat)))))
     ∧ (Executes s h p → Spells s h p (.ctest h f) → decodes (.ctest f) = true →
         exec (.ctest h f) s = becomes s h (setPreg (atIssue p) (f.rd.setWidth 4) (decide (f.n.toNat ≤ (credit p f.cq.toNat).toNat))))
     ∧ (Executes s h p → Spells s h p (.crd h f) → decodes (.crd f) = true →
         exec (.crd h f) s = becomes s h (setSreg (atIssue p) f.rd (BitVec.ofNat 64 (credit p f.cq.toNat).toNat)))
     ∧ (Executes s h p → Spells s h p (.cset h f) → decodes (.cset f) = true →
         exec (.cset h f) s = becomes s h (setCredit (atIssue p) f.cq.toNat (BitVec.ofNat 32 (sreg p f.rb).toNat)))
     ∧ (ExecutesQueue s h p → Spells s h p (.csig h f) → decodes (.csig f) = true → ∀ S R k, S = fetched s h (.csig h f) p → R = released S f.scope.toNat → k = (sreg p f.rb).toNat % 65536 →
       (scopeHolds f.scope.toNat h.core.val k = false → exec (.csig h f) s = raises s h (.csig h f) p 1 0 0 0)
       ∧ (scopeHolds f.scope.toNat h.core.val k = true → releaseOk S (coreBefore s h (.csig h f) p) h.core.val f.scope.toNat = true →
           ((coreEnabled R k = false ∨ coreFenced R k = true ∨ signalTask R p.ctx k = none) →
             exec (.csig h f) s = completes h (updProg R h.core.val fun q => { q with sigdrop := true }))
           ∧ (∀ t, coreEnabled R k = true → coreFenced R k = false → signalTask R p.ctx k = some t →
               exec (.csig h f) s = completes h
                 (if ((prog? R k).map Prog.task) = some t.id then updProg R k fun q => addCredit q f.cq.toNat f.n.toNat
                  else if (mapFind? t.saved k).isSome then updSaved R t.id k fun q => addCredit q f.cq.toNat f.n.toNat
                  else updTask R t.id fun t => { t with early := t.early ++ [(k, f.cq.toNat, f.n.toNat)] })))))
  ∧ (∀ (p : Prog) (i n : Nat),
     ((credit p i).toNat + n < 2 ^ 32 → addCredit p i n = setCredit p i (BitVec.ofNat 32 ((credit p i).toNat + n)))
     ∧ (2 ^ 32 ≤ (credit p i).toNat + n → credit (addCredit p i n) i = BitVec.ofNat 32 (2 ^ 32 - 1) ∧ (addCredit p i n).covf = true))


/-- R163: what MFS reads under each number; an MTS clears the flags of CSTAT whose bit is 0 and writes EHND as a multiple of 8; an
MTS of any other number raises ILLEGAL. R192, R197: PREHEAT asks for engines, MARK writes its register and traces, WAIT idles. -/
def Obligations.SpecialRegistersReadAndWrite : Prop :=
  ∀ (s : State) (h : Hdr) (p : Prog), Executes s h p →
    (∀ (f : FmtS) (S : State), Spells s h p (.mfs h f) → f.ra = 0 → f.rest = 0 → S = fetched s h (.mfs h f) p →
      ∀ e ∈ ([(0x001, BitVec.ofNat 64 p.ctx.toNat), (0x002, BitVec.ofNat 64 p.taskId.toNat), (0x010, s.stc),
          (0x011, s.cclk - mapGet (fun _ => 0) s.cclkLost (h.core.val / 8)),
          (0x020, BitVec.ofNat 64 (128 * boolNat p.inexc + 64 * boolNat p.injig + 32 * boolNat p.armed + 16 * boolNat p.engf
            + 8 * boolNat p.covf + 4 * boolNat p.sigdrop + 2 * boolNat p.deadrd + boolNat p.lost)),
          (0x021, BitVec.ofNat 64 p.numsum.toNat), (0x022, p.poisonCnt), (0x023, p.missCnt), (0x030, BitVec.ofNat 64 p.ehnd.toNat),
          (0x031, BitVec.ofNat 64 p.epc.toNat), (0x032, BitVec.ofNat 64 p.ecode.toNat), (0x033, p.einfo),
          (0x034, BitVec.ofNat 64 p.eaddr.toNat),
          (0x040, BitVec.ofNat 64 (p.jid.toNat * 2 ^ 48 + p.jcode.toNat * 2 ^ 40 + p.jorig.toNat * 2 ^ 32 + p.slips.toNat)),
          (0x050, BitVec.ofNat 64 p.mark.toNat), (0x060, BitVec.ofNat 64 (Machine.core s h.core.val).engOn.toNat)] : List (Nat × Word)),
        f.num.toNat = e.1 → exec (.mfs h f) s = becomes s h (setSreg (atIssue p) f.rd e.2))
    ∧ (∀ f : FmtS, f.ra = 0 → f.rest = 0 → f.num = 0 → Spells s h p (.mfs h f) → exec (.mfs h f) s = becomes s h (setSreg (atIssue p) f.rd (coreIdWord h.core.val)))
    ∧ (∀ f : FmtS, f.rd = 0 → f.rest = 0 → f.num = 0x30 →
        Spells s h p (.mts h f) → exec (.mts h f) s = becomes s h { atIssue p with ehnd := BitVec.ofNat 52 ((sreg p f.ra).toNat / 8 * 8) })
    ∧ (∀ f : FmtS, f.rd = 0 → f.rest = 0 → f.num = 0x20 → (sreg p f.ra).getLsbD 4 = true →
        Spells s h p (.mts h f) → exec (.mts h f) s = becomes s h { atIssue p with
          covf := p.covf && (sreg p f.ra).getLsbD 3, sigdrop := p.sigdrop && (sreg p f.ra).getLsbD 2,
          deadrd := p.deadrd && (sreg p f.ra).getLsbD 1, lost := p.lost && (sreg p f.ra).getLsbD 0 })
    ∧ (∀ f : FmtS, f.rd = 0 → f.rest = 0 → f.num = 0x20 → p.pend = [] → (sreg p f.ra).toNat % 32 = 0 →
        Spells s h p (.mts h f) → exec (.mts h f) s = becomes s h { atIssue p with
          covf := false, sigdrop := false, deadrd := false, lost := false, engf := false, faultedEng := [] })
    ∧ (∀ f : FmtS, f.num ≠ 0x20 → f.num ≠ 0x30 → Spells s h p (.mts h f) → exec (.mts h f) s = raises s h (.mts h f) p 1 0 0 0)
    ∧ (∀ f : FmtS, decodes (.preheat f) = true →
        Spells s h p (.preheat h f) → exec (.preheat h f) s = completes h (preheat (fetched s h (.preheat h f) p) (sreg p f.ra).toNat (f.rest.toNat / 2 ^ 15)
          (f.rest.toNat / 2 ^ 9 % 64)))
    ∧ (∀ (f : FmtL) (S : State), Spells s h p (.mark h f) → decodes (.mark f) = true → S = fetched s h (.mark h f) p →
        exec (.mark h f) s = completes h (seqMark S h.core.val (noWait p) f)
        ∧ (f.flag = false → tracePass S 3 p.ctx.toNat = false →
            exec (.mark h f) s = becomes s h { atIssue p with mark := BitVec.ofNat 33 f.imm.toNat }))
    ∧ (∀ f : FmtL, decodes (.waitI f) = true →
        Spells s h p (.waitI h f) → exec (.waitI h f) s = becomes s h { atIssue p with
          waitTo := some (s.cclk - mapGet (fun _ => 0) s.cclkLost (h.core.val / 8) + BitVec.ofNat 64 f.imm.toNat) })

/-- R193-R195, R197: a STRIKE that has been granted issues, and one that has not stands on its line with the number of cores it waits
for; JIG.OPEN with its lines pinned opens its region at once, or with SW arms the core on its line; JIG.SEAL closes the region and
outside one raises ILLEGAL; BRK raises BREAK with the low 16 bits of its immediate. R171, R196: an instruction that R171 marks No for
regions, and a FENCE wider than CORE, aborts the region it executes in with NONJIG. -/
def Obligations.RegionsOpenAndClose : Prop :=
  ∀ (s : State) (h : Hdr) (p : Prog),
    (ExecutesQueue s h p → ∀ (f : FmtS) (S : State) (l : Nat), Spells s h p (.strike h f) → decodes (.strike f) = true → S = fetched s h (.strike h f) p →
      physLine S (noWait p) (f.rd.toNat / 4) = some l →
      (p.granted = true → exec (.strike h f) s = becomes s h (atIssue p))
      ∧ (∀ T, p.granted = false → T = setCore s h.core.val { coreBefore s h (.strike h f) p with ncLine := none } →
          ((strikeLine S l).strikers.any fun k => k.1 = h.core.val) = false →
          exec (.strike h f) s = waitsAt h (.strike f) (setStrikeLine T l { strikeLine S l with
            strikers := (strikeLine S l).strikers ++ [(h.core.val, (sreg p f.ra).toNat)] })))
    ∧ (ExecutesQueue s h p → ∀ (f : FmtL) (S T : State) (hi : Nat), Spells s h p (.jigOpen h f) → decodes (.jigOpen f) = true → S = fetched s h (.jigOpen h f) p →
      (∀ e, e < 6 → queue p e = []) → (Machine.core s h.core.val).sbuf = [] → (p.pend = [] ∨ p.inexc = true) →
      hi = (p.pc.toNat + 8 + 64 * jLen f + 63) / 64 * 64 →
      icPin h.core.val (noWait p) ((List.range (hi / 64 - (p.pc.toNat + 8) / 64)).map fun i =>
          icKey p.ctx ((p.pc.toNat + 8) / 64 * 64 + 64 * i)) ((p.pc.toNat + 8) / 64 * 64) (hi / 64 - (p.pc.toNat + 8) / 64) S = .ok () T →
      ∀ R line, R = updProg (setReg T (bCore h.core.val) 0x2C0 0) h.core.val (fun q => { q with
          jid := jJid f, slips := 0, armed := f.flag,
          jig := some { lo := p.pc.toNat + 8, hi, line, lead := h.core.val, parts := [h.core.val], slip := none, cycle := 0, last := none, fmt0 := q.fmt,
                        cb0 := q.cb, curves0 := q.curves, rules0 := q.rules } }) →
      (f.flag = false → line = none → exec (.jigOpen h f) s = completes h (startRegion R h.core.val h.core.val [h.core.val]))
      ∧ (∀ l, f.flag = true → physLine S (noWait p) (jLine f) = some l → line = some l →
          exec (.jigOpen h f) s = completes h (coreRing
            (setStrikeLine R l { strikeLine R l with armed := (strikeLine R l).armed ++ [h.core.val] }) h.core.val 0x0A p.ctx.toNat
            (place 3 0 l ||| place 31 16 (jJid f).toNat))))
    ∧ (Executes s h p → ∀ (f : FmtL) (S : State), Spells s h p (.jigSeal h f) → decodes (.jigSeal f) = true → S = fetched s h (.jigSeal h f) p →
      exec (.jigSeal h f) s =
        if p.injig then completes h (sealRegion S h.core.val (noWait p)) else raises s h (.jigSeal h f) p 1 0 0 0)
    ∧ (ExecutesQueue s h p → ∀ f : FmtL, Spells s h p (.brk h f) → decodes (.brk f) = true →
      exec (.brk h f) s = raises s h (.brk h f) p 0x0A 0 0 (f.imm.toNat % 65536))
    ∧ (Executes s h p → ∀ (i : Instr) (o : SOp), view i = some (h, o) → p.injig = true → Spells s h p i → decodes o = true → notInJig o = true →
      exec i s = aborts s h i p 2)

/-- R198: YIELD with idle engines offers the core where another task is ready and a save slot free, and END with idle engines and
performed writes ends the task's part at the core; either waits for its engines before. -/
def Obligations.YieldAndEndGiveUpTheCore : Prop :=
  ∀ (s : State) (h : Hdr) (p : Prog), ExecutesQueue s h p →
    (∀ (f : FmtL) (S : State), Spells s h p (.yieldI h f) → decodes (.yieldI f) = true → S = fetched s h (.yieldI h f) p →
      ((∀ e, e < 6 → queue p e = []) →
        exec (.yieldI h f) s = becomes s h { atIssue p with
          yielding := if otherReady S h.core.val p.task && (freeSlot S p.ctx).isSome then true else p.yielding })
      ∧ ((∃ e, e < 6 ∧ queue p e ≠ []) → exec (.yieldI h f) s = waits s h (.yieldI h f) (.yieldI f) p))
    ∧ (∀ (f : FmtL) (S : State), Spells s h p (.endTask h f) → decodes (.endTask f) = true → S = fetched s h (.endTask h f) p →
      ((∀ e, e < 6 → queue p e = []) → releaseOk S (coreBefore s h (.endTask h f) p) h.core.val 5 = true → p.pend = [] →
        exec (.endTask h f) s = completes h (leaveRest (released S 5) h.core.val 0))
      ∧ ((∃ e, e < 6 ∧ queue p e ≠ []) → exec (.endTask h f) s = waits s h (.endTask h f) (.endTask f) p))

/-- R199: an exception outside a region, here a BREAK, with a handler that does not run: EPC, ECODE and EINFO are as the exception
defines, INEXC is 1 and PC is EHND, and no other part of the program state changes but the sequencer's own marks of waiting. Without
a handler, or while it runs, the task leaves the core, where its engines have nothing left. -/
def Obligations.ExceptionEntersTheHandler : Prop :=
  ∀ (s : State) (h : Hdr) (p : Prog) (f : FmtL), ExecutesQueue s h p → Spells s h p (.brk h f) → decodes (.brk f) = true → s.raised = [] →
    mapWf (fun _ => coreInit) s.cores = true →
    (p.ehnd ≠ 0 → p.inexc = false → ∃ t, exec (.brk h f) s = .next t
      ∧ prog? t h.core.val = some { noWait p with
          epc := BitVec.ofNat 52 (p.pc.toNat + 8), ecode := 0x0A, einfo := BitVec.ofNat 64 (f.imm.toNat % 65536), inexc := true, pc := p.ehnd,
          blocked := false, granted := false, reply := none, yielding := false }
      ∧ t.mem = s.mem ∧ ∀ k, k ≠ h.core.val → Machine.core t k = Machine.core s k)
    ∧ ((p.ehnd = 0 ∨ p.inexc = true) → (∀ e, e < 6 → queue p e = []) → ∃ t, exec (.brk h f) s = .next t ∧ prog? t h.core.val = none)

/-- R161: s0 reads 0 and p0 reads 1, whatever was written to them, and a write of another register is read back and changes no other. -/
def Obligations.RegisterZeroIsConstant : Prop :=
  ∀ (p : Prog), (∀ w, sreg (setSreg p 0 w) = sreg p ∧ sreg p 0 = 0) ∧ (∀ v, preg (setPreg p 0 v) = preg p ∧ preg p 0 = true)
    ∧ (mapWf (fun _ => (0 : Word)) p.s = true → ∀ n m w, n ≠ 0 → sreg (setSreg p n w) m = if m = n then w else sreg p m)
    ∧ (mapWf (fun _ => false) p.p = true → ∀ n m v, n ≠ 0 → preg (setPreg p n v) m = if m = n then v else preg p m)

/-- The frame of a bundle whose only effect is on its program (`issued`): every other core, all of memory and its poison marks, every
task and, with no fault event raised, every register but the endpoint's event registers stay as they are. -/
def Obligations.RegisterInstructionFrame : Prop :=
  ∀ (s : State) (h : Hdr) (q : Prog), s.raised = [] → ∃ t, becomes s h q = .next t
    ∧ prog? t h.core.val = some (afterBundle q)
    ∧ (∀ k, k ≠ h.core.val → Machine.core t k = Machine.core s k)
    ∧ (∀ a, memByte t a = memByte s a) ∧ (∀ k, chunkPoison t k = chunkPoison s k) ∧ t.tasks = s.tasks ∧ t.gctx = s.gctx
    ∧ t.clusters = s.clusters ∧ t.txns = s.txns ∧ t.keys = s.keys ∧ t.pending = s.pending ∧ t.raised = []
    ∧ (mapWf regDefault s.regs = true → ∀ b o, rk b o ≠ rk .ep 0x100 → rk b o ≠ rk .ep 0x108 → reg t b o = reg s b o)

/-! The engines. -/

/-- R183-R186, R57: a command of an engine performs the front operation of its opcode: it has run where its work ends, it waits where
its work meets a wait or a park, its fault is recorded where it is rejected, and inside a region a breach of the contract aborts the
region. R103, R186, R199: an opcode that the engine lacks is rejected: the fault is recorded, its engine takes no more operations, its
queue keeps only what has run, and CSTAT.ENGF is 1. -/
def Obligations.EngineRunsTheFrontOperation : Prop :=
  ∀ (slips : List SlipObs) (row : EngineRow), row ∈ engineRows slips → ∀ (s : State) (k : CoreIx) (p : Prog) (op : EngOp),
    (EngineReady s k.val row.eng row.code p op →
      (∀ t, row.body k.val p op s = .ok () t → exec (row.cmd k) s = after (ranTo t p k.val row.eng op))
      ∧ (∀ t, row.body k.val p op s = .error .wait t → exec (row.cmd k) s = after t)
      ∧ (∀ t, row.body k.val p op s = .error .park t → exec (row.cmd k) s = after (parkOp t k.val row.eng op))
      ∧ (∀ ecode sub ea d t, row.body k.val p op s = .error (.exc ecode sub ea d) t →
          exec (row.cmd k) s = after (engineFault t k.val
            { eng := row.eng, opcode := row.code, ecode, sub, eaddr := ea, detail := op.ord % 2 ^ 32 }))
      ∧ (∀ code t, row.body k.val p op s = .error (.abort code) t → exec (row.cmd k) s = after (regionBreak t k.val row.eng op code)))
    ∧ (EngineReady s k.val row.eng (opcodeOf op) p op → opcodeOf op ∉ engineOpcodes row.eng → p.injig = false → p.leaving = none → s.raised = [] →
      ∃ t q, exec (row.cmd k) s = .next t ∧ prog? t k.val = some q ∧ q.engf = true ∧ row.eng ∈ q.faultedEng
        ∧ (∀ o ∈ queue q row.eng, o.ran = true) ∧ q.pend.length = p.pend.length + 1 ∧ q.pc = p.pc ∧ t.mem = s.mem)

/-- An engine's command runs its operation to its end, leaves the program's counter and scalar registers as they were, and what it
leaves satisfies `Q`. -/
def RunsOp (s : State) (k : CoreIx) (e : Nat) (p : Prog) (op : EngOp) (i : Instr) (Q : State → Prog → Prop) : Prop :=
  ∃ t q, exec i s = after (ranTo t p k.val e op) ∧ prog? t k.val = some q ∧ q.pc = p.pc ∧ q.s = p.s ∧ Q t q

/-- R79-R93: an Anvil operation whose descriptor is accepted, whose bank is of its mode, and whose rows lie in a scratchpad that its
context may use, runs: MMA and the loads leave memory as it was, RD with CLR and CLR leave the bank empty. -/
def Obligations.AnvilOperationsComplete : Prop :=
  ∀ (s : State) (k : CoreIx) (p : Prog) (op : EngOp) (d : List Word) (w0 : Word) (n m : Nat), OpenSpad s k.val p.ctx → d = op.desc →
    w0 = wordAt d 0 →
    (∀ (slips : List SlipObs) (fa fb : Fmt) (kk ba bb : Nat) (b0 : Bank) (ordered : Bool), EngineReady s k.val 0 1 p op →
      n = fld w0 15 8 → m = fld w0 7 0 → kk = fld w0 31 16 →
      ba = fld w0 45 44 → bb = fld w0 43 42 → fa = fmtEntry op.fmts (fld w0 55 51) → fb = fmtEntry op.fmts (fld w0 50 46) →
      ordered = (decide (fld w0 55 51 = fld w0 50 46) && (decide (fld w0 55 51 = 1) || decide (fld w0 55 51 = 2))) →
      b0 = (if flag w0 38 then bankEmpty else bankOf p (fld w0 39 39)) → mmaWords d = true → fmtUsable fa op.cbs = true →
      fmtUsable fb op.cbs = true →
      (if ordered then ba = 0 ∧ bb = 0 ∧ (b0.mode = .empty ∨ b0.mode = .ordered)
        else exactFmt fa = true ∧ exactFmt fb = true ∧ kk % min (blkSz ba) (blkSz bb) = 0 ∧ (b0.mode = .empty ∨ b0.mode = .exact)
          ∧ ∀ q ∈ bankIx m n, (bankElem b0 q.1 q.2).acc.count + kk / min (blkSz ba) (blkSz bb) ≤ accLimit) →
      RowsFit (fld (wordAt d 1) 63 32) (fld (wordAt d 1) 31 0) (rowBytes fa.width (if flag w0 37 then m else kk)) (if flag w0 37 then kk else m) →
      flag w0 35 = false →
      RowsFit (fld (wordAt d 2) 63 32) (fld (wordAt d 2) 31 0) (rowBytes fb.width (if flag w0 36 then kk else n)) (if flag w0 36 then n else kk) →
      (ba ≠ 0 → RowsFit (fld (wordAt d 3) 63 32) (fld (wordAt d 4) 63 32) (kScales ba kk) m) →
      (bb ≠ 0 → RowsFit (fld (wordAt d 3) 31 0) (fld (wordAt d 4) 31 0) n (kScales bb kk)) →
      RunsOp s k 0 p op (.anvMma k slips) fun t q => t.mem = s.mem ∧ q.queues = p.queues
        ∧ (bankOf q (fld w0 39 39)).mode = if ordered then .ordered else .exact)
    ∧ (∀ (f : Fmt) (qm qb : Nat), EngineReady s k.val 0 2 p op → n = fld (wordAt d 3) 15 8 → m = fld (wordAt d 3) 7 0 →
      f = fmtEntry op.fmts (fld w0 55 51) → qm = fld w0 47 46 →
      qb = (if flag w0 45 then 32 else 16) → rdWords d = true → oscaleOk w0 = true →
      (if flag w0 50 then (bankOf p (fld w0 44 44)).mode ≠ .ordered ∧ fld w0 55 51 = 0 ∧ fld w0 49 45 = 0 ∧ fld w0 42 42 = 0 ∧ fld w0 31 0 = 0
        else f.valid = true ∧ f.isCb = false ∧ f.isE8m0 = false ∧ (qm = 0 ∨ (f.width ≤ 8 ∧ n % qb = 0))) →
      RowsFit (fld (wordAt d 1) 63 32) (fld (wordAt d 1) 31 0) (if flag w0 50 then 32 * n else rowBytes f.width n) m →
      (qm ≠ 0 → RowsFit (fld (wordAt d 2) 63 32) (fld (wordAt d 2) 31 0) (n / qb) m) →
      RunsOp s k 0 p op (.anvRd k) fun _ q => if flag w0 43 then mapWf (fun _ => bankEmpty) p.banks = true → bankOf q (fld w0 44 44) = bankEmpty
        else q.banks = p.banks)
    ∧ (∀ (add : Bool) (b : Bank) (md : BankMode), EngineReady s k.val 0 (if add then 4 else 3) p op → n = fld (wordAt d 3) 15 8 →
      m = fld (wordAt d 3) 7 0 → b = bankOf p (fld w0 44 44) →
      md = (if flag w0 50 then .exact else .ordered) → rdWords d = true → oscaleOk w0 = true → fld w0 55 51 = 0 → fld w0 49 46 = 0 →
      fld w0 43 42 = 0 → wordAt d 2 = 0 → (add = true → flag w0 50 = true) → (b.mode = .empty ∨ b.mode = md) →
      RowsFit (fld (wordAt d 1) 63 32) (fld (wordAt d 1) 31 0) ((if flag w0 50 then 32 else 4) * n) m →
      (flag w0 50 = true → ∀ i j, i < m → j < n → ∃ a, accOfBytes (memBytes s (spadBase k.val + fld (wordAt d 1) 63 32
        + i * fld (wordAt d 1) 31 0 + 32 * j) 32) = some a ∧ (add = true → (bankElem b i j).acc.count + a.count ≤ accLimit)) →
      RunsOp s k 0 p op (if add then .anvAddacc k else .anvLdacc k) fun t q => t.mem = s.mem ∧ (bankOf q (fld w0 44 44)).mode = md)
    ∧ (EngineReady s k.val 0 5 p op → w0 &&& ~~~(fieldMask 63 56 ||| fieldMask 44 44) = 0 → (∀ w ∈ d.drop 1, w = 0) →
       exec (.anvClr k) s = after (ranTo (updProg s k.val fun q => setBank q (fld w0 44 44) bankEmpty) p k.val 0 op))

/-- R145-R160: an operation of SEL whose descriptor is accepted, whose streams are open and whose areas lie in a scratchpad that its
context may use, runs, and changes no stream that it does not name; SOPEN opens an empty stream, a stream that SPUSHL pushes keeps within
its capacity, and SREAD writes the number of entries and with RELEASE closes the stream; the others write no memory, but SBEST its states.
R100: CLD takes the table at its address into a curve slot, valid where its contents are. -/
def Obligations.SelectionOperationsComplete : Prop :=
  ∀ (s : State) (k : CoreIx) (p : Prog) (op : EngOp) (d : List Word), OpenSpad s k.val p.ctx → d = op.desc →
    (EngineReady s k.val 3 0x60 p op → selOk 0x60 d = true →
       exec (.selSopen k) s = after (ranTo (updProg s k.val fun q => setStream q (qStream d)
         { isOpen := true, inJig := q.injig, k := qCount d, min := qDir d, entries := [] }) p k.val 3 op))
    ∧ (EngineReady s k.val 3 0x61 p op → selOk 0x61 d = true → streamsOpen p (qStream d) (qNrows d) = true →
      RowsFit (qX d) (qXs d) (rowBytes (fmtEntry [] (qSfmt d)).width (qCount d)) (qNrows d) →
      (qIdarr d = true → qId d + 8 * qNrows d * qCount d ≤ spadSize) →
      RunsOp s k 3 p op (.selSpush k) fun t q => t.mem = s.mem
        ∧ (mapWf (fun _ => streamClosed) p.streams = true → ∀ x, (x < qStream d ∨ qStream d + qNrows d ≤ x) → streamOf q x = streamOf p x))
    ∧ (EngineReady s k.val 3 0x62 p op → selOk 0x62 d = true → streamsOpen p (qStream d) 1 = true → qX d + 16 * qCount d ≤ spadSize →
      RunsOp s k 3 p op (.selSpushl k) fun t q => t.mem = s.mem
        ∧ (mapWf (fun _ => streamClosed) p.streams = true → ∀ x, x ≠ qStream d → streamOf q x = streamOf p x)
        ∧ ((streamOf p (qStream d)).entries.length ≤ (streamOf p (qStream d)).k →
            (streamOf q (qStream d)).entries.length ≤ (streamOf p (qStream d)).k))
    ∧ (EngineReady s k.val 3 0x63 p op → selOk 0x63 d = true → streamsOpen p (qStream d) 1 = true →
      qX d + 16 * (streamOf p (qStream d)).entries.length ≤ spadSize → qId d + 8 ≤ spadSize →
      RunsOp s k 3 p op (.selSread k) fun t q =>
        memBytes t (spadBase k.val + qId d) 8 = toBytes 8 (streamOf p (qStream d)).entries.length
        ∧ if qRelease d then mapWf (fun _ => streamClosed) p.streams = true → ∀ x,
            streamOf q x = if x = qStream d then streamClosed else streamOf p x
          else q.streams = p.streams)
    ∧ (EngineReady s k.val 3 0x64 p op → selOk 0x64 d = true → streamsOpen p (qStream d) (qNrows d) = true →
      RowsFit (qX d) (qXs d) (rowBytes (qPqBits d) (qPqM d)) (qCount d) → (qIdarr d = true → qId d + 8 * qCount d ≤ spadSize) →
      RowsFit (qT d) (qTs d) (qPqM d * 2 ^ qPqBits d * (if qDfmt d = 0 then 1 else 2)) (qNrows d) →
      RunsOp s k 3 p op (.selPqscan k) fun t q => t.mem = s.mem
        ∧ (mapWf (fun _ => streamClosed) p.streams = true → ∀ x, (x < qStream d ∨ qStream d + qNrows d ≤ x) → streamOf q x = streamOf p x))
    ∧ (EngineReady s k.val 3 0x65 p op → selOk 0x65 d = true →
      RowsFit (qX d) (qXs d) (rowBytes (fmtEntry [] (qSfmt d)).width (qCount d)) (qRows d) →
      (qIdarr d = true → qId d + 8 * qRows d * qCount d ≤ spadSize) → RowsFit (qT d) 16 16 (qRows d) →
      RunsOp s k 3 p op (.selSbest k) fun _ q => q.streams = p.streams)
    ∧ (∀ (a : Nat) (bs : List Byte), EngineReady s k.val 1 0x3F p op → a = fld (wordAt d 1) 63 32 →
      wordAt d 0 &&& ~~~(fieldMask 63 56 ||| fieldMask 29 27) = 0 →
      fld (wordAt d 1) 31 0 = 0 → a % 64 = 0 → (∀ w ∈ d.drop 2, w = 0) → a + 1088 ≤ spadSize → bs = memBytes s (spadBase k.val + a) 1088 →
      RunsOp s k 1 p op (.chsCld k) fun t q => t.mem = s.mem ∧ (curveOf q (fld (wordAt d 0) 29 27)).valid = curveOk bs
        ∧ (curveOf q (fld (wordAt d 0) 29 27)).bytes = bs)

/-- R187, R188: a COPY or FILL whose rows lie in memory that its context may access runs, and for one row between scratchpads the
destination takes the source's bytes, or the pattern repeated; a PCOPY from local memory sends its rows to a live peer and is lost at a
dead one; one from a peer asks for a row, writes it once all of it has come, and takes zeros from a dead peer; NOTE moves nothing. -/
def Obligations.TransferOperationsComplete : Prop :=
  ∀ (s : State) (k : CoreIx) (u : Fin 2) (p : Prog) (op : EngOp) (d : List Word), Quiet s → FreshOp p (4 + u.val) op → op.sent = false →
    d = op.desc →
    (∀ slips, EngineReady s k.val (4 + u.val) 0x80 p op → xfrOk k.val 0x80 d = true →
      (∀ i, i < xRows d → Reach s p.ctx (xSrcCa d i) (xLen d) ∧ Reach s p.ctx (xDstCa d i) (xLen d)) →
      RunsOp s k (4 + u.val) p op (.xfrCopy k u slips) fun t _ => xDims d = 0 → InSpad (xSrc d) (xLen d) → InSpad (xDst d) (xLen d) →
        memBytes t (xDst d) (xLen d) = memBytes s (xSrc d) (xLen d))
    ∧ (EngineReady s k.val (4 + u.val) 0x81 p op → xfrOk k.val 0x81 d = true →
      (∀ i, i < xRows d → Reach s p.ctx (xDstCa d i) (xLen d)) →
      RunsOp s k (4 + u.val) p op (.xfrFill k u) fun t _ => xDims d = 0 → InSpad (xDst d) (xLen d) →
        ∀ i, i < xLen d → memByte t (xDst d + i) = (toBytes 8 (wordAt d 7).toNat).getD (i % 8) 0)
    ∧ (EngineReady s k.val (4 + u.val) 0x82 p op → xfrOk k.val 0x82 d = true → xPside d = true →
      (∀ i, i < xRows d → Reach s p.ctx (xSrcCa d i) (xLen d)) →
      RunsOp s k (4 + u.val) p op (.xfrPcopy k u) fun t q => if peerAlive s (xPkg d) then s.dtOut.length < t.dtOut.length else q.lost = true)
    ∧ (EngineReady s k.val (4 + u.val) 0x82 p op → xfrOk k.val 0x82 d = true → xPside d = false →
      (op.noted = false → peerAlive s (xPkg d) = true →
        ∃ t, exec (.xfrPcopy k u) s = after t ∧ s.dtOut.length < t.dtOut.length ∧ t.mem = s.mem)
      ∧ (op.noted = false → peerAlive s (xPkg d) = false → (∀ i, i < xRows d → Reach s p.ctx (xDstCa d i) (xLen d)) →
        RunsOp s k (4 + u.val) p op (.xfrPcopy k u) fun t q => q.deadrd = true ∧ t.dtOut = s.dtOut
          ∧ (xRows d = 1 → InSpad (xDstCa d 0) (xLen d) → memBytes t (xDstCa d 0) (xLen d) = List.replicate (xLen d) 0))
      ∧ (∀ r, op.noted = true → xRows d = 1 → r = joinPieces op (dtPieces (xSrcCa d 0) (xLen d)) → r.bytes.length = xLen d →
        Reach s p.ctx (xDstCa d 0) (xLen d) →
        RunsOp s k (4 + u.val) p op (.xfrPcopy k u) fun t _ => InSpad (xDstCa d 0) (xLen d) → memBytes t (xDstCa d 0) (xLen d) = r.bytes))
    ∧ (EngineReady s k.val (4 + u.val) 0x83 p op → xfrOk k.val 0x83 d = true →
       exec (.xfrNote k u) s = after (ranTo s p k.val (4 + u.val) op))

/-- A Tongs operation is about to start on the table `tb` of its slot. -/
def TableOp (s : State) (k : CoreIx) (code : Nat) (p : Prog) (op : EngOp) (tb : Nat × List Word) : Prop :=
  EngineReady s k.val 2 code p op ∧ OpenSpad s k.val p.ctx ∧ Quiet s ∧ FreshOp p 2 op ∧ oOk code op.desc = true
    ∧ tableOf s p (oSlot op.desc) = some tb ∧ fmtUsable (rowFmt op tb.2) op.cbs = true ∧ descFmtOk tb.2 (rowFmt op tb.2) = true

/-- Every row of a table, and its default row if it has one, can be reached. -/
def RowsReach (s : State) (ctx : BitVec 12) (d : List Word) : Prop :=
  (∀ r, r < dRows d → Reach s ctx (homeCa d r) (dStride d)) ∧ (dDef d = 0 ∨ Reach s ctx (dDef d) (dStride d))

/-- Every lookup outstanding after an operation of core `k` was so before, or the operation started it under the current epoch and
it has finished (R126). -/
def LookupsTagged (s t : State) (k : Nat) : Prop :=
  ∀ l ∈ t.lookups, (∃ l0 ∈ s.lookups, l = l0 ∨ l = { l0 with fin := true }) ∨ (l.core = k ∧ l.tag = epoch s ∧ l.fin = true)

/-- R117-R121, R133: GATHER, POOL, SCATTER and MUPD of a table in this package that is not LIVE run where the rows of the table can be
reached and their lists and data lie in the scratchpad; a RAW GATHER or SCATTER of one row moves its payload. R133: URLD takes the 16
rules. R137: TSWAP answers 0 and swaps the handle where it names the expected descriptor, and answers 1 otherwise. R132: TSCRUB of a LIVE
table runs, and releases no slot. -/
def Obligations.TableOperationsComplete : Prop :=
  ∀ (s : State) (k : CoreIx) (p : Prog) (op : EngOp) (d : List Word) (tb : Nat × List Word) (f : Fmt), d = op.desc →
    f = fmtEntry op.fmts (oFmt d) →
    (TableOp s k 0x40 p op tb → dLive tb.2 = false → dPlace tb.2 ≠ 4 → dRfmt tb.2 ≤ 2 → RowsReach s p.ctx tb.2 →
      (oRaw d = true ∨ outFmtOk f = true) → oIdx d + idxBytes d * oCount d ≤ spadSize →
      oData d + span (oCount d) (oStride d) (if oRaw d then payloadLen tb.2 (rowFmt op tb.2) else rowBytes f.width (dDim tb.2)) ≤ spadSize →
      RunsOp s k 2 p op (.tngGather k) fun t _ => LookupsTagged s t k.val
        ∧ ∀ r m, oRaw d = true → oCount d = 1 → r = ofBytes (memBytes s (spadBase k.val + oIdx d) (idxBytes d)) → r < dRows tb.2 →
          m = payloadLen tb.2 (rowFmt op tb.2) → InSpad (homeCa tb.2 r) m →
          memBytes t (spadBase k.val + oData d) m = memBytes s (homeCa tb.2 r) m)
    ∧ (∀ (off : Nat → Nat) (exact : Bool), TableOp s k 0x41 p op tb → dLive tb.2 = false → dSsp tb.2 = false → dPlace tb.2 ≠ 4 →
      dRfmt tb.2 ≤ 2 → RowsReach s p.ctx tb.2 → exact = poolExact (rowFmt op tb.2) → (exact = true ∨ poolOrdered (dFmt tb.2) = true) →
      (if oOxp d then exact = true else outFmtOk f = true) →
      off = (fun i => elemBits 32 (memBytes s (spadBase k.val + oOff d) (4 * (oCount d + 1))) i) →
      (∀ i, i < oCount d → off i ≤ off (i + 1) ∧ off (i + 1) - off i < 2 ^ 24) → oOff d + 4 * (oCount d + 1) ≤ spadSize →
      oIdx d + idxBytes d * off (oCount d) ≤ spadSize → (oWgt d = true → oWgtA d + 4 * off (oCount d) ≤ spadSize) →
      oData d + span (oCount d) (oStride d) (if oOxp d then 32 * dDim tb.2 else rowBytes f.width (dDim tb.2)) ≤ spadSize →
      RunsOp s k 2 p op (.tngPool k) fun t _ => LookupsTagged s t k.val)
    ∧ (TableOp s k 0x42 p op tb → dLive tb.2 = false → dPlace tb.2 ≠ 4 → dRfmt tb.2 ≤ 2 → RowsReach s p.ctx tb.2 →
      (oRaw d = true ∨ (encodeBarred tb.2 = false ∧ outFmtOk f = true)) → oIdx d + idxBytes d * oCount d ≤ spadSize →
      oData d + span (oCount d) (oStride d) (scatterLen op tb.2) ≤ spadSize →
      RunsOp s k 2 p op (.tngScatter k) fun t _ => t.lookups = s.lookups
        ∧ ∀ r m, oRaw d = true → oCount d = 1 → s.inject = [] → (∀ x, chunkPoison s x = false) →
          r = ofBytes (memBytes s (spadBase k.val + oIdx d) (idxBytes d)) → r < dRows tb.2 → m = payloadLen tb.2 (rowFmt op tb.2) →
          InSpad (homeCa tb.2 r) (dStride tb.2) → memBytes t (homeCa tb.2 r) (dStride tb.2)
            = memBytes s (spadBase k.val + oData d) m ++ List.replicate (dStride tb.2 - m) 0)
    ∧ (∀ v, TableOp s k 0x43 p op tb → op.sent = false → op.rows = [] → dLive tb.2 = false → dPlace tb.2 ≠ 4 → dRfmt tb.2 ≤ 2 →
      RowsReach s p.ctx tb.2 → oFmt d ≤ 1 → mapFind? op.rules (oUrule d) = some v → ruleValid (some v) = true → encodeBarred tb.2 = false →
      (ruleKind v = 2 → dOpt tb.2 ≠ 0 ∧ ∀ r, r < dRows tb.2 → Reach s p.ctx (optCa tb.2 r) 4) → oCount d ≤ oWorkRows d →
      oIdx d + idxBytes d * oCount d ≤ spadSize → oData d + span (oCount d) (oStride d) (rowBytes f.width (dDim tb.2)) ≤ spadSize →
      oWork d + oWorkRows d * (8 + 4 * dDim tb.2) ≤ spadSize →
      RunsOp s k 2 p op (.tngMupd k) fun t _ => t.lookups = s.lookups)
    ∧ (EngineReady s k.val 2 0x4A p op → OpenSpad s k.val p.ctx → oOk 0x4A d = true → oData d + 256 ≤ spadSize →
      RunsOp s k 2 p op (.tngUrld k) fun t q => t.mem = s.mem ∧ (∀ i, i < 16 →
        mapFind? q.rules i = some (BitVec.ofNat 128 (ofBytes (memBytes s (spadBase k.val + oData d + 16 * i) 16)))))
    ∧ (∀ ok, EngineReady s k.val 2 0x48 p op → OpenSpad s k.val p.ctx → Quiet s → oOk 0x48 d = true → oData d + 8 ≤ spadSize →
      (∀ e, (readDesc s (oArg2 d)).1 = some e → dPlace e ≠ 4) → ok = swapMatches s (oCa1 d) (oArg2 d) →
      ∃ t, exec (.tngTswap k) s = after (ranTo (if ok then swapHandle t (oCa1 d) (oArg2 d) (oArg3 d) else engEvent t k.val 0x260 128) p k.val 2 op)
        ∧ memBytes t (spadBase k.val + oData d) 8 = toBytes 8 (boolNat (!ok)))
    ∧ (TableOp s k 0x49 p op tb → liveTable tb.2 = true → (∀ x, x < dRows tb.2 → Reach s p.ctx (rowStateCa tb.2 x) 8) →
      moverRoom s k.val (oArg3 d) = true → RunsOp s k 2 p op (.tngTscrub k) fun t _ => t.slotRels = s.slotRels)

/-- Two ranges of bytes with no byte in common. -/
def Apart (a n b m : Nat) : Prop := a + n ≤ b ∨ b + m ≤ a

/-- R128, R130, R136, R138-R140: the writers of LIVE rows. STAGE writes a locked row to its slot and lists it with its word; COMMIT
flips a listed row's word to its slot; MIGRATE moves a locked row to its hot slot; RESHARD copies a locked row, as it stands between
tables of one format, with its version, and forwards the source. -/
def Obligations.LiveTableOperationsComplete : Prop :=
  ∀ (s : State) (k : CoreIx) (p : Prog) (op : EngOp) (d : List Word) (tb : Nat × List Word) (r n : Nat) (w : Word), d = op.desc →
    liveTable tb.2 = true → WordIs s (rowStateCa tb.2 r) w → Reach s p.ctx (rowStateCa tb.2 r) 8 → r < dRows tb.2 →
    (TableOp s k 0x44 p op tb → (∃ a, locOf tb.2 r w = some a ∧ a < 2 ^ 51 ∧ vanished s a = false) → oCount d = 1 → oRaw d = true → op.locked = true → op.ldesc = tb.2 → op.slot = some n →
      s.inject = [] → (∀ x, chunkPoison s x = false) → r = ofBytes (memBytes s (spadBase k.val + oIdx d) (idxBytes d)) →
      oIdx d + idxBytes d ≤ spadSize → oData d + payloadLen tb.2 (rowFmt op tb.2) ≤ spadSize → oList d + 24 ≤ spadSize →
      Reach s p.ctx (slotCa tb.2 (slotPool op w) n) (dStride tb.2) →
      RunsOp s k 2 p op (.tngStage k) fun t _ => memBytes t (spadBase k.val + oList d) 24
        = toBytes 8 r ++ toBytes 8 (place 50 50 (slotPool op w) ||| place 49 24 n).toNat ++ toBytes 8 w.toNat
        ∧ ∀ a m, a = slotCa tb.2 (slotPool op w) n → m = payloadLen tb.2 (rowFmt op tb.2) → m ≤ dStride tb.2 → InSpad a (dStride tb.2) →
          Apart a (dStride tb.2) (spadBase k.val + oList d) 24 → memBytes t a m = memBytes s (spadBase k.val + oData d) m)
    ∧ (∀ (ws : List Word), TableOp s k 0x45 p op tb → (∃ a, locOf tb.2 r w = some a ∧ a < 2 ^ 51 ∧ vanished s a = false) → oCount d = 1 → oPmode d = 0 → oList d + 24 ≤ spadSize →
      ws = wordsOf 3 (memBytes s (spadBase k.val + oList d) 24) → (wordAt ws 0).toNat = r → rsBusy s (wordAt ws 2) = true →
      rsLoc w ≤ 1 → rsBusy s w = true → rsVer w = rsVer (wordAt ws 2) → moverRoom s k.val 2 = true →
      RunsOp s k 2 p op (.tngCommit k) fun t _ => memBytes t (rowStateCa tb.2 r) 8
          = toBytes 8 (rsCommit w (fld (wordAt ws 1) 50 50) (fld (wordAt ws 1) 49 24)).toNat
        ∧ (rsHot w = false → t.copyBacks
            = (queueBack s k.val p.ctx tb.2 r (fld (wordAt ws 1) 50 50) (fld (wordAt ws 1) 49 24)
              (rowLen tb.2 (rowFmt op tb.2))).copyBacks)
        ∧ (rsLoc w = 1 → t.slotRels = (queueRel s k.val p.ctx tb.2 r (rsPool w) (rsSlot w)).slotRels))
    ∧ (TableOp s k 0x46 p op tb → oCount d = 1 → oPmode d = 0 → op.locked = true → op.ldesc = tb.2 → op.ldesc ≠ [] → op.slot = some n → rsLoc w ≤ 1 →
      1 ≤ dStride tb.2 → r = ofBytes (memBytes s (spadBase k.val + oIdx d) (idxBytes d)) → oIdx d + idxBytes d ≤ spadSize →
      Reach s p.ctx ((locOf tb.2 r w).getD (homeCa tb.2 r)) (dStride tb.2) → Reach s p.ctx (slotCa tb.2 1 n) (dStride tb.2) →
      moverRoom s k.val 1 = true →
      RunsOp s k 2 p op (.tngMigrate k) fun t _ => memBytes t (rowStateCa tb.2 r) 8 = toBytes 8 (migrateWord w false n).toNat
        ∧ ∀ a b m, a = (locOf tb.2 r w).getD (homeCa tb.2 r) → b = slotCa tb.2 1 n → m = rowLen tb.2 (rowFmt op tb.2) → s.inject = [] →
          (∀ x, chunkPoison s x = false) → InSpad a (dStride tb.2) → InSpad b (dStride tb.2) → Apart b (dStride tb.2) (rowStateCa tb.2 r) 8 →
          memBytes t b m = memBytes s a m)
    ∧ (∀ (dst : Nat × List Word), TableOp s k 0x47 p op tb → canon (oCa1 d) + 64 ≤ 12 * stackSize → tableOf s p (oSlot2 d) = some dst →
      fmtUsable (rowFmt op dst.2) op.cbs = true → descFmtOk dst.2 (rowFmt op dst.2) = true → liveTable dst.2 = true → dFwd tb.2 = dst.1 →
      dFwd dst.2 = 0 → dDim tb.2 = dDim dst.2 → dRfmt tb.2 ≤ 2 → dRfmt dst.2 ≤ 2 → encodeBarred dst.2 = false → op.sent = true → oArg2 d = r →
      oArg3 d = r + 1 → r < dRows dst.2 → 1 ≤ dStride tb.2 → 1 ≤ dStride dst.2 → op.locked = true → op.ldesc ≠ [] → rsLoc w = 0 → s.slotRels = [] → moverRoom s k.val 0 = true →
      Reach s p.ctx (homeCa tb.2 r) (dStride tb.2) → Reach s p.ctx (homeCa dst.2 r) (dStride dst.2) →
      Reach s p.ctx (rowStateCa dst.2 r) 8 → Reach s p.ctx (oCa1 d) 64 →
      RunsOp s k 2 p op (.tngReshard k) fun t _ => t.slotRels = [] ∧ t.copyBacks = s.copyBacks
        ∧ ∀ a b v m, a = homeCa tb.2 r → b = homeCa dst.2 r → v = rowStateCa dst.2 r → m = rowLen tb.2 (rowFmt op tb.2) → s.inject = [] →
          (∀ x, chunkPoison s x = false) → InSpad a (dStride tb.2) → InSpad b (dStride dst.2) → InSpad v 8 → InSpad (oCa1 d) 64 →
          Apart b (dStride dst.2) v 8 → Apart b (dStride dst.2) (rowStateCa tb.2 r) 8 → Apart v 8 (rowStateCa tb.2 r) 8 →
          Apart (oCa1 d) 64 b (dStride dst.2) → Apart (oCa1 d) 64 v 8 → Apart (oCa1 d) 64 (rowStateCa tb.2 r) 8 →
          memBytes t v 8 = toBytes 8 (place 23 0 (rsVer w)).toNat
          ∧ memBytes t (rowStateCa tb.2 r) 8 = toBytes 8 (setFld (rsUnlock w) 63 62 2).toNat
          ∧ (sameRows tb.2 dst.2 = true → m ≤ dStride dst.2 → memBytes t b m = memBytes s a m))

/-- The elements of an operand's first row as memory holds them, under its broadcast code (R94). -/
def firstRow (s : State) (c : Nat) (cbs : SMap Codebook) (f : Fmt) (scaled : Bool) (bc cols : Nat) (a : Word) (imm : Machine.Num) :
    List (Machine.Num × Bool) :=
  if bc = 3 then List.replicate cols (imm, false)
  else
    let n := if bc = 1 then 1 else cols
    let b := memBytes s (spadBase c + fld a 63 32) (rowBytes f.width n)
    let es := rowEls f cbs scaled n { bytes := b, pois := List.replicate b.length false }
    if bc = 1 then List.replicate cols (es.headD (zeroNum, false)) else es

/-- The first row of scales of a CVT as memory holds it (R99). -/
def firstScales (s : State) (c : Nat) (d : List Word) (n : Nat) : List (Machine.Num × Bool) :=
  if fld (wordAt d 0) 19 18 = 0 then []
  else
    let b := memBytes s (spadBase c + fld (wordAt d 6) 31 0) n
    rowScales (flag (wordAt d 0) 17) n { bytes := b, pois := List.replicate b.length false }

/-- What the operation `op` makes of the first rows of its operands. -/
def firstOut (s : State) (c : Nat) (p : Prog) (op : EngOp) : ChsOut :=
  let d := op.desc
  let w0 := wordAt d 0
  let j := chsJob p op
  let row := fun hi lo scaled bc a => firstRow s c op.cbs (fmtEntry op.fmts (fld w0 hi lo)) scaled bc j.cols a (chsImm d)
  let idle := List.replicate j.cols (zeroNum, false)
  chsCompute j (row 55 51 (decide (fld w0 19 18 ≠ 0)) 0 (wordAt d 1))
    (if usesY j.code then row 50 46 false (fld w0 33 32) (wordAt d 2) else idle)
    (if usesW j.code then row 40 36 false (fld w0 31 30) (wordAt d 3) else idle)
    (if j.code = 0x2B then [] else firstScales s c d ((j.cols + j.qb - 1) / j.qb))

/-- Chisel's command `cmd`, of opcode `code`, completes: where the descriptor is accepted and the rows all lie in a scratchpad that its
context may use, it runs. Of one row, in memory with no poison, Z takes what the operation makes of the rows of its operands, and QNT's
scale row its scales. -/
def ChiselCompletes (code : Nat) (cmd : CoreIx → Instr) : Prop :=
  ∀ (s : State) (k : CoreIx) (p : Prog) (op : EngOp) (d : List Word) (rows cols qb : Nat),
    EngineReady s k.val 1 code p op → OpenSpad s k.val p.ctx → d = op.desc → rows = fld (wordAt d 5) 63 48 → cols = fld (wordAt d 5) 47 32 →
    qb = (if code = 0x2B then (if flag (wordAt d 0) 24 then 32 else 16) else blkSz (fld (wordAt d 0) 19 18)) →
    chsWords code d = true → chsFmts code d op.fmts op.cbs = true → (code = 0x2C → (curveOf p (fld (wordAt d 0) 29 27)).valid = true) →
    RowsFit (fld (wordAt d 1) 63 32) (fld (wordAt d 1) 31 0) (rowBytes (fmtEntry op.fmts (fld (wordAt d 0) 55 51)).width cols) rows →
    (usesY code = true → fld (wordAt d 0) 33 32 ≠ 3 → RowsFit (fld (wordAt d 2) 63 32) (fld (wordAt d 2) 31 0)
      (rowBytes (fmtEntry op.fmts (fld (wordAt d 0) 50 46)).width (if fld (wordAt d 0) 33 32 = 1 then 1 else cols))
      (if fld (wordAt d 0) 33 32 = 2 then 1 else rows)) →
    (usesW code = true → fld (wordAt d 0) 31 30 ≠ 3 → RowsFit (fld (wordAt d 3) 63 32) (fld (wordAt d 3) 31 0)
      (rowBytes (fmtEntry op.fmts (fld (wordAt d 0) 40 36)).width (if fld (wordAt d 0) 31 30 = 1 then 1 else cols))
      (if fld (wordAt d 0) 31 30 = 2 then 1 else rows)) →
    RowsFit (fld (wordAt d 4) 63 32) (fld (wordAt d 4) 31 0)
      (rowBytes (fmtEntry op.fmts (fld (wordAt d 0) 45 41)).width (if isReduce code then 1 else cols)) rows →
    (code = 0x2B → cols % qb = 0) →
    ((code = 0x2B ∨ fld (wordAt d 0) 19 18 ≠ 0) → RowsFit (fld (wordAt d 6) 31 0) (fld (wordAt d 7) 63 32) ((cols + qb - 1) / qb) rows) →
    RunsOp s k 1 p op (cmd k) fun t q => t.tasks = s.tasks ∧ t.keys = s.keys ∧ q.banks = p.banks ∧ q.streams = p.streams ∧ q.curves = p.curves
      ∧ ∀ a b m n, a = spadBase k.val + fld (wordAt d 4) 63 32 → b = spadBase k.val + fld (wordAt d 6) 31 0 → rows = 1 →
        m = rowBytes (fmtEntry op.fmts (fld (wordAt d 0) 45 41)).width (if isReduce code then 1 else cols) → n = (if code = 0x2B then cols / qb else 0) →
        s.inject = [] → (∀ x, chunkPoison s x = false) → Apart a m b n →
        memBytes t a m = packRow (fmtEntry op.fmts (fld (wordAt d 0) 45 41)).width (firstOut s k.val p op).codes
        ∧ (code = 0x2B → memBytes t b n = (firstOut s k.val p op).scales.map (BitVec.ofNat 8))

/-- R94-R99, R102: the commands of Chisel's 18 operations, ADD, SUB, MUL, FMA, MAX, MIN, ABS, SEL, DIV, RSQRT, CVT, QNT, CURVE, RSUM, RSSQ,
RMAX, RMIN and RARGMAX, each lead to a next state in which the operation has run, where it is ready, its descriptor is accepted and its
rows lie in the scratchpad; and its Z takes what it computes. -/
def Obligations.ChiselOperationsComplete : Prop :=
  ChiselCompletes 0x20 .chsAdd ∧ ChiselCompletes 0x21 .chsSub ∧ ChiselCompletes 0x22 .chsMul ∧ ChiselCompletes 0x23 .chsFma
  ∧ ChiselCompletes 0x24 .chsMax ∧ ChiselCompletes 0x25 .chsMin ∧ ChiselCompletes 0x26 .chsAbs ∧ ChiselCompletes 0x27 .chsSel
  ∧ ChiselCompletes 0x28 .chsDiv ∧ ChiselCompletes 0x29 .chsRsqrt ∧ ChiselCompletes 0x2A .chsCvt ∧ ChiselCompletes 0x2B .chsQnt
  ∧ ChiselCompletes 0x2C .chsCurve ∧ ChiselCompletes 0x30 .chsRsum ∧ ChiselCompletes 0x31 .chsRssq ∧ ChiselCompletes 0x32 .chsRmax
  ∧ ChiselCompletes 0x33 .chsRmin ∧ ChiselCompletes 0x34 .chsRargmax

/-- R110, R122-R132: the table engine's other work, on a LIVE table: a pool unit answers the oldest share of its stack; a free row's lock
is taken for the waiting operation, and then a free slot of its pool; once its epoch has passed a copy-back brings the row home and
clears LOC and DIRTY, and a release sets its slot's bit; a drained descriptor is marked; the epoch advances when it is due; a finished
lookup retires. -/
def Obligations.TableBackgroundWorkIsDone : Prop :=
  ∀ (s : State),
    (∀ (st : Fin 12) (sh : Share) (p : Prog) (op : EngOp), running s = true → Quiet s →
      (s.shares.find? fun x => decide (x.stack = st.val) && x.answer.isNone) = some sh → prog? s sh.core = some p → nextOp p 2 = some op →
      dLive sh.desc = false → dRfmt sh.desc ≤ 2 → (∀ x e, govSeg s p.ctx x = some e → flag e.2.2 52 = false) →
      ∃ u a, exec (.poolUnitShare st) s = after u ∧ u.shares = s.shares.map fun x => if x = sh then { x with answer := some a } else x)
    ∧ (∀ (k : CoreIx) (p : Prog) (op : EngOp) (tb : Nat × List Word) (r : Nat) (w : Word), engineUp s k.val 2 = true → prog? s k.val = some p →
        OpenSpad s k.val p.ctx → nextOp p 2 = some op → tableOf s p (oSlot op.desc) = some tb → p.injig = false →
        ((queue p 2).filter fun o => o.ord = op.ord) = [op] →
        (opcodeOf op = 0x44 ∨ opcodeOf op = 0x46) → oIdx op.desc + idxBytes op.desc * (op.progress + 1) ≤ spadSize →
        r = ofBytes (memBytes s (spadBase k.val + oIdx op.desc + idxBytes op.desc * op.progress) (idxBytes op.desc)) →
        WordIs s (rowStateCa tb.2 r) w → Reach s p.ctx (rowStateCa tb.2 r) 8 →
        (op.parked = true → op.locked = false → rsLoc w ≤ 1 → rsBusy s w = false →
          Reach s p.ctx ((locOf tb.2 r w).getD (homeCa tb.2 r)) 1 →
          ∃ t, exec (.rowLockAcquire k) s = after t ∧ memBytes t (rowStateCa tb.2 r) 8 = toBytes 8 (rsLock s w).toNat
            ∧ (curOp t k.val 2 op).locked = true ∧ (curOp t k.val 2 op).ldesc = tb.2)
        ∧ (∀ n a bits, op.noted = true → op.locked = true → op.slot = none → op.ldesc = tb.2 → op.ldesc ≠ [] →
          n = poolCnt tb.2 (slotPool op w) → a = bitmapCa tb.2 (slotPool op w) → InSpad a ((n + 63) / 64 * 8) →
          Reach s p.ctx a ((n + 63) / 64 * 8) → bits = memBytes s a ((n + 63) / 64 * 8) → (∃ i, i < n ∧ (ofBytes bits).testBit i = true) →
          ∃ t i, exec (.veneerSlotAlloc k) s = after t ∧ i < n ∧ (ofBytes bits).testBit i = true ∧ (curOp t k.val 2 op).slot = some i))
    ∧ (∀ (k : CoreIx) (n : Nat) (b : CopyBack) (w : Word), (s.copyBacks.filter fun b => b.core = k.val)[n]? = some b →
        moverUp s k.val = true → b.epoch ≤ epochDone s → Quiet s → WordIs s (rowStateCa b.desc b.row) w →
        Reach s b.ctx (rowStateCa b.desc b.row) 8 → rsLoc w = 1 → rsPool w = b.pool → rsSlot w = b.slot → b.len ≤ dStride b.desc →
        Reach s b.ctx (slotCa b.desc b.pool b.slot) (dStride b.desc) → Reach s b.ctx (homeCa b.desc b.row) (max 1 (dStride b.desc)) →
        ∃ t, exec (.copyBack k n) s = after t ∧ t.copyBacks = s.copyBacks.erase b
          ∧ memBytes t (rowStateCa b.desc b.row) 8 = toBytes 8 (setFld (setFld w 63 62 0) 61 61 0).toNat
          ∧ t.slotRels = (queueRel s b.core b.ctx b.desc b.row b.pool b.slot).slotRels)
    ∧ (∀ (k : CoreIx) (n : Nat) (b : SlotRel) (a : Nat) (w : Word), (s.slotRels.filter fun b => b.core = k.val)[n]? = some b →
        moverUp s k.val = true → b.epoch ≤ epochDone s → a = bitmapCa b.desc b.pool + b.slot / 64 * 8 → WordIs s a w → Reach s b.ctx a 8 →
        ∃ t, exec (.veneerSlotFree k n) s = after t ∧ t.slotRels = s.slotRels.erase b
          ∧ memBytes t a 8 = toBytes 8 (setFld w (b.slot % 64) (b.slot % 64) 1).toNat)
    ∧ (∀ a t, running s = true → drainDesc s a = some t → exec (.descDrained a) s = after t)
    ∧ (running s = true → epochDue s = true →
        exec .tblEpochAdvance s = after (settleEpoch { setRf s .gfe 0x2000 47 0 (epoch s + 1) with epochAt := s.stc }))
    ∧ (∀ n l, s.lookups[n]? = some l → l.fin = true →
        exec (.tblLookupRetire n) s = after (settleEpoch { s with lookups := s.lookups.filter (· ≠ l) }))

/-- R74: for a given set of contributions the accumulator's value, flags and count are the same in every order of addition, and those of
any split whose parts are combined exactly (R75); Anvil rejects an exact product whose k-range does not end on a block. -/
def Obligations.ExactSumIsOrderIndependent : Prop :=
  (∀ (a : Acc) (xs ys : List Machine.Num), xs.Perm ys → xs.foldl accAdd a = ys.foldl accAdd a)
  ∧ (∀ (a : Acc) (xs ys zs : List Machine.Num), (xs ++ ys).Perm zs →
      accMerge (xs.foldl accAdd a) (ys.foldl accAdd accZero) = zs.foldl accAdd a)
  ∧ (∀ (s : State) (k : CoreIx) (p : Prog) (op : EngOp) (w0 : Word), EngineReady s k.val 0 1 p op → w0 = wordAt op.desc 0 →
      mmaWords op.desc = true → exactFmt (fmtEntry op.fmts (fld w0 55 51)) = true → exactFmt (fmtEntry op.fmts (fld w0 50 46)) = true →
      fmtUsable (fmtEntry op.fmts (fld w0 55 51)) op.cbs = true → fmtUsable (fmtEntry op.fmts (fld w0 50 46)) op.cbs = true →
      fld w0 31 16 % min (blkSz (fld w0 45 44)) (blkSz (fld w0 43 42)) ≠ 0 →
      exec (.anvMma k []) s = after (engineFault (numEvent s k.val 0 128) k.val
        { eng := 0, opcode := 1, ecode := 6, sub := 7, eaddr := 0, detail := op.ord % 2 ^ 32 }))

/-- Elements of the fixed 8-bit and 4-bit float formats: encoding the value of a code that is no NaN gives the code back, with no event,
under every rounding. -/
def Obligations.SmallFloatsRoundTrip : Prop :=
  ∀ (n : Nat), n ∈ smallFloats → ∀ (r : Rnd) (c : Nat), c < 2 ^ (fixedFmts.getD n fmtFp32).width → isNanCode (fixedFmts.getD n fmtFp32) c = false →
    decodeEl (fixedFmts.getD n fmtFp32) [] false c ≠ .nan →
    encodeEl (fixedFmts.getD n fmtFp32) [] false r (decodeEl (fixedFmts.getD n fmtFp32) [] false c) = (c, 0)

/-! Coherence, the host and memory. -/

/-- R248, R282-R287: a line request that its ordering point takes, with no other request of the line in service there, is granted by its
ring, then ordered by its home agent, then by the stack controller or the device cache. Its data fill a way of its set, in M for
an ownership request, else in S where another copy stays and in E where none does; the dirty line that this evicts waits in the write-back
buffer, which then drains; a directory entry's victim is recalled from its region, and a filter's from every region. -/
def Obligations.LineRequestsAreServed : Prop :=
  (∀ (s : State) (t : Txn) (line : Nat), running s = true → lineHeld s t = false → t.line = lineNo line → t.host = lineHost line →
     (∀ cl : ClusterIx, (s.txns.find? fun u => decide (u.cluster = cl.val) && decide (u.line = t.line) && decide (u.host = t.host)
         && u.stage = .ring) = some t → exec (.ringRequestGrant cl line) s = after (ringGrant s t))
     ∧ (∀ rg : Fin 8, (s.txns.find? fun u => decide (regionOfCluster u.cluster = rg.val) && decide (u.line = t.line) && decide (u.host = t.host)
         && u.stage = .home) = some t → blkEn s (.drawer rg) = true → dirRoom s rg.val t.host t.line = true → exec (.homeAgentRequest rg line) s = after (homeRequest s rg.val t))
     ∧ ((s.txns.find? fun u => decide (u.line = t.line) && decide (u.host = t.host) && u.stage = .loc) = some t →
         (t.host = true ∨ filterRoom s t.line = true) → exec (.locationRequest line) s = after (if t.host then devRequest s t else locRequest s t)))
  ∧ (∀ (s : State) (k : CoreIx) (line : Nat), running s = true →
     (∀ (t : Txn), (s.txns.find? fun u => decide (u.core = k.val) && decide (u.line = lineNo line) && decide (u.host = lineHost line)
         && u.stage = .data) = some t → (Machine.core s k.val).wb = none →
       ∃ slot v u, dcRoom s t = some (slot, v) ∧ v.mem = s.mem
         ∧ (∀ l, findLine (Machine.core s k.val).dcache t.host t.line = none → mapFind? (Machine.core s k.val).dcache slot = some l →
             (Machine.core v k.val).wb = if isDirty l.st then some l else none)
         ∧ exec (.lineFillDone k line) s = after u
         ∧ u = (let f := notePresence (dcPut (dropTxn (noteAccepted v t) t) k.val slot
             { line := t.line, host := t.host, st := if t.own then .m else if t.shared then .s else .e,
               data := if t.noData then List.replicate 64 0 else t.data, poison := !t.noData && t.poison,
               cc := t.cc, key := t.key, stamp := 0, pres := 0 }) t.host t.line (clusterOf k.val)
           let g := dropFill f k.val t
           servePosts (if t.host then serveSnoops g t.line else g)))
     ∧ ((Machine.core s k.val).wb.isSome = true → exec (.wbBufferDrain k) s = after (flushWbOf s k.val))
     ∧ (∀ rg : Fin 8, lineBusy s (lineHost line) (lineNo line) = false → exec (.dirRecall (some rg) line) s
         = after (recallRegion (flushWb s (lineHost line) (lineNo line)) (lineHost line) (lineNo line) rg.val))
     ∧ (∀ u v, lineHost line = false → lineBusy s false (lineNo line) = false →
         u = (List.range 8).foldl (fun u rg => recallRegion u false (lineNo line) rg) (flushWb s false (lineNo line)) →
         v = setFilter u (lineNo line) (filter u (lineNo line) &&& 256) → hostBit v (lineNo line) = false →
         exec (.dirRecall none line) s = after v))


/-- R264, R268: a store that no earlier buffered one overlaps leaves the buffer when it is performed: into the core's own line held M or E,
or, an NC store to memory that no other cache holds, to memory. One whose line the core does not own asks for ownership, and one whose
ownership request failed is discarded. Every byte of memory but those of an NC store stays. -/
def Obligations.StoreBufferDrains : Prop :=
  ∀ (s : State) (k : CoreIx) (n : Nat) (b : BufStore) (rest : List BufStore), running s = true → drainable (Machine.core s k.val).sbuf n = some b →
    rest = (Machine.core s k.val).sbuf.eraseIdx n →
    (∀ slot l t, b.nc = false → ownCopy s k.val b.tgt = some (slot, l) → hasOwn l = true → t = dcPut s k.val slot (storeLine l b.tgt b.data) →
      exec (.storeBufferDrain k n) s = after (setCore t k.val { Machine.core t k.val with sbuf := rest }) ∧ t.mem = s.mem)
    ∧ (b.nc = false → (∀ slot l, ownCopy s k.val b.tgt = some (slot, l) → hasOwn l = false) →
      (failedFill s k.val b.tgt = none →
        exec (.storeBufferDrain k n) s = after (requestLine s k.val (setOf b.named) b.tgt true false false))
      ∧ (∀ l t, failedFill s k.val b.tgt = some l → t = useFailed s k.val →
        exec (.storeBufferDrain k n) s = after (setCore t k.val { Machine.core t k.val with sbuf := rest })))
    ∧ (∀ t, b.nc = true → b.tgt.io = false → b.tgt.host = false → uncached { whoCore s k.val with jig := false } (lineOf b.tgt) = true →
      t = chunkWrite s { whoCore s k.val with jig := false } (lineOf b.tgt) (b.tgt.addr % 64) b.data false b.tgt.key →
      exec (.storeBufferDrain k n) s = after (setCore t k.val { Machine.core t k.val with sbuf := rest })
      ∧ (Memory.wf s.mem = true → b.tgt.key = none → ∀ a, (a < lineOf b.tgt * 64 + b.tgt.addr % 64
          ∨ lineOf b.tgt * 64 + b.tgt.addr % 64 + b.data.length ≤ a) → memByte t a = memByte s a))

/-- R299, R300: a host CXL.mem access to an HDM-H range reads or writes the memory of its controller and snoops nothing; to an HDM-DB
range it snoops first; outside every range it is unsupported. A BIRspI clears the line's host bit. -/
def Obligations.HostMemoryAccessesComplete : Prop :=
  ∀ (s : State) (hpa a : Nat) (caches poison : Bool) (data : List Byte), stopped s = false → memServes s = true →
    (hdmDpa s hpa = none → exec (.hostMemrd hpa caches) s = after (send s .unsupported)
      ∧ exec (.hostMemwr hpa data poison) s = after (send s .unsupported))
    ∧ (hdmDpa s hpa = some (a, false) → ∀ r t, r = chunkRead s whoNone (a / 64) 0 64 none →
        t = chunkWrite s whoNone (a / 64) 0 ((data ++ List.replicate 64 0).take 64) poison none →
        exec (.hostMemrd hpa caches) s = after (globalCtr (send r.2 (.memData r.1.1 r.1.2)) 77 64)
        ∧ exec (.hostMemwr hpa data poison) s = after (globalCtr (send t .memCmp) 76 64)
        ∧ r.2.mem = s.mem
        ∧ (Memory.wf s.mem = true → poison = false → ∀ x, (x < a / 64 * 64 ∨ a / 64 * 64 + 64 ≤ x) → memByte t x = memByte s x))
    ∧ (hdmDpa s hpa = some (a, true) → lineBusy s false (a / 64) = false →
        (∀ t, t = (snoopAll s false (a / 64) true).1 → exec (.hostMemwr hpa data poison) s
          = after (globalCtr (send (chunkWrite t whoNone (a / 64) 0 ((data ++ List.replicate 64 0).take 64) poison none) .memCmp) 76 64))
        ∧ (∀ t x d q u, snoopAll s false (a / 64) false = (t, x) → (caches = true → filterRoom s (a / 64) = true) → (d, q, u) = (match x.data with
              | some v => (chunkCipher t (a / 64) v.2.2.1 v.1, v.2.1, t)
              | none => ((chunkRead t whoNone (a / 64) 0 64 none).1.1, (chunkRead t whoNone (a / 64) 0 64 none).1.2,
                  (chunkRead t whoNone (a / 64) 0 64 none).2)) →
            exec (.hostMemrd hpa caches) s
              = after (globalCtr (send (if caches then setHostBit (useBis u (a / 64)) (a / 64) true else u) (.memData d q)) 77 64)))
    ∧ (∀ (line : Nat) (b : BiSnp), (s.bis.find? fun x => decide (x.line = line) && !x.answered) = some b →
        exec (.birsp line true none) s = after (servePosts { setHostBit s line false with
          bis := s.bis.filter fun x => !(decide (x.line = line) && !x.answered) }))

/-- R294: a host snoop is answered with the device cache's line, after the inner copies that its outcome requires are recalled: SnpInv
drops it, SnpData leaves it S, SnpCur changes nothing; a line the package lacks is answered as a miss; a snoop that meets a request
of the complex for its line waits behind it. R293, R366: a GO ends the oldest
request of its line with the data it brings; a GO-Err ends it with poisoned data or a discarded write; a read that gets no answer ends
as a GO-Err does and is an endpoint event, unless the host disables the timeout, and so does a flush read, whose data is not used. -/
def Obligations.HostSnoopsAndResponsesAct : Prop :=
  (∀ (s : State) (hpa k : Nat), k = hpa / 64 → snpServes s k = true → (∀ x ∈ s.snps, x.line ≠ k) →
     (∀ t, t = wakeWatch (recallLine s true k) k →
       (devLine t k = none → exec (.snpinv hpa) s = after (send t (.snpRsp k (watched s k) none false)))
       ∧ (∀ slot l, devLine t k = some (slot, l) → devCheck t l = (l, t) →
           exec (.snpinv hpa) s = after (snpHit (dropDev t slot) l (l.st = .m))))
     ∧ (∀ t, t = wakeWatch (snoopData s k) k →
       (devLine t k = none → exec (.snpdata hpa) s = after (send t (.snpRsp k (watched s k) none false)))
       ∧ (∀ slot l, devLine t k = some (slot, l) → devCheck t l = (l, t) → exec (.snpdata hpa) s = after (snpHit (putDev t slot { l with st := .s }) l (l.st = .m))))
     ∧ (devLine s k = none → exec (.snpcur hpa) s = after (send s (.snpRsp k (watched s k) none false)))
     ∧ (∀ slot l, devLine s k = some (slot, l) → devCheck s l = (l, s) →
         exec (.snpcur hpa) s = after (snpHit (putDev s slot l) l true)))
  ∧ (∀ (s : State) (hpa k : Nat), k = hpa / 64 → s.ep.linkUp = true → snpServes s k = false →
     ∀ e ∈ [(Instr.snpinv hpa, 0), (.snpdata hpa, 1), (.snpcur hpa, 2)],
       exec e.1 s = after { s with snps := s.snps ++ [{ line := k, kind := e.2 }] })
  ∧ (∀ (s : State) (hpa : Nat) (h : HostReq), stopped s = false →
     ((s.hreqs.find? fun x => x.line = hpa / 64) = some h →
       (∀ g d p, grantFits h.kind g = true → (2 ≤ h.kind ∨ devRoom s h.line = true) →
         exec (.cxlGo hpa g d p) s = after (servePosts (serveSnoops (goArrives s h g d p) h.line)))
       ∧ exec (.cxlGoErr hpa) s = after (servePosts (serveSnoops (goFails s h) h.line)))
     ∧ ((s.hreqs.find? fun x => x.line = hpa / 64 && (x.kind = 0 || x.kind = 1 || x.kind = 2 || x.kind = 7)) = some h → ctoDisable s = false →
       exec (.completionTimeout hpa) s = after (timedOut (servePosts (serveSnoops (goFails s h) h.line))))
     ∧ (∀ f rest, (s.hreqs.find? fun x => x.line = hpa / 64 && (x.kind = 0 || x.kind = 1 || x.kind = 2 || x.kind = 7)) = none →
       s.ep.flushWait = f :: rest → flushSent s = true → ctoDisable s = false → exec (.completionTimeout hpa) s
         = after (timedOut { s with ep := { s.ep with flushWait := rest, flushed := s.ep.flushed ++ f.task.toList } }))
     ∧ (∀ t, timedOut t = raiseFault (raise (signalUncorr t 14) .ep 0x100 3) .ep 2 none none))


/-- R243, R244, R367: a host access through BAR4 reaches the memory that its selector maps, as plain memory; the writes of a
write-protected selector are dropped; a poisoned payload is logged; and an access that no selector maps is an unsupported request. -/
def Obligations.AperturesReachMemory : Prop :=
  ∀ (s : State) (off len : Nat) (data : List Byte) (p : Bool), stopped s = false → apServes s = true →
    (∀ a w r, apMap s off len = some (a, w) → r = apRead w (parts a len) (globalCtr s 73 len) →
      exec (.bar4Read off len) s = after (send r.2 (.cpl r.1.1 r.1.2)) ∧ r.2.mem = s.mem)
    ∧ (apMap s off len = none → exec (.bar4Read off len) s = after (refuseRead s))
    ∧ (∀ a w t u, apMap s off data.length = some (a, w) → u = (if p then poisonedTlp s else s) →
      t = apWrite w p (parts a data.length) data (globalCtr u 72 data.length) →
      exec (.bar4Write off data p) s = after (if flag w 52 then u else t)
      ∧ (Memory.wf s.mem = true → Memory.wf t.mem = true))
    ∧ (apMap s off data.length = none → exec (.bar4Write off data p) s = after (logUnsupported s true))

/-- R245, R255, R257: the scrubbers and refreshes visit their word: a clean word changes nothing but its checker's state, a single error is
corrected and reported with the word's address, a double one poisons the chunk. -/
def Obligations.MemoryMaintenanceVisitsWords : Prop :=
  ∀ (s : State) (k : CoreIx) (bank : Fin 16) (word : Nat) (found : EccFound) (sk : Fin 12) (temp : Nat), coreEnabled s k.val = true →
    (∀ ca, running s = true → (Machine.core s k.val).power ≠ .c3 → word < spadSize / 8 → ca = spadBase k.val + 8 * word →
      exec (.spadPatrolScrub k word found) s = after (eccEvent (chunkCheck s whoNone (ca / 64)).2 (.core k) k.val ca found))
    ∧ (running s = true → exec (.drawerRefresh k bank found word) s = after (refreshRow s k bank.val found word))
    ∧ (running s = false → exec (.drawerSelfRefresh k bank found word) s = after (refreshRow s k bank.val found word))
    ∧ (mapWf (fun _ => 0) s.power.refreshRow = true → refreshRowOf (refreshRow s k bank.val .clean word) k.val bank.val = (refreshRowOf s k.val bank.val + 1) % 16384)
    ∧ exec (.stackRefresh sk temp) s
        = after { s with power := { s.power with stackTemp := mapSet (fun _ => 0) s.power.stackTemp sk.val temp } }
    ∧ exec (.refreshManagementRequest sk) s = after s
    ∧ (∀ b c ca, eccEvent s b c ca .clean = s ∧ eccEvent s b c ca .single = raiseFault s b 0 (some c) (some ca)
        ∧ eccEvent s b c ca .double = raiseFault (markUncorrectable s (ca / 64)) b 1 (some c) (some ca))

/-! Registers. -/

/-- R32, R37-R39: an 8-byte write stores the register's RW, RWD, value and reserved bits and leaves its read-only, cleared-by-sequence and
command fields, and at a register that holds no command that is all it does; a 4-byte write there does the same to the half it covers.
A write of another size, or whose offset its size does not divide, is discarded and flagged. A write that the block's enable forbids is
ignored as a whole and flagged, with its offset where it is the first. -/
def Obligations.RegisterWritesStoreTheirFields : Prop :=
  ∀ (s : State) (rq : Requester) (b : Blk) (o off : Nat) (sp : RegSpace) (val w : Word), requesterReaches s rq b = true → windowLives s b = true →
    (rq = .pmc → b = .pwr) → writePerformed s b o = true → heldAccs s b = [] → locate (rk b o) = some (b, o) →
    locate (rk b o + 4) = some (b, o + 4) → o % 8 = 0 → regFields b o ≠ [] → o ≠ hdrOff b → w = writtenWord s b o val →
    (regKey sp off = some (rk b o) → tripleOfClear b o = none → (o = 0x70 → isCtxBlk b = true) → writeGated s b o = false →
      exec (.registerWrite rq sp off 8 val) s = afterReg s rq (rk b o) 8 (writeEffect s b o o (reg s b o) w val)
      ∧ (plainRegister b o = true → exec (.registerWrite rq sp off 8 val) s = afterReg s rq (rk b o) 8 (setReg s b o w)
          ∧ exec (.registerWrite rq sp off 4 val) s = afterReg s rq (rk b o) 4 (setReg s b o (writtenWord s b o (setFld (reg s b o) 31 0 (fld val 31 0))))))
    ∧ (regKey sp off = some (rk b o + 4) → tripleOfClear b o = none → (o = 0x70 → isCtxBlk b = true) → writeGated s b o = false →
      plainRegister b o = true →
      exec (.registerWrite rq sp off 4 val) s = afterReg s rq (rk b o + 4) 4 (setReg s b o (writtenWord s b o (setFld (reg s b o) 63 32 (fld val 31 0)))))
    ∧ (∀ f ∈ regFields b o, ((f.ty = .rw ∨ f.ty = .rwd ∨ (f.ty = .wo ∧ keepsWo b o = true)) → fld w f.hi f.lo = fld val f.hi f.lo)
        ∧ ((f.ty = .ro ∨ f.ty = .sqc ∨ (f.ty = .wo ∧ keepsWo b o = false)) → fld w f.hi f.lo = rf s b o f.hi f.lo))
    ∧ (∀ i, i < 64 → (∀ f ∈ regFields b o, ¬(f.lo ≤ i ∧ i ≤ f.hi)) → flag w i = flag val i)
    ∧ (∀ size, regKey sp off = some (rk b o) → size ≠ 4 → size ≠ 8 →
        exec (.registerWrite rq sp off size val) s = afterReg s rq (rk b o) size (raise s b (hdrOff b + 8) 62))
    ∧ (regKey sp off = some (rk b o + 4) → exec (.registerWrite rq sp off 8 val) s = afterReg s rq (rk b o + 4) 8 (raise s b (hdrOff b + 8) 62))
    ∧ (regKey sp off = some (rk b o) → tripleOfClear b o = none → writeGated s b o = true →
      exec (.registerWrite rq sp off 8 val) s = afterReg s rq (rk b o) 8 (ignoredWrite s b o)
      ∧ (mapWf regDefault s.regs = true → o < 2 ^ 20 → o ≠ hdrOff b + 8 → o ≠ hdrOff b + 0x10 →
          reg (ignoredWrite s b o) b o = reg s b o ∧ rbit (ignoredWrite s b o) b (hdrOff b + 8) 63 = true
          ∧ rf (ignoredWrite s b o) b (hdrOff b + 8) 31 24 = min 255 (rf s b (hdrOff b + 8) 31 24 + 1)
          ∧ rf (ignoredWrite s b o) b (hdrOff b + 8) 51 32
              = if rbit s b (hdrOff b + 8) 63 then rf s b (hdrOff b + 8) 51 32 else o))

/-- R45: a clear attempt that names the current sequence zeroes every SQC field of its status registers in one step and changes no other
bit; one that does not, and a write to the upper bytes only, changes nothing; the sequence register stays. -/
def Obligations.ClearsCompareTheSequence : Prop :=
  ∀ (s t : State) (rq : Requester) (b : Blk) (r off size v : Nat) (sp : RegSpace) (val : Word) (sts : List Nat) (seq : Nat),
    mapWf regDefault s.regs = true → tripleOfClear b r = some (sts, seq) → regFields b r ≠ [] → r ≠ hdrOff b → r % 8 = 0 →
    requesterReaches s rq b = true → windowLives s b = true → (rq = .pmc → b = .pwr) → writePerformed s b r = true → heldAccs s b = [] →
    locate (rk b r) = some (b, r) → locate (rk b r + 4) = some (b, r + 4) → v = fld val 15 0 → t = clearStatus s b sts seq v →
    (regKey sp off = some (rk b r) → (size = 8 ∨ size = 4) → exec (.statusClear rq sp off size val) s = afterReg s rq (rk b r) size t)
    ∧ (regKey sp off = some (rk b r + 4) → exec (.statusClear rq sp off 4 val) s = afterReg s rq (rk b r + 4) 4 s)
    ∧ (v ≠ rf s b seq 15 0 → t = s)
    ∧ (v = rf s b seq 15 0 → ∀ o ∈ sts, (∀ f ∈ regFields b o, f.ty = .sqc → rf t b o f.hi f.lo = 0)
        ∧ (∀ i, i < 64 → (∀ f ∈ regFields b o, f.ty = .sqc → ¬(f.lo ≤ i ∧ i ≤ f.hi)) → flag (reg t b o) i = flag (reg s b o) i))
    ∧ reg t b seq = reg s b seq

/-- The registers that hold commands (R38): a write that is performed does what its command fields say, and a command field written 0
starts nothing. -/
def Obligations.RegisterCommandsAct : Prop :=
  ∀ (s : State) (rq : Requester) (val : Word),
    (Accepts s rq .gfe 0x2010 → exec (.tblEpochCfgWrite rq val) s = afterReg s rq (rk .gfe 0x2010) 8 (let t := setReg s .gfe 0x2010 (writtenWord s .gfe 0x2010 val)
      if running t && epochDue t then advanceEpoch t else t))
    ∧ (∀ c : CtxIx, Accepts s rq (.ctx c) 0x8440 → exec (.keyLoad rq c val) s = afterReg s rq (rk (.ctx c) 0x8440) 8 (keyCmd s c val)
        ∧ exec (.keyZero rq c val) s = afterReg s rq (rk (.ctx c) 0x8440) 8 (keyCmd s c val) ∧ (flag val 63 = false → keyCmd s c val = s))
    ∧ (Accepts s rq .gfe 0x2200 → flag val 63 = true → s.inv.length < 64 → ∃ t, exec (.xltInvReq rq val) s = afterReg s rq (rk .gfe 0x2200) 8 t
        ∧ t = { setReg s .gfe 0x2200 (writtenWord s .gfe 0x2200 val) with inv := s.inv ++ [BitVec.ofNat 12 (fld val 11 0)] })
    ∧ (∀ c : CtxIx, Accepts s rq (.ctx c) 0x8088 → flag val 63 = true → fld val 11 0 < fenceCount s c →
        exec (.ctxFset rq c val) s = afterReg s rq (rk (.ctx c) 0x8088) 8 (fenceWrite s c (fld val 11 0) (reg s (.ctx c) 0x8080)))
    ∧ (∀ c : CtxIx, Accepts s rq (.ctx c) 0x8078 → exec (.ctxAbort rq c val) s = afterReg s rq (rk (.ctx c) 0x8078) 8 (if flag val 63 then abortStarted s c else s))
    ∧ (Accepts s rq .gfe 0x110 → exec (.intAckArm rq val) s
        = afterReg s rq (rk .gfe 0x110) 8 (if flag val 0 && msiEn s then { s with ep := { s.ep with msiArm := true } } else s))
    ∧ (Accepts s rq .gfe 0x3008 → exec (.warmReset (.reg rq val)) s
        = afterReg s rq (rk .gfe 0x3008) 8 (if flag val 63 ∧ fld val 15 0 = 0x57A7 then hostLoss s 3 3 else s))
    ∧ exec (.warmReset .pin) s = after (hostLoss s 2 3)
    ∧ (Accepts s rq .ep 0x20008 → phase s = 3 →
        (flag val 63 = true → exec (.bankReattach rq val) s = afterReg s rq (rk .ep 0x20008) 8 { s with power := { s.power with computeOn := true } })
        ∧ (flag val 63 = false → flag val 62 = true → exec (.bankDiscard rq val) s = afterReg s rq (rk .ep 0x20008) 8 (bankDiscard s)))
    ∧ (Accepts s rq .gfe 0x3108 → flag val 63 = true → exec (.mcLoad rq val) s = afterReg s rq (rk .gfe 0x3108) 8 (if phase s = 1 then
        gfeAsk (setRf (setRf { s with mcImage := none } .gfe 0x3110 63 32 0) .gfe 0x3110 8 8 1) (imageLines s)
        else setRf s .gfe 0x3110 7 0 6))
    ∧ (∀ cl : ClusterIx, Accepts s rq (.cluster cl) 0x608 → exec (.clRejoin rq cl val) s = afterReg s rq (rk (.cluster cl) 0x608) 8 (clRejoin s cl.val val))
    ∧ (∀ cl : ClusterIx, Accepts s rq (.cluster cl) 0x610 → ∀ w, w = writtenWord s (.cluster cl) 0x610 val →
        exec (.clFenceSet rq cl val) s = afterReg s rq (rk (.cluster cl) 0x610) 8 (clFence s cl.val w) ∧ exec (.clFenceLift rq cl val) s = afterReg s rq (rk (.cluster cl) 0x610) 8 (clFence s cl.val w))
    ∧ (∀ n : Fin 4, Accepts s rq (.fmp n) 0x108 → ∀ w, w = writtenWord s (.fmp n) 0x108 val →
        exec (.slotPccOn rq n val) s = afterReg s rq (rk (.fmp n) 0x108) 8 (slotCtl s n.val w) ∧ exec (.slotPccOff rq n val) s = afterReg s rq (rk (.fmp n) 0x108) 8 (slotCtl s n.val w)
        ∧ exec (.slotIndicatorWrite rq n val) s = afterReg s rq (rk (.fmp n) 0x108) 8 (slotCtl s n.val w))
    ∧ (Accepts s rq .dt 0x150 → flag val 63 = true → fld val 62 8 = 0 → exec (.dtRevive rq val) s
        = afterReg s rq (rk .dt 0x150) 8 (setAlive (setPeer s (fld val 7 0) { peer s (fld val 7 0) with lastBeat := s.stc }) (fld val 7 0) true))
    ∧ (∀ n : Fin 16, Accepts s rq .dt (0x3000 + 32 * n.val) → ∀ w, w = writtenWord s .dt (0x3000 + 32 * n.val) val →
        (chanBound s n.val = false → flag w 63 = true → exec (.dtChBind rq n val) s = afterReg s rq (rk .dt (0x3000 + 32 * n.val)) 8 (chanBind s n.val w))
        ∧ (chanBound s n.val = true → flag w 63 = false → exec (.dtChUnbind rq n val) s = afterReg s rq (rk .dt (0x3000 + 32 * n.val)) 8 (chanUnbind s n.val)))
    ∧ (∀ b, isCtxBlk b = false → locate (rk b 0x70) = some (b, 0x70) → regFields b 0x70 ≠ [] → Accepts s rq b 0x70 →
        exec (.finjGo rq b val) s = afterReg s rq (rk b 0x70) 8 (finj s b val))
    ∧ (Accepts s rq .pwr 0x110 → ∀ w, w = writtenWord s .pwr 0x110 val →
        exec (.forceHalfWrite rq val) s = afterReg s rq (rk .pwr 0x110) 8 (setHalfReq (setReg s .pwr 0x110 w) 2 (flag w 63)))
    ∧ (Accepts s rq .dbg 0x200 → ∀ t, t = setReg s .dbg 0x200 (writtenWord s .dbg 0x200 val) →
        (flag val 63 = true → flag val 62 = false → exec (.quenchGo rq val) s = afterReg s rq (rk .dbg 0x200) 8 (quenchTrigger t 2))
        ∧ (flag val 62 = true → flag val 63 = false → exec (.quenchRelease rq val) s = afterReg s rq (rk .dbg 0x200) 8 (quenchRelease t)))
    ∧ (Accepts s rq .dbg 0x300 → exec (.traceEnable rq val) s = afterReg s rq (rk .dbg 0x300) 8 (traceCtl s 0x300 (reg s .dbg 0x300) (writtenWord s .dbg 0x300 val)))
    ∧ (∀ w : Fin 8, Accepts s rq .dbg (0x400 + 32 * w.val) →
        exec (.watchArm rq w val) s = afterReg s rq (rk .dbg (0x400 + 32 * w.val)) 8 (watchCtl s w.val (writtenWord s .dbg (0x400 + 32 * w.val) val)))

/-- R36, R41, R42: a write that sets EN on an idle block enables it on a copy of its RWD registers, with IDLE 0 (a context, a cluster, a
port and Dovetail do the rest of `enabledBlock` with it); one that clears EN disables the block; IDLE becomes 1 when the disabled block
has drained, and not before; an enable of a block that still drains is held and, once IDLE is 1, does what it does at an idle block; later
accesses wait behind it. A key command takes effect in the controllers after the write that gave it (R260). -/
def Obligations.BlocksEnableAndDrain : Prop :=
  (∀ (s e : State) (rq : Requester) (b : Blk) (val w : Word) (o : Nat), mapWf regDefault s.regs = true → mapWf (fun _ => 0) s.work = true →
    mapWf (fun _ => []) s.held = true → regsLive s b = true → o = hdrOff b → w = writtenWord s b o val →
    requesterReaches s rq b = true → windowLives s b = true → (rq = .pmc → b = .pwr) → writePerformed s b o = true → heldAccs s b = [] →
    locate (rk b o) = some (b, o) → e = enabledBlock (setReg s b o (setFld w 0 0 0)) b →
    (flag w 0 = true → blkEn s b = false → rbit s b (o + 8) 0 = true →
      exec (.blkEnable rq b val) s = afterReg s rq (rk b o) 8 e
      ∧ exec (.blkHeldEnable b) (setHeldAccs s b [{ rq, key := rk b o, size := 8, val }]) = after e
      ∧ ((b = .gfe ∨ b = .ep ∨ b = .pwr ∨ b = .dbg ∨ (∃ n, b = .core n) ∨ (∃ n, b = .stack n) ∨ ∃ n, b = .drawer n) →
          blkEn e b = true ∧ rbit e b (o + 8) 0 = false
          ∧ ∀ r, r < blkSize b → (regFields b r).any (fun f => f.ty = .rwd) = true → wk e b r = reg s b r))
    ∧ (flag w 0 = true → blkEn s b = false → rbit s b (o + 8) 0 = false →
      exec (.blkEnable rq b val) s = afterReg s rq (rk b o) 8 (setHeldAccs s b [{ rq, key := rk b o, size := 8, val }]))
    ∧ (flag w 0 = false → blkEn s b = true → ∃ t, exec (.blkDisable rq b val) s = afterReg s rq (rk b o) 8 t
      ∧ t = disableBlock (setReg s b o (setFld w 0 0 1)) b ∧ (isCtxBlk b = false → blkEn t b = false)))
  ∧ (∀ (s : State) (b : Blk), blkEn s b = false → rbit s b (hdrOff b + 8) 0 = false →
      exec (.blkDrainDone b) s = (if drained s b && regsLive s b then after (setRf s b (hdrOff b + 8) 0 0 1) else .next (settleIrq s)))
  ∧ (∀ (s : State) (b : Blk) (h : HeldAcc) (l : List HeldAcc), heldAccs s b = h :: l → rbit s b (hdrOff b + 8) 0 = true → regsLive s b = true →
      exec (.blkHeldEnable b) s = after (performHeld (h :: l) (setHeldAccs s b [])))
  ∧ (∀ (s : State) (rq : Requester) (b : Blk) (o : Nat) (val : Word) (h : HeldAcc) (l : List HeldAcc), heldAccs s b = h :: l →
      requesterReaches s rq b = true → windowLives s b = true → (rq = .pmc → b = .pwr) → writePerformed s b o = true →
      locate (rk b o) = some (b, o) → o % 8 = 0 → regFields b o ≠ [] →
      performWrite s { rq, key := rk b o, size := 8, val } = setHeldAccs s b (h :: l ++ [{ rq, key := rk b o, size := 8, val }]))
  ∧ (∀ (s : State) (slot : BitVec 10) (e : Nat × Option (BitVec 512)), (s.keyPend.find? fun x => x.1 = slot.toNat) = some e →
      exec (.keyEffective slot) s = after { s with keyPend := s.keyPend.erase e, keys := mapSet (fun _ => none) s.keys e.1 e.2 })

/-! Translation, task switches and the global front end. -/

/-- R304, R310-R320: a mirror walk ends as its entry says; an ATS completion serves every access that waits for its page; a page group's
response lets its fault go on, or ends it where the host refuses; a granule's lines are copied through the device cache, and after the
last its state names its unit and its accesses resume; an invalidation completes once the
older accesses have, and the answer to a translation asked for before it is discarded. -/
def Obligations.TranslationWorkCompletes : Prop :=
  ∀ (s : State), running s = true →
    (∀ (cl : ClusterIx) (n : Nat) (t : Trk), (cluster s cl.val).trk[n]? = some t → t.stage = .walk →
        exec (.mirrorWalkDone cl n) s = after (dropSpent (walkFinish s cl.val t)))
    ∧ (∀ (c : CtxIx) (page : Nat) (res : AtsResult) (waits : Trk → Bool), (c, page) ∉ s.atsStale → mapWf (fun _ => clusterInit) s.clusters = true →
        (∀ x, waits x = (decide (x.ctx = c) && decide (x.stage = .ats) && decide (hostPageOf x = page))) →
        (∀ (cl : Nat) (t : Trk) (u : State), (cluster s cl).trk.filter waits = [t] → u = atsFinish s cl t res →
          (∀ x, x ≠ cl → (cluster s x).trk.filter waits = [] ∧ (cluster u x).trk.filter waits = []) →
          (u.faults.filter fun f => decide (f.ctx = c) && decide (f.page = page) && f.ats) = [] →
          (u.migs.filter fun m => decide (m.ctx = c) && decide (m.wait = .ats) && decide (migPage m = page)) = [] →
          mapFind? u.atsCpl c.toNat = none → exec (.atsCompletion c page res) s = after u)
        ∧ (∀ (f : PageReq) (u : State), (∀ x, (cluster s x).trk.filter waits = []) → u = faultFinish s f res →
          (s.migs.filter fun m => decide (m.ctx = c) && decide (m.wait = .ats) && decide (migPage m = page)) = [] →
          (s.faults.filter fun f => decide (f.ctx = c) && decide (f.page = page) && f.ats) = [f] → mapFind? u.atsCpl c.toNat = none →
          exec (.atsCompletion c page res) s = after u))
    ∧ (∀ (c : CtxIx) (page target size : Nat) (r w : Bool) (e : RangeEnt), (c, page) ∉ s.atsStale → s.clusters = [] → s.migs = [] → s.faults = [] →
        mapFind? s.atsCpl c.toNat = some e → e.rend = 0 → e.start = page * 4096 →
        exec (.atsCompletion c page (.done target size r w)) s
          = after { s with atsCpl := mapPut s.atsCpl c.toNat (cplEnt c page target size r w) })
    ∧ (∀ (c : CtxIx) (page : Nat) (res : AtsResult), (c, page) ∈ s.atsStale →
        exec (.atsCompletion c page res) s = after { s with atsStale := s.atsStale.erase (c, page) })
    ∧ (∀ (n : Nat) (f : PageReq) (p : State), (s.faults.find? fun x => x.prg = some n) = some f → p = progress s f.ctx →
        exec (.prgResponse n .invalid) s = after (dropFault (failPage p f.ctx f.page) f)
        ∧ (atsEn p = true → pasidEn p = true → ∀ u, u = updFault p f { f with prg := none, ats := true } →
          exec (.prgResponse n .success) s
            = after (sendPageReqs (globalCtr (upstream u (.atsReq (pasidOf u f.ctx) (atsAddr u f.page) (!f.write))) 117 1)))
        ∧ ∃ u, exec (.prgResponse n .failure) s = after u ∧ u.ep.priBlocked = true)
    ∧ (∀ (c : CtxIx) (page unit steps : Nat) (m : Mig),
        (s.migs.find? fun m => decide (m.ctx = c) && decide (m.ent.start ≤ page * 4096) && decide (page * 4096 < m.ent.start + m.ent.len))
          = some m → (s.migs.find? fun x => decide (x.ctx = c) && decide (x.gst = m.gst)) = some m → m.unit = some unit →
        (0 < steps → m.gsize ≤ 64 * m.pos → gfeReady s (canon m.gst) 8 = true → exec (.granuleMigrate c page steps) s
          = after (resumeGran (gfeWriteWord s m.gst (place 63 62 2 ||| place 51 16 (unit / 65536))) m))
        ∧ (0 < steps → 64 * m.pos < m.gsize → m.xl = none → exec (.granuleMigrate c page steps) s = after (if m.wait = .none then migAsk s m else s))
        ∧ (∀ h t n, 1 < steps → atsOn s = true → 64 * m.pos < m.gsize → m.xl = some h → (migChunk m unit h).run s = .ok () t →
            (t.migs.find? fun x => decide (x.ctx = c) && decide (x.gst = m.gst)) = some n → n.unit = some unit → n.gsize ≤ 64 * n.pos →
            n.gst = m.gst → gfeReady t (canon m.gst) 8 = true → exec (.granuleMigrate c page steps) s
              = after (resumeGran (gfeWriteWord t m.gst (place 63 62 2 ||| place 51 16 (unit / 65536))) n)))
    ∧ (∀ (c : BitVec 12) (rest : List (BitVec 12)) (u : State), s.inv = c :: rest → oldAccessesDone s = true →
        u = invalidate { performPackage s with inv := rest } (fun x => x = c) →
        exec .xltInvDone s = after (setRf u .gfe 0x2208 31 0 (rf u .gfe 0x2208 31 0 + 1)))
    ∧ (∀ (p : Option (BitVec 20)) (u : State), u = { invalidate s (atsInvMatch s p) with atsInv := s.atsInv ++ [p] } → running u = true →
        (oldAccessesDone u = true →
          exec (.atsInvalidationRequest p) s = after (u.atsInv.foldl (fun s _ => upstream s .atsInvCpl) { performPackage u with atsInv := [] }))
        ∧ (oldAccessesDone u = false → ∃ t, exec (.atsInvalidationRequest p) s = .next t ∧ t.atsInv = u.atsInv))
    ∧ (∀ (p : BitVec 12 → Bool) (cl : Nat), mapWf (fun _ => clusterInit) s.clusters = true → (∀ x ∈ (cluster (invalidate s p) cl).rb2, p x.ctx = false)
        ∧ (invalidate s p).mem = s.mem ∧ ((s.faults.filter fun f => f.ats && p f.ctx) = [] → (invalidate s p).regs = s.regs))

/-- R324-R331, R334: the GFE reads the ring slot at CONS, and takes one command up at a context's turn. A front command
that its rules accept acts as its code says: NOP retires, TASK captures its tables, WAIT
retires once its fence has reached its value, and one that waits is not evaluated before the GFE writes that fence, SIGNAL adds to its fence, at once or after the tasks before it, and CALL starts its
buffer. A command of another layout stops the context. -/
def Obligations.CommandsOfAContextAct : Prop :=
  ∀ (s : State) (c : CtxIx) (w : List Word), ctxReady s c = true → w.length = 8 →
    (fromRing s c = true → (gctx s c).slot = none → exec (.cmdNop c w) s = after (fetchSlot s c) ∧ exec (.cmdTask c w) s = after (fetchSlot s c)
      ∧ exec (.cmdWait c w) s = after (fetchSlot s c) ∧ exec (.cmdSignal c w) s = after (fetchSlot s c) ∧ exec (.cmdCall c w) s = after (fetchSlot s c))
    ∧ ((fromRing s c = true → (gctx s c).slot.isSome = true) →
      (myTurn s c = false → exec (.cmdNop c w) s = .next (settleIrq s) ∧ exec (.cmdTask c w) s = .next (settleIrq s) ∧ exec (.cmdWait c w) s = .next (settleIrq s)
        ∧ exec (.cmdSignal c w) s = .next (settleIrq s) ∧ exec (.cmdCall c w) s = .next (settleIrq s))
      ∧ (myTurn s c = true → ∀ ls, ls = cmdLines s c w → ls ≠ [] → exec (.cmdNop c w) s = after (gfeAsk s ls) ∧ exec (.cmdTask c w) s = after (gfeAsk s ls)
        ∧ exec (.cmdWait c w) s = after (gfeAsk s ls) ∧ exec (.cmdSignal c w) s = after (gfeAsk s ls) ∧ exec (.cmdCall c w) s = after (gfeAsk s ls))
      ∧ (myTurn s c = true → cmdLines s c w = [] → ∀ bad, bad = after (malformed s c) → nextIs s c w = .bad ∨ (nextIs s c w = .yes ∧ 4 < cmdCode w) →
        exec (.cmdNop c w) s = bad ∧ exec (.cmdTask c w) s = bad ∧ exec (.cmdWait c w) s = bad ∧ exec (.cmdSignal c w) s = bad ∧ exec (.cmdCall c w) s = bad)
      ∧ (myTurn s c = true → cmdLines s c w = [] → nextIs s c w = .yes → ∀ (t : BitVec 12) (f : Nat) (u : State),
        f = fld (wordAt w 0) 43 32 → t = BitVec.ofNat 12 (fld (wordAt w 0) 55 44) →
        u = (if (gctx s c).front.isSome then s else { s with turn := c + 1 }) →
        (cmdCode w = 0 → exec (.cmdNop c w) s = after (if nopOk w then retire u c else malformed s c))
        ∧ (cmdCode w = 1 → exec (.cmdTask c w) s = after (if taskOk s c w then taskReached u c w else malformed s c))
        ∧ (cmdCode w = 2 → waitOk s w = false → exec (.cmdWait c w) s = after (malformed s c))
        ∧ (cmdCode w = 2 → waitOk s w = true → (gctx s t).enabled = true →
          ((wordAt w 1).toNat ≤ (fenceValue s t f).toNat → (gctx s c).waitOn = none ∨ (gctx s c).recheck = true →
            exec (.cmdWait c w) s = after (retire u c))
          ∧ ((fenceValue s t f).toNat < (wordAt w 1).toNat → (gctx s c).waitOn = none → exec (.cmdWait c w) s
              = after (gfeRing (setGctx u c { gctx s c with waitOn := some (t.toNat, f), recheck := false, front := some w }) 0x22 c.toNat
                  (place 55 44 t.toNat ||| place 43 32 f ||| place 31 0 (wordAt w 1).toNat)))
          ∧ ((gctx s c).waitOn.isSome = true → (gctx s c).recheck = false → exec (.cmdWait c w) s = after u))
        ∧ (cmdCode w = 3 → signalOk s c w = false → exec (.cmdSignal c w) s = after (malformed s c))
        ∧ (cmdCode w = 3 → signalOk s c w = true → flag (wordAt w 0) 55 = false →
          exec (.cmdSignal c w) s = after (retire (fenceAdd u c f (wordAt w 1)) c))
        ∧ (cmdCode w = 3 → signalOk s c w = true → flag (wordAt w 0) 55 = true →
          exec (.cmdSignal c w) s = after (retire (setGctx u c { gctx s c with after := (gctx s c).after ++
            [{ fence := f, add := wordAt w 1, tasks := (s.tasks.filter fun t => decide (t.ctx = c) && t.issuedRec.isNone).map Task.id }] }) c))
        ∧ (cmdCode w = 4 → callOk s c w = false → exec (.cmdCall c w) s = after (malformed s c))
        ∧ (cmdCode w = 4 → callOk s c w = true →
          exec (.cmdCall c w) s = after (setGctx u c { gctx s c with slot := none, call := some (fld (wordAt w 1) 51 0, fld (wordAt w 2) 31 0, 0) }))))

/-- R327, R333: a captured task is placed on the cores its placement chooses; each of its cores, awake and free, then starts it at its
entry point with its arguments in R1 to R8 and every other register 0. R338-R342: a program that is offered leaves its core for a free
save slot of its context when another task waits for the core, and comes back with the state that its slot gives back. -/
def Obligations.TasksStartAndSwitch : Prop :=
  (∀ (s : State),
     (∀ (c : CtxIx) (p : Waiting) (cores : List Nat), ctxReady s c = true → Quiet s → (gctx s c).capd = some p → (liveTasks s).length < 8192 →
         tNlines p.words ≤ (freeLines s).length → placement s p.words = some cores → exec (.taskPlace c) s = after (taskPlaced s c p cores))
     ∧ (∀ (k : CoreIx) (task : Nat) (t : Task), running s = true → blkEn s (bCore k.val) = true → taskOf s task = some t → placedAt t k.val = true →
         t.started.contains k.val = false → prog? s k.val = none → (Machine.core s k.val).power = .c0 → coreStale s k.val = false →
         NoInjection s (bCluster (clusterOf k.val)) → s.raised = [] → ∃ u p, exec (.taskCoreStart k task) s = .next u ∧ prog? u k.val = some p
           ∧ p.pc = BitVec.ofNat 52 (tEntry t.words) ∧ p.ctx = t.ctx ∧ p.injig = false ∧ p.pend = []
           ∧ (∀ r : BitVec 6, sreg p r = if 1 ≤ r.toNat ∧ r.toNat ≤ 8 then wordAt (t.args.getD (idxIn t.cores k.val) []) (r.toNat - 1) else 0)
           ∧ u.mem = s.mem)
     ∧ (∀ (k : CoreIx) (task : Nat) (t : Task), taskOf s task = some t → placedAt t k.val = true → (Machine.core s k.val).power ≠ .c0 →
         exec (.taskCoreStart k task) s = after (requestWake s k.val)))
  ∧ (∀ (s : State) (k : CoreIx) (p : Prog), running s = true → Quiet s →
     (prog? s k.val = some p → p.yielding = true → p.injig = false → p.armed = false → p.leaving = none → enginesQuiet s k.val p = true →
       (∀ slot, otherReady s k.val p.task = true → freeSlot s p.ctx = some slot → exec (.taskSwitchOut k) s = after (switchOut s k.val p slot))
       ∧ (freeSlot s p.ctx = none → exec (.taskSwitchOut k) s = after (updProg s k.val fun q => { q with yielding := false })))
     ∧ (∀ (task slot : Nat) (t : Task) (u v : State) (f : Nat × State), prog? s k.val = none → taskOf s task = some t → mapFind? t.saved k.val = some (slot, p) →
       placedAt t k.val = true → canResume s t k.val = true →
       ((Machine.core s k.val).power ≠ .c0 → exec (.taskSwitchIn k task) s = after (requestWake s k.val))
       ∧ ((Machine.core s k.val).power = .c0 → coreStale s k.val = false → clusterStale s (clusterOf k.val) = false →
           (readSlot s p slot).1.2 = false → f = freeNat (updTask (readSlot s p slot).2 task fun x => { x with saved := mapDel x.saved k.val }) →
           u = setProg f.2 k.val (restoreProg p (readSlot s p slot).1.1 f.1) →
           v = clusterRing u (clusterOf k.val) 0x11 p.ctx.toNat (place 2 0 (k.val % 8) ||| place 63 32 p.taskId.toNat) →
           exec (.taskSwitchIn k task) s = after v ∧ prog? u k.val = some (restoreProg p (readSlot s p slot).1.1 f.1))))

/-- R297, R326, R330-R345: a watch line re-arms by a read of its header; a finished task's record is issued once its writes are done; the
zero-length read lets the record go on; a delayed signal adds to its fence after its tasks' records; an abort ends once the context's
tasks have; the watchdog reports undone work without progress for its interval. -/
def Obligations.ContextEventsAct : Prop :=
  ∀ (s : State) (c : CtxIx), running s = true →
    ((gctx s c).enabled = true → ringOk s c = true → (gctx s c).watch = false → arming s c = false →
        ∀ fclk, exec (.watchRearm c fclk) s = after (cxlRequest s (385 + c.toNat) 7 (headerLine s c) 0 [] false))
    ∧ (∀ task t, taskOf s task = some t → t.finished = true → t.issuedRec = none → taskWritesDone s t = true →
        exec (.cplRecordIssue task) s = after (recordStep s t))
    ∧ (∀ t rest, s.ep.flushWait = t :: rest → flushSent s = true →
        exec .ioflushReadComplete s = after { s with ep := { s.ep with flushWait := rest, flushed := s.ep.flushed ++ t.task.toList } })
    ∧ (∀ a rest, (gctx s c).after = a :: rest → afterReady s a = true → gfeWrites s = false → gfeReady s (canon (fenceCa s c a.fence)) 8 = false →
        exec (.afterSignal c) s = after (gfeSnoop s (canon (fenceCa s c a.fence)) 8))
    ∧ (∀ a rest u, (gctx s c).after = a :: rest → afterReady s a = true → gfeWrites s = false →
        gfeReady s (canon (fenceCa s c a.fence)) 8 = true → chanOf s c = none →
        u = fenceAdd (setGctx s c { gctx s c with after := rest }) c a.fence a.add → chanOf u c = none →
        exec (.afterSignal c) s = after (ctxAck (progress u c) c))
    ∧ (ctxAborting s c = true → abortDone s c = true → feeder s c = none →
        exec (.abortComplete c) s = after (ctxAck (raise (gfeRing
          (setRf (setRf (setRf s (.ctx c) 0x0 31 0 (gctx s c).prod.toNat) (.ctx c) 0x10 61 61 0) (.ctx c) 0x10 62 62 1)
          0x26 c.toNat 0) (.ctx c) 0x8020 4) c))
    ∧ (∀ iv n t f, iv = rf s (.ctx c) 0x8070 31 0 → iv ≠ 0 → undoneWork s c = true → 1000 * iv ≤ (s.stc - (gctx s c).lastProgress).toNat →
        (gctx s c).stalled = false → stallCause s c = (n, t, f) →
        exec (.wdogStall c) s = after (raise (setRf (setRf (setRf (setGctx s c { gctx s c with stalled := true }) (.ctx c) 0x10 60 59 n) (.ctx c) 0x10 56 45 t) (.ctx c) 0x10 44 33 f)
          (.ctx c) 0x8020 3))

/-! The endpoint, resets and bring-up. -/

/-- R349-R363: what the host's configuration commands do while the endpoint answers configuration requests: a write changes the writable
bits of its bytes alone, Bus Master Enable and D3hot hold and release requests, MSI is enabled and unmasked, page requests are
re-enabled, an FLR starts, a decoder commits where its range is legal, and holds Commit Error else; a ROM read returns the ROM's bytes. A write at or above
offset 0x400 is refused: it belongs to the I/O die, whose registers the manual does not give (R1, R347). Before the function is ready and
during an FLR a configuration request gets Request Retry Status (R361, R372). -/
def Obligations.EndpointCommandsAct : Prop :=
  (∀ (s : State), s.ep.linkUp = true → cfgUp s = false → ∀ i ∈ [.msiEnable, .msiUnmask, .bmeClear, .bmeSet, .d3hotEnter, .d0Return, .priReenable,
      .flrInitiate, .doeAbort, .getVersion, .getDigests], exec i s = after (send s .retryStatus))
  ∧ (∀ (s : State) off size val, s.ep.linkUp = true → cfgUp s = false → (size = 1 ∨ size = 2 ∨ size = 4) → off % size = 0 → off < 4096 →
      exec (.configurationWrite off size val) s = after (send s .retryStatus))
  ∧ ∀ (s : State), cfgUp s = true →
    (∀ off size val o, (size = 1 ∨ size = 2 ∨ size = 4) → off % size = 0 → o = off / 4 * 4 →
      (off < 0x400 → exec (.configurationWrite off size val) s
          = after (cfgWrite s o (val <<< (8 * (off % 4))) (cfgMask (off % 4) size)))
      ∧ (0x400 ≤ off → off < 4096 → exec (.configurationWrite off size val) s = .refused .ioDieConfiguration))
    ∧ (∀ off v m i, mapWf cfgDefault s.ep.cfg = true → off ∉ [0x04, 0x44, 0x50, 0x60, 0x78, 0x204] → i < 32 →
        (cfgWord (cfgWrite s off v m) off).getLsbD i
          = if (cfgRw off).getLsbD i && m.getLsbD i then v.getLsbD i else (cfgWord s off).getLsbD i)
    ∧ exec .msiEnable s = after (if msiEn s then s else msiEnabled s) ∧ exec .msiUnmask s = after (msiUnmasked s)
    ∧ exec .bmeClear s = after (setBme s false) ∧ exec .bmeSet s = after (setBme s true)
    ∧ exec .d3hotEnter s = after (setPowerState s true) ∧ exec .d0Return s = after (setPowerState s false)
    ∧ exec .priReenable s = after (cfgWrite (cfgWrite s 0x204 0 1) 0x204 1 1)
    ∧ exec .flrInitiate s = after (flrStart s)
    ∧ (∀ (d : Fin 4) base size dpa bi, exec (.hdmDecoderCommit d base size dpa bi) s
        = after (setDecoder s d.val { committed := decoderOk s d.val base size dpa, base, size, dpa, bi, failed := !decoderOk s d.val base size dpa }))
    ∧ (∀ off len, (claims s = true → cfgBit s 0x30 0 = true → off + len ≤ 0x1000000 →
          exec (.romRead off len) s = after (send (globalCtr s 73 len) (.cpl ((List.range len).map fun i => romByteAt s (off + i)) false)))
        ∧ (claims s = false ∨ cfgBit s 0x30 0 = false ∨ 0x1000000 < off + len → exec (.romRead off len) s = after (refuseRead s)))

/-- R356-R360: a DOE request is answered with its data object: discovery names the next protocol, SPDM answers in the order version,
capabilities, algorithms, and then digests, certificates, challenges and measurements, and UnexpectedRequest before that; a CDAT read
answers an entry; an abort clears the mailbox's busy and error bits and empties both mailboxes. -/
def Obligations.DoeRequestsAreAnswered : Prop :=
  ∀ (s : State), cfgUp s = true →
    exec (.doeDiscovery 0) s = after (doeSend s 1 0 [1, 0, 0, 1]) ∧ exec (.doeDiscovery 1) s = after (doeSend s 1 0 [1, 0, 1, 2])
    ∧ exec (.doeDiscovery 2) s = after (doeSend s 1 0 [0x98, 0x1E, 2, 0])
    ∧ exec .doeAbort s = after { s with ep := { s.ep with doeBusy := false, doeIn := [], doeOut := [], doeErr := false } }
    ∧ exec .getVersion s = after (setSpdm (doeSend s 1 1 [0x10, 0x04, 0, 0, 0, 1, 0, 0x12]) 1)
    ∧ (∀ fl, 1 ≤ s.ep.spdm → exec (.getCapabilities 0x12 fl) s = after (setSpdm (doeSend s 1 1
        [0x12, 0x61, 0, 0, 0, 0, 0, 0, 0x16, 0, 0, 0, 0, 0, 4, 0, 0, 0, 4, 0]) (max 2 s.ep.spdm)))
    ∧ (∀ a h, 2 ≤ s.ep.spdm → ∃ t, exec (.negotiateAlgorithms a h) s = after t ∧ t.ep.spdm = 3)
    ∧ (3 ≤ s.ep.spdm → exec .getDigests s = after (spdmSend s 0x12 0x01 0 1 chainDigest)
        ∧ (∀ off len p, off.toNat < Config.certChain.length → p = (Config.certChain.drop off.toNat).take len.toNat →
            exec (.getCertificate off len) s
              = after (spdmSend s 0x12 0x02 0 0 (toBytes 2 p.length ++ toBytes 2 (Config.certChain.length - off.toNat - p.length) ++ p)))
        ∧ (∀ nonce body, body = chainDigest ++ toBytes 32 (freeNat s).1 ++ List.replicate 48 0 ++ toBytes 2 0 →
            exec (.challenge nonce) s
              = after (spdmSend (freeNat s).2 0x12 0x03 0 1 (body ++ Config.spdmSign (toBytes 32 nonce.toNat ++ body))))
        ∧ (∀ op rec' body, 1 ≤ op.toNat → op.toNat ≤ 3 → rec' = measBlock s op.toNat →
            body = toBytes 1 1 ++ toBytes 3 rec'.length ++ rec' ++ toBytes 32 (freeNat s).1 ++ toBytes 2 0 →
            exec (.getMeasurements op) s = after (spdmSend (freeNat s).2 0x12 0x60 0 0 (body ++ Config.spdmSign body))))
    ∧ (s.ep.spdm < 3 → exec .getDigests s = after (spdmSend s 0x12 0x7F 4 0 []) ∧ ∀ n, exec (.challenge n) s = after (spdmSend s 0x12 0x7F 4 0 []))
    ∧ (∀ (i : BitVec 16) e, (cdatHeader :: cdatBody)[i.toNat]? = some e → ∃ n, exec (.cdatRead i) s
        = after (doeSend s 0x1E98 2 ([0, 0] ++ toBytes 2 n ++ e)) ∧ (n = 0xFFFF ∨ (cdatHeader :: cdatBody)[n]? ≠ none))

/-- R368, R369: power-on reset leaves the reset state; a warm reset loses programs, keys, image, host requests and drawer contents, leaves
PHASE INIT with its cause, and STC counts on; a host-loss trigger whose policy bit is set enters the banked state instead and keeps the
keys and the image; a retrain loses nothing; link down sets LINKDN; an FLR that is over sets FLRDONE. -/
def Obligations.ResetsKeepAndLose : Prop :=
  ∀ (s : State), rf s .dbg 0x200 59 58 = 0 → mapWf regDefault s.regs = true →
    exec .powerOnReset s
      = after { State.reset with pending := s.pending, freeCtr := s.freeCtr, harvest := s.harvest, out := s.out }
    ∧ (phase s ≠ 3 → (phase s = 1 ∨ rbit s .ep 0x20000 3 = false) → ∃ t, exec (.warmReset .pin) s = after t ∧ phase t = 0
        ∧ rf t .gfe 0x3000 3 0 = 2 ∧ (∀ c, prog? t c = none) ∧ (∀ k, keyAt t k = none) ∧ t.mcImage = none ∧ t.hreqs = [] ∧ t.devc = []
        ∧ t.tasks = [] ∧ t.stc = s.stc ∧ (∀ a, drawerBase 0 ≤ a → a < drawerBase 0 + 384 * drawerSize → memByte t a = 0))
    ∧ (phase s = 2 → rbit s .ep 0x20000 3 = true → rf s .ep 0x20018 51 12 ≠ 0 → ∃ t, exec (.warmReset .pin) s = after t ∧ phase t = 3
        ∧ rf t .ep 0x20010 3 0 = 2 ∧ (∀ c, prog? t c = none) ∧ t.keys = s.keys ∧ t.mcImage = s.mcImage ∧ t.stc = s.stc)
    ∧ exec .hotReset s = after (linkReset (hostLoss s 4 0))
    ∧ (∀ t, t = linkReset (hostLoss s 5 1) → exec .surpriseLinkDown s = after (raise { t with ep := { t.ep with linkUp := false } } .ep 0x100 1))
    ∧ exec .linkRetrain s = after s
    ∧ (intaLevel { s with ep := { s.ep with linkUp := true } } = false → exec .linkUp s = after { s with ep := { s.ep with linkUp := true } })
    ∧ (s.ep.flr = true →
        exec .flrComplete s = after (raise { s with ep := { s.ep with flr := false, cfgReady := true } } .ep 0x100 0))
    ∧ (phase s = 3 → s.power.computeOn = true → exec .reattachComplete s = after (reattached s))

/-- R372, R373: bring-up goes from the PLLs over the configuration space and basic service mode to RUN once an accepted image is there; a
load that passes every check is accepted with its version, any other is refused with the first failing check. -/
def Obligations.BringUpGoesInOrder : Prop :=
  ∀ (s : State),
    (phase s = 0 → s.power.plls = false →
        exec .bringupPllLock s = after { s with stcRun := true, power := { s.power with plls := true, hourAt := s.stc } })
    ∧ (s.power.plls = true → s.ep.cfgReady = false → exec .bringupConfigReady s = after { s with ep := { s.ep with cfgReady := true } })
    ∧ (phase s = 0 → s.power.plls = true → s.ep.cfgReady = true → ∃ t, exec .bringupBsmReady s = after t ∧ phase t = 1
        ∧ (∀ a, drawerBase 0 ≤ a → a < drawerBase 0 + 384 * drawerSize → memByte t a = 0)
        ∧ (mapWf regDefault s.regs = true → rbit t .gfe 0x3120 0 = true))
    ∧ (∀ i t, rbit s .gfe 0x3110 8 = true → imageLines s = [] → readImage s = some i →
        t = setRf (setRf s .gfe 0x3110 8 8 0) .gfe 0x3110 7 0 (imageCode i) →
        exec .mcLoadDone s = after (if imageCode i = 0 then setVer { t with mcImage := some i } else raise t .gfe 0x3120 2))
    ∧ (rbit s .gfe 0x3110 8 = true → imageLines s = [] → readImage s = none →
        exec .mcLoadDone s = after (raise (setRf (setRf s .gfe 0x3110 8 8 0) .gfe 0x3110 7 0 5) .gfe 0x3120 2))
    ∧ (rbit s .gfe 0x3110 8 = true → imageLines s ≠ [] → exec .mcLoadDone s = after (gfeAsk s (imageLines s)))
    ∧ (phase s = 1 → s.mcImage.isSome = true → rbit s .gfe 0x3110 8 = false → exec .bringupRun s = after (raise (bringRun s) .gfe 0x3120 1) ∧ phase (bringRun s) = 2
        ∧ (bringRun s).power.computeOn = true)

/-! Power, temper, debug. -/

/-- R427-R437: a die's oldest wake request gets a ramp token; the core wakes with a zeroed scratchpad where C3 lost it; engines power on at
request and off when idle; an idle core enters C2 and then C3; a supply dip starts half frequency, which ends after 5 us of good
supply; a rail that is lost for 20 ns is a power-on reset; the average of a power sample is that of its last 10,000 values; thermal excursions pause clocks and a trip above 120 degrees raises its condition; temper monitors are measured. -/
def Obligations.PowerCommandsAct : Prop :=
  ∀ (s : State) (k : CoreIx),
    (∀ (d : Fin 2) c rest t, mapGet (fun _ => []) s.power.wakeq d.val = c :: rest → (recentGrants s d.val).length < tokenRate s d.val →
        t = { s with power := { s.power with wakeq := mapSet (fun _ => []) s.power.wakeq d.val rest,
                                             grants := mapSet (fun _ => []) s.power.grants d.val (recentGrants s d.val ++ [s.stc]) } } →
        exec (.rampTokenGrant d) s
          = after (setCore (setRf t .pwr (0x120 + 8 * d.val) 63 32 (rf s .pwr (0x120 + 8 * d.val) 63 32 + 1)) c
              { Machine.core s c with waking := true, wakeAt := s.cclk }))
    ∧ ((Machine.core s k.val).waking = true → 2400 ≤ (s.cclk - (Machine.core s k.val).wakeAt).toNat → running s = true →
        coreEnabled s k.val = true → coreFenced s k.val = false →
        ((Machine.core s k.val).power = .c2 → exec (.coreWakeDone k) s
            = after (setCore s k.val { Machine.core s k.val with power := .c0, waking := false, idleAt := s.stc }))
        ∧ ((Machine.core s k.val).power = .c3 → rbit s (bCore k.val) 0x600 17 = false → ∃ t, exec (.coreWakeDone k) s = after t
            ∧ t = setCore (zeroRange s (spadBase k.val) spadSize) k.val { Machine.core s k.val with power := .c0, waking := false, idleAt := s.stc }
            ∧ ∀ a, spadBase k.val ≤ a → a < spadBase k.val + spadSize → memByte t a = 0))
    ∧ (∀ (e : Fin 6) (x : Core), x = Machine.core s k.val → x.engReq.getLsbD e.val = true → x.power = .c0 → running s = true →
        exec (.enginePowerOn k e) s = after (setCore s k.val
          { x with engReq := x.engReq &&& ~~~((1 : BitVec 6) <<< e.val), engOn := x.engOn ||| ((1 : BitVec 6) <<< e.val),
                   engAt := mapSet (fun _ => 0) x.engAt e.val s.cclk }))
    ∧ (∀ (e : Fin 6) (x : Core) th, x = Machine.core s k.val → th = rf s .pwr 0x118 31 16 → autoOn s = true → x.engOn.getLsbD e.val = true →
        queueEmpty s k.val e.val = true → injigAt s k.val = false → th ≠ 0 → th ≤ (s.cclk - mapGet (fun _ => 0) x.engAt e.val).toNat →
        exec (.enginePowerOff k e) s = after (setCore s k.val { x with engOn := x.engOn &&& ~~~((1 : BitVec 6) <<< e.val), idleAt := s.stc }))
    ∧ (∀ (x : Core) th t, x = Machine.core s k.val → th = rf s .pwr 0x118 63 48 → autoOn s = true → x.power = .c0 → coreQuiet s k.val = true → x.engOn = 0 →
        th ≠ 0 → 1000 * th ≤ (s.stc - x.idleAt).toNat → t = flushCore s k.val →
        exec (.coreEnterC2 k) s = after (setCore t k.val { Machine.core t k.val with power := .c2, rb := [], engReq := 0, ncLine := none }))
    ∧ (∀ (x : Core) th t, x = Machine.core s k.val → th = rf s .pwr 0x118 47 32 → autoOn s = true → x.power = .c2 → x.waking = false →
        coreEnabled s k.val = true → coreFenced s k.val = false →
        nonePlaced s k.val = true → th ≠ 0 → 1000000 * th ≤ (s.stc - x.freeAt).toNat →
        t = zeroRange (setCore s k.val { x with power := .c3 }) (spadBase k.val) spadSize →
        exec (.coreEnterC3 k) s = after (if coreStale t k.val then t else departCore t k.val true))
    ∧ (∀ (r : Rail) mv u, u = noteRail s r mv → (railWatched s r = false → exec (.dipBegin r mv) s = .next (settleIrq s))
        ∧ (railWatched s r = true → (railLost u = true → r ∈ [.drawer, .stack, .endpoint] → exec (.dipBegin r mv) s = after (powerOnReset u))
          ∧ (railLost u = true → ∀ d, r = .core d → exec (.dipBegin r mv) s = after (powerOnReset u))
          ∧ (railLost u = false → (∀ d, r = .core d → exec (.dipBegin r mv) s = after (railReading u d.val mv))
            ∧ (r ∈ [.drawer, .stack, .endpoint] → exec (.dipBegin r mv) s = after u))))
    ∧ (∀ (d : Fin 2) mv t, mapWf regDefault s.regs = true → t = railReading s d.val mv →
        rbit t .pwr 0x108 0 = (rbit s .pwr 0x108 0 || decide (mv.toNat < 665)))
    ∧ (∀ t, s.power.okSince = some t → rbit s .pwr 0x108 0 = true → 5000 ≤ (s.stc - t).toNat →
        exec .dipRestore s = after (raise (setHalfReq s 0 false) .pwr 0x140 2))
    ∧ (∀ a b, exec (.powerSample a b) s = if avgFits (wattsNext s a) b.toNat then after (powerSampled s a b) else .next (settleIrq s))
    ∧ (∀ (cl : ClusterIx) (t : BitVec 8) u, u = noteTemp s cl.val (some t.toNat) →
        (t.toNat ≤ tpause s → exec (.thermPauseBegin cl t) s = after s)
        ∧ (tpause s < t.toNat → t.toNat ≤ 120 → (Machine.cluster s cl.val).excursion = true → exec (.thermPauseBegin cl t) s = after u)
        ∧ (tpause s < t.toNat → t.toNat ≤ 120 → (Machine.cluster s cl.val).excursion = false → exec (.thermPauseBegin cl t) s
            = after (raiseFault (setCluster (raiseAt u .pwr 0x140 0x148 (place 4 4 1)) cl.val
                { Machine.cluster u cl.val with excursion := true, pauseFrame := none }) .pwr 1 none none))
        ∧ (120 < t.toNat → condHolds s .pwr 3 = false → (Machine.cluster s cl.val).excursion = true →
            exec (.thermPauseBegin cl t) s = after (condStart (raiseAt u .pwr 0x140 0x148 (place 5 5 1)) .pwr 3))
        ∧ (120 < t.toNat → condHolds s .pwr 3 = false → (Machine.cluster s cl.val).excursion = false →
            exec (.thermPauseBegin cl t) s = after (condStart (raiseFault (setCluster (raiseAt u .pwr 0x140 0x148 (place 4 4 1 ||| place 5 5 1)) cl.val
                { Machine.cluster u cl.val with excursion := true, pauseFrame := none }) .pwr 1 none none) .pwr 3)))
    ∧ (∀ (t : BitVec 8) u, u = noteTemp s 48 (some t.toNat) →
        (t.toNat ≤ 120 → exec (.thermTrip t) s = after s)
        ∧ (120 < t.toNat → exec (.thermTrip t) s
            = after (if condHolds s .pwr 3 then u else condStart (raiseAt u .pwr 0x140 0x148 (place 5 5 1)) .pwr 3)))
    ∧ (∀ cl : ClusterIx, ((Machine.cluster s cl.val).excursion = true → running s = true → pauseFrameOk s cl.val = true →
          exec (.thermalClockPause cl) s = after (clockPause s cl.val))
        ∧ exec (.thermalExcursionEnd cl) s = after (noteTemp (setCluster s cl.val { Machine.cluster s cl.val with excursion := false }) cl.val none))
    ∧ exec .pllUnlock s = after (raiseFault s .pwr 4 none none)
    ∧ (∀ (m : Fin 128) v, exec (.temperMeasure m v) s = if temperDue s m.val then after (temperMeasured s m.val v) else .next (settleIrq s))
    ∧ (hourNs ≤ (s.stc - s.power.hourAt).toNat → ∀ t, t = { s with power := { s.power with hourAt := s.power.hourAt + BitVec.ofNat 64 hourNs } } →
        exec .temperHourTick s = after (setRf t .pwr 0x210 31 0 (rf s .pwr 0x210 31 0 + 1)))

/-- R446-R456: the trace FIFOs drain into memory where no error is armed; a watch copies its chunk; a quench starts
from its pin or its time, stops at its edge, 10.0 to 14.8 ns after it at FULL and 20.0 to 29.6 ns at HALF, and ends at its restart; the window and JTAG read what is frozen; a JTAG
update writes the register it names. -/
def Obligations.DebugCommandsAct : Prop :=
  ∀ (s : State),
    (∀ (f : Option ClusterIx) n r rest a, n = (match f with
        | some c => c.val
        | none => 48) → (Machine.fifo s n).recs = r :: rest → a = traceSlot s → running s = true → 10 ≤ traceLog2 s → traceLog2 s ≤ 30 →
        a + 32 ≤ 12 * stackSize → NoInjection s .dbg →
        exec (.traceFifoDrain f) s = after (if gfeReady s a 32 then kerf (traceWrite (setFifo s n { Machine.fifo s n with recs := rest }) r) n
          else gfeSnoop s a 32))
    ∧ (∀ (w : Fin 8) x, watchPendOf s w.val = some x → running s = true → watchReady s x = true →
        exec (.watchCopy w) s = after (if gfeReady s (watchDst s w.val) (64 * watchLen s w.val) then watchCopied s w.val x
          else gfeSnoop s (watchDst s w.val) (64 * watchLen s w.val)))
    ∧ (rbit s .dbg 0x200 61 = true → exec .quenchPin s = after (quenchTrigger s 1))
    ∧ (rbit s .dbg 0x200 60 = true → (reg s .dbg 0x208).toNat ≤ s.stc.toNat → exec .quenchAtReached s = after (quenchTrigger s 3))
    ∧ (∀ n, (rf s .dbg 0x200 59 58 ≠ 0 → quenchTrigger s n = s) ∧ (rf s .dbg 0x200 59 58 = 0 → n < 4 → mapWf regDefault s.regs = true →
        qState (quenchTrigger s n) = 1 ∧ rf (quenchTrigger s n) .dbg 0x200 57 56 = n ∧ reg (quenchTrigger s n) .dbg 0x210 = s.stc))
    ∧ (∀ (ofs : BitVec 16) (q : QuenchEdge), qState s = 1 → s.qedge = some q → s.cclk = q.edge → 160 ≤ ofs.toNat → ofs.toNat ≤ 473 →
        (q.moved = true ∨ (q.half = true ∧ 320 ≤ ofs.toNat) ∨ (q.half = false ∧ ofs.toNat ≤ 236)) →
        exec (.quenchStop ofs) s = after (raise (setRf (setRf { s with qedge := none } .dbg 0x200 59 58 2) .dbg 0x220 15 0 ofs.toNat) .dbg 0x100 2))
    ∧ (qState s = 3 → exec .quenchRestart s = after (serveAllSnoops (quenchOver s)))
    ∧ (∀ off len r, r = frozenBytes s (rf s .dbg 0x218 63 56) (rf s .dbg 0x218 55 44) (rf s .dbg 0x218 19 0 * 65536 + off) len →
        (claims s = true → off + len ≤ 0x10000 → 1 ≤ len → len ≤ 64 → exec (.quenchWindowRead off len) s = after (send (globalCtr r.2 73 len) (.cpl r.1 false)))
        ∧ (claims s = false → exec (.quenchWindowRead off len) s = after (refuseRead s)))
    ∧ (∀ tdi, exec (.jtagBypass tdi) s = after { sendJtag s (BitVec.ofNat 512 (boolNat s.jtagBypass)) with jtagBypass := tdi })
    ∧ (∀ v, exec (.jtagDbgaddr v) s = after { s with jtagAddr := v })
    ∧ (∀ r : List Byte × State, fld s.jtagAddr 63 56 ≠ 0xFF →
        r = frozenBytes s (fld s.jtagAddr 63 56) (fld s.jtagAddr 55 44) (fld s.jtagAddr 35 0 * 64) 64 →
        exec .jtagDbgdata s
          = after { sendJtag r.2 (BitVec.ofNat 512 (ofBytes r.1)) with jtagAddr := setFld s.jtagAddr 35 0 (fld s.jtagAddr 35 0 + 1) })
    ∧ (∀ r, fld s.jtagAddr 63 56 = 0xFF → (∀ i, i < 8 → portHeld s (fld s.jtagAddr 35 0 * 64 + 8 * i) = false) → r = bar0Words (fld s.jtagAddr 35 0 * 64) 8 s → exec .jtagDbgdata s
        = after { sendJtag r.2 (BitVec.ofNat 512 (ofBytes (bytesOfWords r.1))) with
          jtagAddr := setFld s.jtagAddr 35 0 (fld s.jtagAddr 35 0 + 1) })
    ∧ (∀ r v, portHeld s (dbgOff s.jtagReg) = false → r = readReg s (dbgOff s.jtagReg) →
        v = BitVec.ofNat 128 (r.1.toNat * 2 ^ 64 + s.jtagReg.toNat % 2 ^ 64) →
        exec .jtagDbgregCapture s = after { sendJtag r.2 (v.setWidth 512) with jtagReg := v })
    ∧ (∀ v : BitVec 128, exec (.jtagDbgregUpdate v) s = after (if v.getLsbD 63 then
        performWrite { s with jtagReg := v } { rq := .jtag, key := dbgOff v, size := 8, val := BitVec.ofNat 64 (v.toNat / 2 ^ 64) }
        else { s with jtagReg := v }))

/-! Far memory and Dovetail. -/

/-- R387-R391: a slot goes from empty over powered and training to online as its module comes up, fails on a timeout or an unfit expander,
powers off once drained, and on removal or power fault loses its link, what the caches hold of it and what its expander held (log entry 3); an expander brings the chunks it holds poisoned (R385); the attention button is an event. -/
def Obligations.SlotCommandsAct : Prop :=
  ∀ (s : State) (p : Fin 4),
    (slotPresent s p.val = false →
        exec (.fmpPresenceDetect p) s = after (slotEvents (setRf (setSlotState s p.val 1) (.fmp p) 0x110 0 0 1) p.val (place 3 3 1)))
    ∧ (slotState s p.val = 2 → exec (.fmpPowerGood p) s = after (setRf (setSlotState s p.val 3) (.fmp p) 0x110 1 1 1))
    ∧ (∀ w sp t, slotState s p.val = 3 → slotLinkUp s p.val = false →
        t = setRf (setRf (setRf s (.fmp p) 0x110 42 38 (min w 8)) (.fmp p) 0x110 37 34 (min sp 6)) (.fmp p) 0x110 2 2 1 →
        exec (.fmpLinkL0 p w sp) s = after (slotEvents (if blkEn s (.fmp p) then setSlotState t p.val 4 else t) p.val (place 5 5 1)))
    ∧ (∀ x u, slotState s p.val = 4 →
        u = { s with farBad := List.foldl (fun m k => mapSet (fun _ => false) m (farBase p.val / 64 + k % 2 ^ 34) true) (s.farBad.filter fun e => !lineOfPort p.val false e.1) x.poisoned } →
        (expanderCode x = 0 → exec (.fmpEnumerateDone p x) s
          = after (cmdDone (setRf (setSlotState u p.val 5) (.fmp p) 0x110 55 43 (min 4096 (x.capacity / 0x10000000))) p.val 0))
        ∧ (expanderCode x ≠ 0 → exec (.fmpEnumerateDone p x) s = after (slotFail s p.val (expanderCode x) 0)))
    ∧ (slotState s p.val = 2 → exec (.fmpStateTimeout p) s = after (slotFail s p.val 1 0))
    ∧ (slotState s p.val = 3 → slotLinkUp s p.val = false → exec (.fmpStateTimeout p) s = after (slotFail s p.val 2 0))
    ∧ (slotState s p.val = 4 → exec (.fmpStateTimeout p) s = after (slotFail s p.val 5 0))
    ∧ (slotState s p.val = 6 → portBusy s p.val = false → ∀ t, t = slotLinkDown (portRecall s p.val) p.val → exec (.fmpDrainDone p) s
        = after (cmdDone (slotPowerOff (setSlotState t p.val 1) p.val) p.val (place 5 5 1)))
    ∧ (∀ button, slotPresent s p.val = true → ∃ t, exec (.fmpSurpriseRemoval p (.presence button)) s
          = after (slotEvents (expanderLost (portVanish t p.val) p.val) p.val (place 3 3 1 ||| evIf (slotLinkUp s p.val) 5 ||| evIf button 0 ||| dirtyLost t p.val))
        ∧ (mapWf regDefault s.regs = true → slotState t p.val = 0 ∧ slotPresent t p.val = false ∧ slotLinkUp t p.val = false))
    ∧ (slotLinkUp s p.val = true → exec (.fmpSurpriseRemoval p .linkDown) s
        = after (slotFail (portVanish (slotLinkDown s p.val) p.val) p.val 6 (place 5 5 1 ||| dirtyLost (slotLinkDown s p.val) p.val)))
    ∧ (2 ≤ slotState s p.val → ∃ t u, exec (.fmpPowerFault p) s = after u
        ∧ t = slotPowerOff (slotLinkDown s p.val) p.val
        ∧ u = slotFail (portVanish t p.val) p.val 1 (place 1 1 1 ||| evIf (slotLinkUp s p.val) 5 ||| dirtyLost t p.val)
        ∧ (mapWf regDefault s.regs = true → slotState u p.val = 7 ∧ rf u (.fmp p) 0x110 63 56 = 1 ∧ slotLinkUp u p.val = false))
    ∧ exec (.fmpAttentionButton p) s = after (slotEvents s p.val (place 0 0 1))

/-- R394-R403: with Dovetail on, a peer's request is served under the access windows, whose refusal is answered; an answer ends its own
request and gives its core or its operation what it waits for; a message of a dead peer is stray and changes only its event. -/
def Obligations.PeerRequestsAreServed : Prop :=
  ∀ (s : State), dtOn s = true →
    (∀ (src : BitVec 8) (tag ca len h row : Nat) (q : RemoteTable) (rows : List Nat) (share : List (Nat × BitVec 32)) (w poison : Bool)
        (u : RowUpdate) (data : List Byte),
      (peerDeadNow s src.toNat = false → exec (.dtRead src tag ca len) s = after (dtRead s src.toNat tag ca len)
        ∧ exec (.dtWrite src tag ca data poison) s = after (dtWrite s src.toNat tag ca data poison)
        ∧ exec (.dtLookup src tag h q rows) s = after (dtLookup s src.toNat tag h q rows)
        ∧ exec (.dtPlookup src tag h q share w) s = after (dtPlookup s src.toNat tag h q share w)
        ∧ exec (.dtUpdate src tag h q row u) s = after (dtUpdate s src.toNat tag h q row u)
        ∧ (1 ≤ len → len ≤ 256 → winCheck s src.toNat ca len false = none → dtRead s src.toNat tag ca len = dtRefused s src.toNat tag)
        ∧ (data ≠ [] → data.length ≤ 256 → winCheck s src.toNat ca data.length true = none →
            dtWrite s src.toNat tag ca data poison = dtRefused s src.toNat tag))
      ∧ (peerDeadNow s src.toNat = true → exec (.dtRead src tag ca len) s = after (raise s .dt 0x120 2)
        ∧ exec (.dtWrite src tag ca data poison) s = after (raise s .dt 0x120 2)
        ∧ exec (.dtLookup src tag h q rows) s = after (raise s .dt 0x120 2)
        ∧ exec (.dtPlookup src tag h q share w) s = after (raise s .dt 0x120 2)
        ∧ exec (.dtUpdate src tag h q row u) s = after (raise s .dt 0x120 2)))
    ∧ (∀ (tag : Nat) (r : DtReq), reqOf s tag = some r →
        (∀ a n data poison, r.kind = .pld a n → data.length = n →
          exec (.dtReadReply tag data poison) s = after (replyTo s r (.data (ofBytes data) poison)))
        ∧ (∀ a d n data poison, r.kind = .pcopyRead a d n → data.length = n → exec (.dtReadReply tag data poison) s
            = after (tagDone s r (putPiece d { bytes := data, pois := data.map fun _ => poison })))
        ∧ (r.kind = .pst → exec (.dtWriteAck tag) s = after (dropReq s tag))
        ∧ (∀ n, r.kind = .ack n → exec (.dtWriteAck tag) s = after (serveAcks (dropReq s tag)))
        ∧ (∀ d, r.kind = .pcopyWrite d → exec (.dtWriteAck tag) s = after (tagDone s r id))
        ∧ (r.kind = .update → exec (.dtUpdateAck tag) s = after (tagDone s r id))
        ∧ (∀ h pos rows, r.kind = .lookup h pos → rows.length = pos.length → exec (.dtRows tag rows) s
            = after (tagDone s r fun o => { o with
                rows := (pos.zip rows).foldl (fun m q => mapPut m q.1 (q.2.map Prod.fst)) o.rows,
                marks := o.marks ++ ((pos.zip rows).filter fun q => (q.2.map Prod.snd).getD false).map Prod.fst }))
        ∧ (∀ bag rows elems missing poison accs, r.kind = .plookup bag rows → accs = (elems.filterMap fun e => accOfBytes (toBytes 32 e.toNat)) →
            (accs.length = elems.length → elems ≠ [] → exec (.dtPartial tag elems missing poison) s = after (tagDone s r fun o => { o with
              sums := o.sums ++ [(bag, accs)], marks := if poison then o.marks ++ [bag] else o.marks,
              deferred := o.deferred ++ missing.filterMap fun i => (rows[i]?).map Prod.snd }))
            ∧ (accs.length < elems.length →
              exec (.dtPartial tag elems missing poison) s = after (tagFault (numEvent s r.core 2 evFMTERR) r 6 7 0)))
        ∧ exec (.dtRefuse tag) s = after (answerRefused s r)
        ∧ ((dropReq s tag).dtOut.all fun x => x.tag ≠ tag))

/-- R392-R395, R404: heartbeats and beacons: one from an unknown or live peer keeps it alive; one of a dead peer with a new incarnation revives
it, with the old one it is stray; a silent peer dies after 50 us; a member follows its manager's beacon, loses sync after 50 us
without one, and the manager follows the external edge; a second manager's beacon has no effect that the manual gives, and stops. -/
def Obligations.HeartbeatsAndBeaconsAct : Prop :=
  ∀ (s : State) (src : BitVec 8), dtOn s = true →
    (∀ inc, (peerDeadNow s src.toNat = false →
          exec (.dtHeartbeatReceived src inc) s = after (setAlive (setPeer s src.toNat { lastBeat := s.stc, inc, known := true }) src.toNat true))
        ∧ (peerDeadNow s src.toNat = true → (peer s src.toNat).inc = inc → exec (.dtHeartbeatReceived src inc) s = after (raise s .dt 0x120 2))
        ∧ (peerDeadNow s src.toNat = true → (peer s src.toNat).inc ≠ inc → exec (.dtHeartbeatReceived src inc) s
            = after (raise (setAlive (setPeer s src.toNat { lastBeat := s.stc, inc, known := true }) src.toNat true) .dt 0x120 1)))
    ∧ (aliveBit s src.toNat = true → 50000 ≤ (s.stc - (peer s src.toNat).lastBeat).toNat → exec (.peerDead src) s = after (peerDied s src.toNat))
    ∧ exec .heartbeatSend s = after ((routed s).foldl (fun s p => send s (.heartbeat p (BitVec.ofNat 8 (dtPkg s)) (BitVec.ofNat 8 (rf s .dt 0x100 31 24)))) s)
    ∧ (isManager s = true → exec .beaconSend s = after (((routed s).filter (aliveBit s)).foldl (fun s p => send s (.beacon p s.stc)) s)
        ∧ (∀ t, exec (.dtBeaconReceived src t) s = .fault .secondManager)
        ∧ (flag (wk s .dt 0x100) 9 = true → ∀ d : Int, d = (nearestSecond s : Int) - (s.stc.toNat : Int) →
            exec .syncBeaconEdge s = after (startSlew s d d.natAbs)))
    ∧ (isManager s = false → peerDeadNow s src.toNat = false → ∀ t : Word, exec (.dtBeaconReceived src t) s = after (beaconHeardFrom s t)
        ∧ (mapWf regDefault s.regs = true → s.beaconHeard = false → anyCtxEnabled s = false → (beaconHeardFrom s t).stc = t ∧ (beaconHeardFrom s t).slew = 0))
    ∧ (isManager s = false → rbit s .dt 0x140 62 = false → 50000 ≤ (s.stc - s.lastBeacon).toNat →
        exec .beaconTimeout s = after (setRf (setRf { (freeNat s).2 with slew := 0, offset := none } .dt 0x140 62 62 1) .dt 0x140 63 63 ((freeNat s).1 % 2)))
    ∧ (∀ (n : Fin 16) up, rbit s .dt (0x400 + 8 * n.val) 0 = true → rbit s .dt (0x400 + 8 * n.val) 1 ≠ up →
        exec (.dtLinkChange n up) s = after (raise (setRf s .dt (0x400 + 8 * n.val) 1 1 (boolNat up)) .dt 0x120 5))

/-! Faults of links and sources, strikes and slips. -/

/-- R199, R411-R421: a link-level retry and a retrain are fault events of their block, a link that goes down starts its condition, a condition
that still holds is an event again after its clear, and it ends when its source does; an asynchronous engine fault enters the
handler at the next bundle boundary; a strike releases the cores that armed its line; a slip ends, once every cause in it has, in every core of its region:
it is counted, and its stall leaves the count of region cycles. -/
def Obligations.FaultAndRegionEventsAct : Prop :=
  ∀ (s : State),
    (running s = true → (∀ cl, exec (.linkLevelRetry (.ring cl)) s = after (raiseFault s (.cluster cl) 2 none none))
        ∧ (∀ rg, exec (.linkLevelRetry (.mesh rg)) s = after (raiseFault (retrySlips s (crossesMesh rg.val)) (.drawer rg) 4 none none))
        ∧ exec (.linkLevelRetry .seam) s = after (raiseFault (retrySlips s crossesSeam) .gfe 2 none none))
    ∧ exec (.linkLevelRetry .ucie) s = after (raiseFault s .ep 0 none none)
    ∧ (∀ n : Fin 4, slotLinkUp s n.val = true → exec (.linkLevelRetry (.fmp n)) s = after (raiseFault s (.fmp n) 0 none none))
    ∧ (∀ n : Fin 16, rbit s .dt (0x400 + 8 * n.val) 1 = true → regsLive s .dt = true → exec (.linkLevelRetry (.dovetail n)) s = after (raiseFault
        (setRf s .dt (0x400 + 8 * n.val) 63 32 (min (2 ^ 32 - 1) (rf s .dt (0x400 + 8 * n.val) 63 32 + 1))) .dt 0 none none))
    ∧ (∀ rg, exec (.internalLinkDown (.mesh rg)) s = after (condStart s (.drawer rg) 5))
    ∧ exec (.internalLinkDown .seam) s = after (condStart s .gfe 3) ∧ exec (.internalLinkDown .ucie) s = after (condStart s .ep 1)
    ∧ (∀ n, exec (.internalLinkDown (.stackPhy n)) s = after (condStart s (.stack n) 4)
        ∧ exec (.phyRetrain n) s = after (raiseFault s (.stack n) 3 none none))
    ∧ (∀ b (src : Fin 32), condHolds s b src.val = true →
        (rbit s b 0x40 src.val = false → exec (.conditionReevent b src) s = after (raiseFault s b src.val none none))
        ∧ (isCondSource b src.val = true → b ≠ .pwr → exec (.conditionSourceEnds b src) s = after (setCond s b src.val false)))
    ∧ (∀ (k : CoreIx) p f rest t, prog? s k.val = some p → p.pend = f :: rest → p.inexc = false → p.armed = false → p.granted = false → p.injig = false → p.leaving = none →
        running s = true → (Machine.core s k.val).power = .c0 → t = setProg (dropSeqWaits s k.val) k.val { p with pend := rest } →
        exec (.asyncEngineFault k) s = after (takeException (setCore t k.val { Machine.core t k.val with ncLine := none }) k.val f.ecode
          (asyncInfo f) (newEaddr p f.ecode f.eaddr) p.pc))
    ∧ (∀ (l : Fin 16) c n u, running s = true → NoInjection s .gfe →
        ((strikeLine s l.val).strikers.find? fun x => decide (x.2 ≤ (strikeLine s l.val).armed.length)) = some (c, n) →
        u = setStrikeLine s l.val { strikeLine s l.val with armed := [], strikers := (strikeLine s l.val).strikers.filter fun x => x.1 ≠ c } →
        exec (.strikeSent l) s = after (strikeStart (updProg u c fun q => { q with granted := true }) (strikeLine s l.val).armed))
    ∧ (∀ (k : CoreIx) met p j x t, running s = true → t = applySlips s k.val met → prog? t k.val = some p → p.jig = some j → j.slip = some x →
        ((x.stop - x.start).toNat ≤ (t.cclk - x.start).toNat → exec (.slipEnd ⟨k, met⟩) s = after ((regionCores t k.val).foldl slipEnd t))
        ∧ ((t.cclk - x.start).toNat < (x.stop - x.start).toNat → exec (.slipEnd ⟨k, met⟩) s = after t)
        ∧ ∀ y, prog? (slipEnd t k.val) k.val = some y → y.slips.toNat = min (2 ^ 32 - 1) (p.slips.toNat + 1)
          ∧ y.jig = some { j with slip := none, cycle := j.cycle - (x.stop - x.start).toNat })

/-! The whole complex. -/

/-- After every step the INTA line is what the unmasked sources make it: asserted when MSI is off, a source of INT_SUMMARY that INT_MASK lets
through is pending, interrupts are not disabled and no FLR is in progress (R359). -/
def Obligations.InterruptLineFollowsItsSources : Prop :=
  (∀ s t : State, step s = .next t → t.ep.inta = intaLevel t)
  ∧ (∀ (s t : State) (i : Instr), exec i s = .next t → t.ep.inta = true → msiEn t = false ∧ intDisable t = false ∧ t.ep.flr = false ∧ irq t = true)

/-- Every command leads to a next state, but for two: the beacon of a second manager faults, since the manual gives it no effect (R393), and a
configuration write in the I/O die's range is refused, since its registers are not the manual's (R1, R347). -/
def Obligations.OnlyTwoCommandsStop : Prop :=
  ∀ (s : State) (i : Instr), (∃ t, exec i s = .next t)
    ∨ (∃ src t, i = .dtBeaconReceived src t ∧ dtOn s = true ∧ isManager s = true ∧ exec i s = .fault .secondManager)
    ∨ (∃ off size val, i = .configurationWrite off size val ∧ 0x400 ≤ off ∧ exec i s = .refused .ioDieConfiguration)

/-- The memory keeps its canonical form through the host's accesses, the drains and the resets of memory, and what a write of bytes leaves is read back and no
other byte changes. -/
def Obligations.MemoryStaysCanonical : Prop :=
  ∀ (s : State), Memory.wf s.mem = true →
    (∀ (a : Nat) (d : List Byte), Memory.wf (setBytes s a d).mem = true ∧ memBytes (setBytes s a d) a d.length = d
        ∧ ∀ b, (b < a ∨ a + d.length ≤ b) → memByte (setBytes s a d) b = memByte s b)
    ∧ (∀ base size a, Memory.wf (zeroRange s base size).mem = true
        ∧ memByte (zeroRange s base size) a = if base ≤ a ∧ a < base + size then 0 else memByte s a)
    ∧ (∀ (w : Who) (k off : Nat) (d : List Byte) (p : Bool) (key : Option Nat), Memory.wf (chunkWrite s w k off d p key).mem = true)
    ∧ (∀ (i : Instr) (t : State), (i = .powerOnReset ∨ i = .bringupBsmReady ∨ (∃ a c, i = .hostMemrd a c) ∨ (∃ a d p, i = .hostMemwr a d p)
          ∨ (∃ o n, i = .bar4Read o n) ∨ (∃ o d p, i = .bar4Write o d p) ∨ (∃ k n, i = .storeBufferDrain k n) ∨ ∃ k, i = .wbBufferDrain k) →
        exec i s = .next t → Memory.wf t.mem = true)

/-- R36, R369, R374: at reset every register field holds the value that its Reset column gives, every block is disabled and idle, PHASE is INIT
and CAUSE is power-on; no key is loaded, no program, task, line, request or command is there; the interrupt line is low. Memory that
nothing has written reads 0 (log entry 3, the model's choice for the stacks). -/
def Obligations.ResetState : Prop :=
  (∀ b, blkEn State.reset b = false ∧ rbit State.reset b (hdrOff b + 8) 0 = true)
  ∧ (∀ b o, ∀ f ∈ regFields b o, rf State.reset b o f.hi f.lo = f.rst % 2 ^ (f.hi + 1 - f.lo))
  ∧ phase State.reset = 0 ∧ rf State.reset .gfe 0x3000 3 0 = 1 ∧ rf State.reset .gfe 0x108 9 0 = 0x3FF ∧ rf State.reset .gfe 0x2018 7 0 = 0
  ∧ rf State.reset .ep 0x20000 3 0 = 0 ∧ State.reset.stc = 0
  ∧ (∀ c, prog? State.reset c = none ∧ (Machine.core State.reset c).sbuf = [] ∧ (Machine.core State.reset c).dcache = [])
  ∧ (∀ k, keyAt State.reset k = none) ∧ State.reset.tasks = [] ∧ State.reset.pending = [] ∧ State.reset.hreqs = []
  ∧ State.reset.mcImage = none ∧ State.reset.ep.inta = intaLevel State.reset ∧ State.reset.ep.inta = false
  ∧ Memory.wf State.reset.mem = true ∧ mapWf regDefault State.reset.regs = true ∧ (∀ a, memByte State.reset a = 0)
end

