-- ==== Sys2Proof/Laws/SMap.lean ====
section
/-! SUPPORT. Laws of sparse maps: what is read after a write, that a later write replaces an earlier one, and that the
canonical form is kept. -/

namespace Sys2Proof.Machine

variable {α : Type}

@[simp] theorem mapGet_nil (d : Nat → α) (k : Nat) : mapGet d [] k = d k := rfl

@[simp] theorem mapWf_nil [DecidableEq α] (d : Nat → α) : mapWf d [] = true := rfl

/-- A key below every listed key reads as an unlisted one. -/
theorem mapGet_below [DecidableEq α] (d : Nat → α) (m : List (Nat × α)) (lo k : Nat) (h : mapWfFrom d lo m = true) (hk : k < lo) :
    mapGet d m k = d k := by
  cases m with
  | nil => rfl
  | cons e t =>
    obtain ⟨k', v'⟩ := e
    simp [mapWfFrom] at h
    have h1 : k ≠ k' := by omega
    have h2 : k < k' := by omega
    simp [mapGet, h1, h2]

theorem mapWfFrom_mono [DecidableEq α] (d : Nat → α) (m : List (Nat × α)) (lo lo' : Nat) (h : mapWfFrom d lo m = true) (hl : lo' ≤ lo) :
    mapWfFrom d lo' m = true := by
  cases m with
  | nil => rfl
  | cons e t =>
    simp [mapWfFrom] at h ⊢
    exact ⟨⟨by omega, h.1.2⟩, h.2⟩

/-- A written value other than the default reads back, whatever the list. -/
theorem mapGet_mapSet_self_of_ne [DecidableEq α] (d : Nat → α) (m : List (Nat × α)) (k : Nat) (v : α) (hv : v ≠ d k) :
    mapGet d (mapSet d m k v) k = v := by
  induction m with
  | nil => simp [mapSet, hv, mapGet]
  | cons e t ih =>
    obtain ⟨k', v'⟩ := e
    by_cases h1 : k < k'
    · simp [mapSet, h1, hv, mapGet]
    · by_cases h2 : k = k'
      · subst h2; simp [mapSet, hv, mapGet]
      · simp [mapSet, h1, h2, mapGet, ih]

/-- Writing a value other than the default changes no other key, whatever the list. -/
theorem mapGet_mapSet_other_of_ne [DecidableEq α] (d : Nat → α) (m : List (Nat × α)) (k j : Nat) (v : α) (hv : v ≠ d k) (hj : j ≠ k) :
    mapGet d (mapSet d m k v) j = mapGet d m j := by
  induction m with
  | nil => by_cases hlt : j < k <;> simp [mapSet, hv, mapGet, hj]
  | cons e t ih =>
    obtain ⟨k', v'⟩ := e
    by_cases h1 : k < k'
    · by_cases hlt : j < k
      · have h3 : j ≠ k' := by omega
        have h4 : j < k' := by omega
        simp [mapSet, h1, hv, mapGet, hj, hlt, h3, h4]
      · simp [mapSet, h1, hv, mapGet, hj, hlt]
    · by_cases h2 : k = k'
      · subst h2; simp [mapSet, hv, mapGet, hj]
      · simp [mapSet, h1, h2, mapGet, ih]

/-- In a canonical map, what is written is read back. -/
theorem mapGet_mapSet_self [DecidableEq α] (d : Nat → α) (m : List (Nat × α)) (lo k : Nat) (v : α) (h : mapWfFrom d lo m = true) :
    mapGet d (mapSet d m k v) k = v := by
  by_cases hv : v = d k
  swap
  · exact mapGet_mapSet_self_of_ne d m k v hv
  induction m generalizing lo with
  | nil => simp [mapSet, hv]
  | cons e t ih =>
    obtain ⟨k', v'⟩ := e
    simp [mapWfFrom] at h
    by_cases h1 : k < k'
    · have h2 : k ≠ k' := by omega
      simp [mapSet, h1, hv, mapGet, h2]
    · by_cases h2 : k = k'
      · subst h2
        simp [mapSet, hv, mapGet_below d t (k + 1) k h.2 (by omega)]
      · simpa [mapSet, h1, h2, mapGet] using ih _ h.2

/-- In a canonical map, a write changes no other key. -/
theorem mapGet_mapSet_other [DecidableEq α] (d : Nat → α) (m : List (Nat × α)) (lo k j : Nat) (v : α) (h : mapWfFrom d lo m = true)
    (hj : j ≠ k) : mapGet d (mapSet d m k v) j = mapGet d m j := by
  by_cases hv : v = d k
  swap
  · exact mapGet_mapSet_other_of_ne d m k j v hv hj
  induction m generalizing lo with
  | nil => simp [mapSet, hv]
  | cons e t ih =>
    obtain ⟨k', v'⟩ := e
    simp [mapWfFrom] at h
    by_cases h1 : k < k'
    · simp [mapSet, h1, hv]
    · by_cases h2 : k = k'
      · subst h2
        by_cases hlt : j < k
        · simp [mapSet, hv, mapGet, hj, hlt, mapGet_below d t (k + 1) j h.2 (by omega)]
        · simp [mapSet, hv, mapGet, hj, hlt]
      · simp [mapSet, h1, h2, mapGet, ih _ h.2]

/-- A second write of a key replaces the first, where the first wrote another value than the default. -/
theorem mapSet_mapSet [DecidableEq α] (d : Nat → α) (m : List (Nat × α)) (k : Nat) (v w : α) (hv : v ≠ d k) :
    mapSet d (mapSet d m k v) k w = mapSet d m k w := by
  induction m with
  | nil => simp [mapSet, hv]
  | cons e t ih =>
    obtain ⟨k', v'⟩ := e
    by_cases h1 : k < k'
    · simp [mapSet, h1, hv]
    · by_cases h2 : k = k'
      · subst h2; simp [mapSet, hv]
      · simp [mapSet, h1, h2, ih]

/-- A write keeps the canonical form, with any lower bound that it respects. -/
theorem mapWfFrom_mapSet [DecidableEq α] (d : Nat → α) (m : List (Nat × α)) (lo k : Nat) (v : α) (h : mapWfFrom d lo m = true)
    (hk : lo ≤ k) : mapWfFrom d lo (mapSet d m k v) = true := by
  induction m generalizing lo with
  | nil => by_cases hv : v = d k <;> simp [mapSet, hv, mapWfFrom, hk]
  | cons e t ih =>
    obtain ⟨k', v'⟩ := e
    have h' := h
    simp [mapWfFrom] at h
    by_cases h1 : k < k'
    · by_cases hv : v = d k
      · simp [mapSet, h1, hv, h']
      · simp [mapSet, h1, hv, mapWfFrom, hk, h.1.2, h.2]
    · by_cases h2 : k = k'
      · subst h2
        by_cases hv : v = d k
        · simp [mapSet, hv, mapWfFrom_mono d t (k + 1) lo h.2 (by omega)]
        · simp [mapSet, hv, mapWfFrom, h.2, hk]
      · simp [mapSet, h1, h2, mapWfFrom, h.1, ih (k' + 1) h.2 (by omega)]

/-- A write keeps the canonical form. -/
theorem mapWf_mapSet [DecidableEq α] (d : Nat → α) (m : List (Nat × α)) (k : Nat) (v : α) (h : mapWf d m = true) :
    mapWf d (mapSet d m k v) = true := mapWfFrom_mapSet d m 0 k v h (Nat.zero_le k)

end Sys2Proof.Machine
end

