-- ==== Sys2Proof/Laws/State.lean ====
section
/-! SUPPORT. The fields of State that each named update leaves alone, and what each update writes. -/

namespace Sys2Proof.Machine

variable (s : State)

@[simp] theorem setReg_frame (b : Blk) (o : Nat) (w : Word) :
    (setReg s b o w).pending = s.pending ∧ (setReg s b o w).freeCtr = s.freeCtr ∧ (setReg s b o w).stc = s.stc ∧ (setReg s b o w).stcRun = s.stcRun ∧
    (setReg s b o w).cclk = s.cclk ∧ (setReg s b o w).cclkLost = s.cclkLost ∧ (setReg s b o w).qedge = s.qedge ∧
    (setReg s b o w).harvest = s.harvest ∧ (setReg s b o w).work = s.work ∧ (setReg s b o w).held = s.held ∧ (setReg s b o w).mem = s.mem ∧
    (setReg s b o w).poison = s.poison ∧ (setReg s b o w).keys = s.keys ∧ (setReg s b o w).keyPend = s.keyPend ∧ (setReg s b o w).cores = s.cores ∧
    (setReg s b o w).clusters = s.clusters ∧ (setReg s b o w).txns = s.txns ∧ (setReg s b o w).dir = s.dir ∧ (setReg s b o w).filt = s.filt ∧
    (setReg s b o w).devc = s.devc ∧ (setReg s b o w).hreqs = s.hreqs ∧ (setReg s b o w).bis = s.bis ∧ (setReg s b o w).refused = s.refused ∧
    (setReg s b o w).snps = s.snps ∧ (setReg s b o w).posts = s.posts ∧ (setReg s b o w).undo = s.undo ∧ (setReg s b o w).faults = s.faults ∧
    (setReg s b o w).migs = s.migs ∧ (setReg s b o w).nextPrg = s.nextPrg ∧ (setReg s b o w).atsCpl = s.atsCpl ∧ (setReg s b o w).inv = s.inv ∧
    (setReg s b o w).atsInv = s.atsInv ∧ (setReg s b o w).atsStale = s.atsStale ∧ (setReg s b o w).lookups = s.lookups ∧
    (setReg s b o w).copyBacks = s.copyBacks ∧ (setReg s b o w).slotRels = s.slotRels ∧ (setReg s b o w).shares = s.shares ∧
    (setReg s b o w).epochAt = s.epochAt ∧ (setReg s b o w).tasks = s.tasks ∧ (setReg s b o w).nextTask = s.nextTask ∧
    (setReg s b o w).gctx = s.gctx ∧ (setReg s b o w).turn = s.turn ∧ (setReg s b o w).recs = s.recs ∧ (setReg s b o w).lines = s.lines ∧
    (setReg s b o w).ep = s.ep ∧ (setReg s b o w).mcImage = s.mcImage ∧ (setReg s b o w).dtOut = s.dtOut ∧ (setReg s b o w).nextTag = s.nextTag ∧
    (setReg s b o w).chans = s.chans ∧ (setReg s b o w).served = s.served ∧ (setReg s b o w).ackDue = s.ackDue ∧ (setReg s b o w).peers = s.peers ∧
    (setReg s b o w).heldFmts = s.heldFmts ∧ (setReg s b o w).lastBeacon = s.lastBeacon ∧ (setReg s b o w).beaconHeard = s.beaconHeard ∧
    (setReg s b o w).slew = s.slew ∧ (setReg s b o w).slews = s.slews ∧ (setReg s b o w).offset = s.offset ∧ (setReg s b o w).fmpCmd = s.fmpCmd ∧
    (setReg s b o w).farBad = s.farBad ∧ (setReg s b o w).power = s.power ∧ (setReg s b o w).wstart = s.wstart ∧ (setReg s b o w).inject = s.inject ∧
    (setReg s b o w).conds = s.conds ∧ (setReg s b o w).heldReacts = s.heldReacts ∧ (setReg s b o w).raised = s.raised ∧
    (setReg s b o w).fifos = s.fifos ∧ (setReg s b o w).watchPend = s.watchPend ∧ (setReg s b o w).jtagAddr = s.jtagAddr ∧
    (setReg s b o w).jtagReg = s.jtagReg ∧ (setReg s b o w).jtagBypass = s.jtagBypass ∧ (setReg s b o w).out = s.out := by
  refine ⟨rfl, rfl, rfl, rfl, rfl, rfl, rfl, rfl, rfl, rfl, rfl, rfl, rfl, rfl, rfl, rfl, rfl, rfl, rfl, rfl, rfl, rfl, rfl, rfl, rfl, rfl, rfl, rfl, rfl, rfl, rfl, rfl, rfl, rfl, rfl, rfl, rfl, rfl, rfl, rfl, rfl, rfl, rfl, rfl, rfl, rfl, rfl, rfl, rfl, rfl, rfl, rfl, rfl, rfl, rfl, rfl, rfl, rfl, rfl, rfl, rfl, rfl, rfl, rfl, rfl, rfl, rfl, rfl, rfl, rfl, rfl, rfl⟩

@[simp] theorem setWk_frame (b : Blk) (o : Nat) (w : Word) :
    (setWk s b o w).pending = s.pending ∧ (setWk s b o w).freeCtr = s.freeCtr ∧ (setWk s b o w).stc = s.stc ∧ (setWk s b o w).stcRun = s.stcRun ∧
    (setWk s b o w).cclk = s.cclk ∧ (setWk s b o w).cclkLost = s.cclkLost ∧ (setWk s b o w).qedge = s.qedge ∧ (setWk s b o w).harvest = s.harvest ∧
    (setWk s b o w).regs = s.regs ∧ (setWk s b o w).held = s.held ∧ (setWk s b o w).mem = s.mem ∧ (setWk s b o w).poison = s.poison ∧
    (setWk s b o w).keys = s.keys ∧ (setWk s b o w).keyPend = s.keyPend ∧ (setWk s b o w).cores = s.cores ∧ (setWk s b o w).clusters = s.clusters ∧
    (setWk s b o w).txns = s.txns ∧ (setWk s b o w).dir = s.dir ∧ (setWk s b o w).filt = s.filt ∧ (setWk s b o w).devc = s.devc ∧
    (setWk s b o w).hreqs = s.hreqs ∧ (setWk s b o w).bis = s.bis ∧ (setWk s b o w).refused = s.refused ∧ (setWk s b o w).snps = s.snps ∧
    (setWk s b o w).posts = s.posts ∧ (setWk s b o w).undo = s.undo ∧ (setWk s b o w).faults = s.faults ∧ (setWk s b o w).migs = s.migs ∧
    (setWk s b o w).nextPrg = s.nextPrg ∧ (setWk s b o w).atsCpl = s.atsCpl ∧ (setWk s b o w).inv = s.inv ∧ (setWk s b o w).atsInv = s.atsInv ∧
    (setWk s b o w).atsStale = s.atsStale ∧ (setWk s b o w).lookups = s.lookups ∧ (setWk s b o w).copyBacks = s.copyBacks ∧
    (setWk s b o w).slotRels = s.slotRels ∧ (setWk s b o w).shares = s.shares ∧ (setWk s b o w).epochAt = s.epochAt ∧
    (setWk s b o w).tasks = s.tasks ∧ (setWk s b o w).nextTask = s.nextTask ∧ (setWk s b o w).gctx = s.gctx ∧ (setWk s b o w).turn = s.turn ∧
    (setWk s b o w).recs = s.recs ∧ (setWk s b o w).lines = s.lines ∧ (setWk s b o w).ep = s.ep ∧ (setWk s b o w).mcImage = s.mcImage ∧
    (setWk s b o w).dtOut = s.dtOut ∧ (setWk s b o w).nextTag = s.nextTag ∧ (setWk s b o w).chans = s.chans ∧ (setWk s b o w).served = s.served ∧
    (setWk s b o w).ackDue = s.ackDue ∧ (setWk s b o w).peers = s.peers ∧ (setWk s b o w).heldFmts = s.heldFmts ∧
    (setWk s b o w).lastBeacon = s.lastBeacon ∧ (setWk s b o w).beaconHeard = s.beaconHeard ∧ (setWk s b o w).slew = s.slew ∧
    (setWk s b o w).slews = s.slews ∧ (setWk s b o w).offset = s.offset ∧ (setWk s b o w).fmpCmd = s.fmpCmd ∧ (setWk s b o w).farBad = s.farBad ∧
    (setWk s b o w).power = s.power ∧ (setWk s b o w).wstart = s.wstart ∧ (setWk s b o w).inject = s.inject ∧ (setWk s b o w).conds = s.conds ∧
    (setWk s b o w).heldReacts = s.heldReacts ∧ (setWk s b o w).raised = s.raised ∧ (setWk s b o w).fifos = s.fifos ∧
    (setWk s b o w).watchPend = s.watchPend ∧ (setWk s b o w).jtagAddr = s.jtagAddr ∧ (setWk s b o w).jtagReg = s.jtagReg ∧
    (setWk s b o w).jtagBypass = s.jtagBypass ∧ (setWk s b o w).out = s.out := by
  refine ⟨rfl, rfl, rfl, rfl, rfl, rfl, rfl, rfl, rfl, rfl, rfl, rfl, rfl, rfl, rfl, rfl, rfl, rfl, rfl, rfl, rfl, rfl, rfl, rfl, rfl, rfl, rfl, rfl, rfl, rfl, rfl, rfl, rfl, rfl, rfl, rfl, rfl, rfl, rfl, rfl, rfl, rfl, rfl, rfl, rfl, rfl, rfl, rfl, rfl, rfl, rfl, rfl, rfl, rfl, rfl, rfl, rfl, rfl, rfl, rfl, rfl, rfl, rfl, rfl, rfl, rfl, rfl, rfl, rfl, rfl, rfl, rfl⟩

@[simp] theorem setRf_frame (b : Blk) (o hi lo v : Nat) :
    (setRf s b o hi lo v).pending = s.pending ∧ (setRf s b o hi lo v).freeCtr = s.freeCtr ∧ (setRf s b o hi lo v).stc = s.stc ∧
    (setRf s b o hi lo v).stcRun = s.stcRun ∧ (setRf s b o hi lo v).cclk = s.cclk ∧ (setRf s b o hi lo v).cclkLost = s.cclkLost ∧
    (setRf s b o hi lo v).qedge = s.qedge ∧ (setRf s b o hi lo v).harvest = s.harvest ∧ (setRf s b o hi lo v).work = s.work ∧
    (setRf s b o hi lo v).held = s.held ∧ (setRf s b o hi lo v).mem = s.mem ∧ (setRf s b o hi lo v).poison = s.poison ∧
    (setRf s b o hi lo v).keys = s.keys ∧ (setRf s b o hi lo v).keyPend = s.keyPend ∧ (setRf s b o hi lo v).cores = s.cores ∧
    (setRf s b o hi lo v).clusters = s.clusters ∧ (setRf s b o hi lo v).txns = s.txns ∧ (setRf s b o hi lo v).dir = s.dir ∧
    (setRf s b o hi lo v).filt = s.filt ∧ (setRf s b o hi lo v).devc = s.devc ∧ (setRf s b o hi lo v).hreqs = s.hreqs ∧
    (setRf s b o hi lo v).bis = s.bis ∧ (setRf s b o hi lo v).refused = s.refused ∧ (setRf s b o hi lo v).snps = s.snps ∧
    (setRf s b o hi lo v).posts = s.posts ∧ (setRf s b o hi lo v).undo = s.undo ∧ (setRf s b o hi lo v).faults = s.faults ∧
    (setRf s b o hi lo v).migs = s.migs ∧ (setRf s b o hi lo v).nextPrg = s.nextPrg ∧ (setRf s b o hi lo v).atsCpl = s.atsCpl ∧
    (setRf s b o hi lo v).inv = s.inv ∧ (setRf s b o hi lo v).atsInv = s.atsInv ∧ (setRf s b o hi lo v).atsStale = s.atsStale ∧
    (setRf s b o hi lo v).lookups = s.lookups ∧ (setRf s b o hi lo v).copyBacks = s.copyBacks ∧ (setRf s b o hi lo v).slotRels = s.slotRels ∧
    (setRf s b o hi lo v).shares = s.shares ∧ (setRf s b o hi lo v).epochAt = s.epochAt ∧ (setRf s b o hi lo v).tasks = s.tasks ∧
    (setRf s b o hi lo v).nextTask = s.nextTask ∧ (setRf s b o hi lo v).gctx = s.gctx ∧ (setRf s b o hi lo v).turn = s.turn ∧
    (setRf s b o hi lo v).recs = s.recs ∧ (setRf s b o hi lo v).lines = s.lines ∧ (setRf s b o hi lo v).ep = s.ep ∧
    (setRf s b o hi lo v).mcImage = s.mcImage ∧ (setRf s b o hi lo v).dtOut = s.dtOut ∧ (setRf s b o hi lo v).nextTag = s.nextTag ∧
    (setRf s b o hi lo v).chans = s.chans ∧ (setRf s b o hi lo v).served = s.served ∧ (setRf s b o hi lo v).ackDue = s.ackDue ∧
    (setRf s b o hi lo v).peers = s.peers ∧ (setRf s b o hi lo v).heldFmts = s.heldFmts ∧ (setRf s b o hi lo v).lastBeacon = s.lastBeacon ∧
    (setRf s b o hi lo v).beaconHeard = s.beaconHeard ∧ (setRf s b o hi lo v).slew = s.slew ∧ (setRf s b o hi lo v).slews = s.slews ∧
    (setRf s b o hi lo v).offset = s.offset ∧ (setRf s b o hi lo v).fmpCmd = s.fmpCmd ∧ (setRf s b o hi lo v).farBad = s.farBad ∧
    (setRf s b o hi lo v).power = s.power ∧ (setRf s b o hi lo v).wstart = s.wstart ∧ (setRf s b o hi lo v).inject = s.inject ∧
    (setRf s b o hi lo v).conds = s.conds ∧ (setRf s b o hi lo v).heldReacts = s.heldReacts ∧ (setRf s b o hi lo v).raised = s.raised ∧
    (setRf s b o hi lo v).fifos = s.fifos ∧ (setRf s b o hi lo v).watchPend = s.watchPend ∧ (setRf s b o hi lo v).jtagAddr = s.jtagAddr ∧
    (setRf s b o hi lo v).jtagReg = s.jtagReg ∧ (setRf s b o hi lo v).jtagBypass = s.jtagBypass ∧ (setRf s b o hi lo v).out = s.out := by
  refine ⟨rfl, rfl, rfl, rfl, rfl, rfl, rfl, rfl, rfl, rfl, rfl, rfl, rfl, rfl, rfl, rfl, rfl, rfl, rfl, rfl, rfl, rfl, rfl, rfl, rfl, rfl, rfl, rfl, rfl, rfl, rfl, rfl, rfl, rfl, rfl, rfl, rfl, rfl, rfl, rfl, rfl, rfl, rfl, rfl, rfl, rfl, rfl, rfl, rfl, rfl, rfl, rfl, rfl, rfl, rfl, rfl, rfl, rfl, rfl, rfl, rfl, rfl, rfl, rfl, rfl, rfl, rfl, rfl, rfl, rfl, rfl, rfl⟩

@[simp] theorem addReg_frame (b : Blk) (o n : Nat) :
    (addReg s b o n).pending = s.pending ∧ (addReg s b o n).freeCtr = s.freeCtr ∧ (addReg s b o n).stc = s.stc ∧ (addReg s b o n).stcRun = s.stcRun ∧
    (addReg s b o n).cclk = s.cclk ∧ (addReg s b o n).cclkLost = s.cclkLost ∧ (addReg s b o n).qedge = s.qedge ∧
    (addReg s b o n).harvest = s.harvest ∧ (addReg s b o n).work = s.work ∧ (addReg s b o n).held = s.held ∧ (addReg s b o n).mem = s.mem ∧
    (addReg s b o n).poison = s.poison ∧ (addReg s b o n).keys = s.keys ∧ (addReg s b o n).keyPend = s.keyPend ∧ (addReg s b o n).cores = s.cores ∧
    (addReg s b o n).clusters = s.clusters ∧ (addReg s b o n).txns = s.txns ∧ (addReg s b o n).dir = s.dir ∧ (addReg s b o n).filt = s.filt ∧
    (addReg s b o n).devc = s.devc ∧ (addReg s b o n).hreqs = s.hreqs ∧ (addReg s b o n).bis = s.bis ∧ (addReg s b o n).refused = s.refused ∧
    (addReg s b o n).snps = s.snps ∧ (addReg s b o n).posts = s.posts ∧ (addReg s b o n).undo = s.undo ∧ (addReg s b o n).faults = s.faults ∧
    (addReg s b o n).migs = s.migs ∧ (addReg s b o n).nextPrg = s.nextPrg ∧ (addReg s b o n).atsCpl = s.atsCpl ∧ (addReg s b o n).inv = s.inv ∧
    (addReg s b o n).atsInv = s.atsInv ∧ (addReg s b o n).atsStale = s.atsStale ∧ (addReg s b o n).lookups = s.lookups ∧
    (addReg s b o n).copyBacks = s.copyBacks ∧ (addReg s b o n).slotRels = s.slotRels ∧ (addReg s b o n).shares = s.shares ∧
    (addReg s b o n).epochAt = s.epochAt ∧ (addReg s b o n).tasks = s.tasks ∧ (addReg s b o n).nextTask = s.nextTask ∧
    (addReg s b o n).gctx = s.gctx ∧ (addReg s b o n).turn = s.turn ∧ (addReg s b o n).recs = s.recs ∧ (addReg s b o n).lines = s.lines ∧
    (addReg s b o n).ep = s.ep ∧ (addReg s b o n).mcImage = s.mcImage ∧ (addReg s b o n).dtOut = s.dtOut ∧ (addReg s b o n).nextTag = s.nextTag ∧
    (addReg s b o n).chans = s.chans ∧ (addReg s b o n).served = s.served ∧ (addReg s b o n).ackDue = s.ackDue ∧ (addReg s b o n).peers = s.peers ∧
    (addReg s b o n).heldFmts = s.heldFmts ∧ (addReg s b o n).lastBeacon = s.lastBeacon ∧ (addReg s b o n).beaconHeard = s.beaconHeard ∧
    (addReg s b o n).slew = s.slew ∧ (addReg s b o n).slews = s.slews ∧ (addReg s b o n).offset = s.offset ∧ (addReg s b o n).fmpCmd = s.fmpCmd ∧
    (addReg s b o n).farBad = s.farBad ∧ (addReg s b o n).power = s.power ∧ (addReg s b o n).wstart = s.wstart ∧ (addReg s b o n).inject = s.inject ∧
    (addReg s b o n).conds = s.conds ∧ (addReg s b o n).heldReacts = s.heldReacts ∧ (addReg s b o n).raised = s.raised ∧
    (addReg s b o n).fifos = s.fifos ∧ (addReg s b o n).watchPend = s.watchPend ∧ (addReg s b o n).jtagAddr = s.jtagAddr ∧
    (addReg s b o n).jtagReg = s.jtagReg ∧ (addReg s b o n).jtagBypass = s.jtagBypass ∧ (addReg s b o n).out = s.out := by
  refine ⟨rfl, rfl, rfl, rfl, rfl, rfl, rfl, rfl, rfl, rfl, rfl, rfl, rfl, rfl, rfl, rfl, rfl, rfl, rfl, rfl, rfl, rfl, rfl, rfl, rfl, rfl, rfl, rfl, rfl, rfl, rfl, rfl, rfl, rfl, rfl, rfl, rfl, rfl, rfl, rfl, rfl, rfl, rfl, rfl, rfl, rfl, rfl, rfl, rfl, rfl, rfl, rfl, rfl, rfl, rfl, rfl, rfl, rfl, rfl, rfl, rfl, rfl, rfl, rfl, rfl, rfl, rfl, rfl, rfl, rfl, rfl, rfl⟩

@[simp] theorem raiseAt_frame (b : Blk) (st sq : Nat) (m : Word) :
    (raiseAt s b st sq m).pending = s.pending ∧ (raiseAt s b st sq m).freeCtr = s.freeCtr ∧ (raiseAt s b st sq m).stc = s.stc ∧
    (raiseAt s b st sq m).stcRun = s.stcRun ∧ (raiseAt s b st sq m).cclk = s.cclk ∧ (raiseAt s b st sq m).cclkLost = s.cclkLost ∧
    (raiseAt s b st sq m).qedge = s.qedge ∧ (raiseAt s b st sq m).harvest = s.harvest ∧ (raiseAt s b st sq m).work = s.work ∧
    (raiseAt s b st sq m).held = s.held ∧ (raiseAt s b st sq m).mem = s.mem ∧ (raiseAt s b st sq m).poison = s.poison ∧
    (raiseAt s b st sq m).keys = s.keys ∧ (raiseAt s b st sq m).keyPend = s.keyPend ∧ (raiseAt s b st sq m).cores = s.cores ∧
    (raiseAt s b st sq m).clusters = s.clusters ∧ (raiseAt s b st sq m).txns = s.txns ∧ (raiseAt s b st sq m).dir = s.dir ∧
    (raiseAt s b st sq m).filt = s.filt ∧ (raiseAt s b st sq m).devc = s.devc ∧ (raiseAt s b st sq m).hreqs = s.hreqs ∧
    (raiseAt s b st sq m).bis = s.bis ∧ (raiseAt s b st sq m).refused = s.refused ∧ (raiseAt s b st sq m).snps = s.snps ∧
    (raiseAt s b st sq m).posts = s.posts ∧ (raiseAt s b st sq m).undo = s.undo ∧ (raiseAt s b st sq m).faults = s.faults ∧
    (raiseAt s b st sq m).migs = s.migs ∧ (raiseAt s b st sq m).nextPrg = s.nextPrg ∧ (raiseAt s b st sq m).atsCpl = s.atsCpl ∧
    (raiseAt s b st sq m).inv = s.inv ∧ (raiseAt s b st sq m).atsInv = s.atsInv ∧ (raiseAt s b st sq m).atsStale = s.atsStale ∧
    (raiseAt s b st sq m).lookups = s.lookups ∧ (raiseAt s b st sq m).copyBacks = s.copyBacks ∧ (raiseAt s b st sq m).slotRels = s.slotRels ∧
    (raiseAt s b st sq m).shares = s.shares ∧ (raiseAt s b st sq m).epochAt = s.epochAt ∧ (raiseAt s b st sq m).tasks = s.tasks ∧
    (raiseAt s b st sq m).nextTask = s.nextTask ∧ (raiseAt s b st sq m).gctx = s.gctx ∧ (raiseAt s b st sq m).turn = s.turn ∧
    (raiseAt s b st sq m).recs = s.recs ∧ (raiseAt s b st sq m).lines = s.lines ∧ (raiseAt s b st sq m).ep = s.ep ∧
    (raiseAt s b st sq m).mcImage = s.mcImage ∧ (raiseAt s b st sq m).dtOut = s.dtOut ∧ (raiseAt s b st sq m).nextTag = s.nextTag ∧
    (raiseAt s b st sq m).chans = s.chans ∧ (raiseAt s b st sq m).served = s.served ∧ (raiseAt s b st sq m).ackDue = s.ackDue ∧
    (raiseAt s b st sq m).peers = s.peers ∧ (raiseAt s b st sq m).heldFmts = s.heldFmts ∧ (raiseAt s b st sq m).lastBeacon = s.lastBeacon ∧
    (raiseAt s b st sq m).beaconHeard = s.beaconHeard ∧ (raiseAt s b st sq m).slew = s.slew ∧ (raiseAt s b st sq m).slews = s.slews ∧
    (raiseAt s b st sq m).offset = s.offset ∧ (raiseAt s b st sq m).fmpCmd = s.fmpCmd ∧ (raiseAt s b st sq m).farBad = s.farBad ∧
    (raiseAt s b st sq m).power = s.power ∧ (raiseAt s b st sq m).wstart = s.wstart ∧ (raiseAt s b st sq m).inject = s.inject ∧
    (raiseAt s b st sq m).conds = s.conds ∧ (raiseAt s b st sq m).heldReacts = s.heldReacts ∧ (raiseAt s b st sq m).raised = s.raised ∧
    (raiseAt s b st sq m).fifos = s.fifos ∧ (raiseAt s b st sq m).watchPend = s.watchPend ∧ (raiseAt s b st sq m).jtagAddr = s.jtagAddr ∧
    (raiseAt s b st sq m).jtagReg = s.jtagReg ∧ (raiseAt s b st sq m).jtagBypass = s.jtagBypass ∧ (raiseAt s b st sq m).out = s.out := by
  refine ⟨rfl, rfl, rfl, rfl, rfl, rfl, rfl, rfl, rfl, rfl, rfl, rfl, rfl, rfl, rfl, rfl, rfl, rfl, rfl, rfl, rfl, rfl, rfl, rfl, rfl, rfl, rfl, rfl, rfl, rfl, rfl, rfl, rfl, rfl, rfl, rfl, rfl, rfl, rfl, rfl, rfl, rfl, rfl, rfl, rfl, rfl, rfl, rfl, rfl, rfl, rfl, rfl, rfl, rfl, rfl, rfl, rfl, rfl, rfl, rfl, rfl, rfl, rfl, rfl, rfl, rfl, rfl, rfl, rfl, rfl, rfl, rfl⟩

@[simp] theorem send_frame (m : Msg) :
    (send s m).pending = s.pending ∧ (send s m).freeCtr = s.freeCtr ∧ (send s m).stc = s.stc ∧ (send s m).stcRun = s.stcRun ∧
    (send s m).cclk = s.cclk ∧ (send s m).cclkLost = s.cclkLost ∧ (send s m).qedge = s.qedge ∧ (send s m).harvest = s.harvest ∧
    (send s m).regs = s.regs ∧ (send s m).work = s.work ∧ (send s m).held = s.held ∧ (send s m).mem = s.mem ∧ (send s m).poison = s.poison ∧
    (send s m).keys = s.keys ∧ (send s m).keyPend = s.keyPend ∧ (send s m).cores = s.cores ∧ (send s m).clusters = s.clusters ∧
    (send s m).txns = s.txns ∧ (send s m).dir = s.dir ∧ (send s m).filt = s.filt ∧ (send s m).devc = s.devc ∧ (send s m).hreqs = s.hreqs ∧
    (send s m).bis = s.bis ∧ (send s m).refused = s.refused ∧ (send s m).snps = s.snps ∧ (send s m).posts = s.posts ∧ (send s m).undo = s.undo ∧
    (send s m).faults = s.faults ∧ (send s m).migs = s.migs ∧ (send s m).nextPrg = s.nextPrg ∧ (send s m).atsCpl = s.atsCpl ∧
    (send s m).inv = s.inv ∧ (send s m).atsInv = s.atsInv ∧ (send s m).atsStale = s.atsStale ∧ (send s m).lookups = s.lookups ∧
    (send s m).copyBacks = s.copyBacks ∧ (send s m).slotRels = s.slotRels ∧ (send s m).shares = s.shares ∧ (send s m).epochAt = s.epochAt ∧
    (send s m).tasks = s.tasks ∧ (send s m).nextTask = s.nextTask ∧ (send s m).gctx = s.gctx ∧ (send s m).turn = s.turn ∧ (send s m).recs = s.recs ∧
    (send s m).lines = s.lines ∧ (send s m).ep = s.ep ∧ (send s m).mcImage = s.mcImage ∧ (send s m).dtOut = s.dtOut ∧
    (send s m).nextTag = s.nextTag ∧ (send s m).chans = s.chans ∧ (send s m).served = s.served ∧ (send s m).ackDue = s.ackDue ∧
    (send s m).peers = s.peers ∧ (send s m).heldFmts = s.heldFmts ∧ (send s m).lastBeacon = s.lastBeacon ∧ (send s m).beaconHeard = s.beaconHeard ∧
    (send s m).slew = s.slew ∧ (send s m).slews = s.slews ∧ (send s m).offset = s.offset ∧ (send s m).fmpCmd = s.fmpCmd ∧
    (send s m).farBad = s.farBad ∧ (send s m).power = s.power ∧ (send s m).wstart = s.wstart ∧ (send s m).inject = s.inject ∧
    (send s m).conds = s.conds ∧ (send s m).heldReacts = s.heldReacts ∧ (send s m).raised = s.raised ∧ (send s m).fifos = s.fifos ∧
    (send s m).watchPend = s.watchPend ∧ (send s m).jtagAddr = s.jtagAddr ∧ (send s m).jtagReg = s.jtagReg ∧ (send s m).jtagBypass = s.jtagBypass := by
  refine ⟨rfl, rfl, rfl, rfl, rfl, rfl, rfl, rfl, rfl, rfl, rfl, rfl, rfl, rfl, rfl, rfl, rfl, rfl, rfl, rfl, rfl, rfl, rfl, rfl, rfl, rfl, rfl, rfl, rfl, rfl, rfl, rfl, rfl, rfl, rfl, rfl, rfl, rfl, rfl, rfl, rfl, rfl, rfl, rfl, rfl, rfl, rfl, rfl, rfl, rfl, rfl, rfl, rfl, rfl, rfl, rfl, rfl, rfl, rfl, rfl, rfl, rfl, rfl, rfl, rfl, rfl, rfl, rfl, rfl, rfl, rfl, rfl⟩

@[simp] theorem setByte_frame (a : Nat) (v : Byte) :
    (setByte s a v).pending = s.pending ∧ (setByte s a v).freeCtr = s.freeCtr ∧ (setByte s a v).stc = s.stc ∧ (setByte s a v).stcRun = s.stcRun ∧
    (setByte s a v).cclk = s.cclk ∧ (setByte s a v).cclkLost = s.cclkLost ∧ (setByte s a v).qedge = s.qedge ∧ (setByte s a v).harvest = s.harvest ∧
    (setByte s a v).regs = s.regs ∧ (setByte s a v).work = s.work ∧ (setByte s a v).held = s.held ∧ (setByte s a v).poison = s.poison ∧
    (setByte s a v).keys = s.keys ∧ (setByte s a v).keyPend = s.keyPend ∧ (setByte s a v).cores = s.cores ∧ (setByte s a v).clusters = s.clusters ∧
    (setByte s a v).txns = s.txns ∧ (setByte s a v).dir = s.dir ∧ (setByte s a v).filt = s.filt ∧ (setByte s a v).devc = s.devc ∧
    (setByte s a v).hreqs = s.hreqs ∧ (setByte s a v).bis = s.bis ∧ (setByte s a v).refused = s.refused ∧ (setByte s a v).snps = s.snps ∧
    (setByte s a v).posts = s.posts ∧ (setByte s a v).undo = s.undo ∧ (setByte s a v).faults = s.faults ∧ (setByte s a v).migs = s.migs ∧
    (setByte s a v).nextPrg = s.nextPrg ∧ (setByte s a v).atsCpl = s.atsCpl ∧ (setByte s a v).inv = s.inv ∧ (setByte s a v).atsInv = s.atsInv ∧
    (setByte s a v).atsStale = s.atsStale ∧ (setByte s a v).lookups = s.lookups ∧ (setByte s a v).copyBacks = s.copyBacks ∧
    (setByte s a v).slotRels = s.slotRels ∧ (setByte s a v).shares = s.shares ∧ (setByte s a v).epochAt = s.epochAt ∧
    (setByte s a v).tasks = s.tasks ∧ (setByte s a v).nextTask = s.nextTask ∧ (setByte s a v).gctx = s.gctx ∧ (setByte s a v).turn = s.turn ∧
    (setByte s a v).recs = s.recs ∧ (setByte s a v).lines = s.lines ∧ (setByte s a v).ep = s.ep ∧ (setByte s a v).mcImage = s.mcImage ∧
    (setByte s a v).dtOut = s.dtOut ∧ (setByte s a v).nextTag = s.nextTag ∧ (setByte s a v).chans = s.chans ∧ (setByte s a v).served = s.served ∧
    (setByte s a v).ackDue = s.ackDue ∧ (setByte s a v).peers = s.peers ∧ (setByte s a v).heldFmts = s.heldFmts ∧
    (setByte s a v).lastBeacon = s.lastBeacon ∧ (setByte s a v).beaconHeard = s.beaconHeard ∧ (setByte s a v).slew = s.slew ∧
    (setByte s a v).slews = s.slews ∧ (setByte s a v).offset = s.offset ∧ (setByte s a v).fmpCmd = s.fmpCmd ∧ (setByte s a v).farBad = s.farBad ∧
    (setByte s a v).power = s.power ∧ (setByte s a v).wstart = s.wstart ∧ (setByte s a v).inject = s.inject ∧ (setByte s a v).conds = s.conds ∧
    (setByte s a v).heldReacts = s.heldReacts ∧ (setByte s a v).raised = s.raised ∧ (setByte s a v).fifos = s.fifos ∧
    (setByte s a v).watchPend = s.watchPend ∧ (setByte s a v).jtagAddr = s.jtagAddr ∧ (setByte s a v).jtagReg = s.jtagReg ∧
    (setByte s a v).jtagBypass = s.jtagBypass ∧ (setByte s a v).out = s.out := by
  refine ⟨rfl, rfl, rfl, rfl, rfl, rfl, rfl, rfl, rfl, rfl, rfl, rfl, rfl, rfl, rfl, rfl, rfl, rfl, rfl, rfl, rfl, rfl, rfl, rfl, rfl, rfl, rfl, rfl, rfl, rfl, rfl, rfl, rfl, rfl, rfl, rfl, rfl, rfl, rfl, rfl, rfl, rfl, rfl, rfl, rfl, rfl, rfl, rfl, rfl, rfl, rfl, rfl, rfl, rfl, rfl, rfl, rfl, rfl, rfl, rfl, rfl, rfl, rfl, rfl, rfl, rfl, rfl, rfl, rfl, rfl, rfl, rfl⟩

@[simp] theorem setChunkPoison_frame (k : Nat) (p : Bool) :
    (setChunkPoison s k p).pending = s.pending ∧ (setChunkPoison s k p).freeCtr = s.freeCtr ∧ (setChunkPoison s k p).stc = s.stc ∧
    (setChunkPoison s k p).stcRun = s.stcRun ∧ (setChunkPoison s k p).cclk = s.cclk ∧ (setChunkPoison s k p).cclkLost = s.cclkLost ∧
    (setChunkPoison s k p).qedge = s.qedge ∧ (setChunkPoison s k p).harvest = s.harvest ∧ (setChunkPoison s k p).regs = s.regs ∧
    (setChunkPoison s k p).work = s.work ∧ (setChunkPoison s k p).held = s.held ∧ (setChunkPoison s k p).mem = s.mem ∧
    (setChunkPoison s k p).keys = s.keys ∧ (setChunkPoison s k p).keyPend = s.keyPend ∧ (setChunkPoison s k p).cores = s.cores ∧
    (setChunkPoison s k p).clusters = s.clusters ∧ (setChunkPoison s k p).txns = s.txns ∧ (setChunkPoison s k p).dir = s.dir ∧
    (setChunkPoison s k p).filt = s.filt ∧ (setChunkPoison s k p).devc = s.devc ∧ (setChunkPoison s k p).hreqs = s.hreqs ∧
    (setChunkPoison s k p).bis = s.bis ∧ (setChunkPoison s k p).refused = s.refused ∧ (setChunkPoison s k p).snps = s.snps ∧
    (setChunkPoison s k p).posts = s.posts ∧ (setChunkPoison s k p).undo = s.undo ∧ (setChunkPoison s k p).faults = s.faults ∧
    (setChunkPoison s k p).migs = s.migs ∧ (setChunkPoison s k p).nextPrg = s.nextPrg ∧ (setChunkPoison s k p).atsCpl = s.atsCpl ∧
    (setChunkPoison s k p).inv = s.inv ∧ (setChunkPoison s k p).atsInv = s.atsInv ∧ (setChunkPoison s k p).atsStale = s.atsStale ∧
    (setChunkPoison s k p).lookups = s.lookups ∧ (setChunkPoison s k p).copyBacks = s.copyBacks ∧ (setChunkPoison s k p).slotRels = s.slotRels ∧
    (setChunkPoison s k p).shares = s.shares ∧ (setChunkPoison s k p).epochAt = s.epochAt ∧ (setChunkPoison s k p).tasks = s.tasks ∧
    (setChunkPoison s k p).nextTask = s.nextTask ∧ (setChunkPoison s k p).gctx = s.gctx ∧ (setChunkPoison s k p).turn = s.turn ∧
    (setChunkPoison s k p).recs = s.recs ∧ (setChunkPoison s k p).lines = s.lines ∧ (setChunkPoison s k p).ep = s.ep ∧
    (setChunkPoison s k p).mcImage = s.mcImage ∧ (setChunkPoison s k p).dtOut = s.dtOut ∧ (setChunkPoison s k p).nextTag = s.nextTag ∧
    (setChunkPoison s k p).chans = s.chans ∧ (setChunkPoison s k p).served = s.served ∧ (setChunkPoison s k p).ackDue = s.ackDue ∧
    (setChunkPoison s k p).peers = s.peers ∧ (setChunkPoison s k p).heldFmts = s.heldFmts ∧ (setChunkPoison s k p).lastBeacon = s.lastBeacon ∧
    (setChunkPoison s k p).beaconHeard = s.beaconHeard ∧ (setChunkPoison s k p).slew = s.slew ∧ (setChunkPoison s k p).slews = s.slews ∧
    (setChunkPoison s k p).offset = s.offset ∧ (setChunkPoison s k p).fmpCmd = s.fmpCmd ∧ (setChunkPoison s k p).farBad = s.farBad ∧
    (setChunkPoison s k p).power = s.power ∧ (setChunkPoison s k p).wstart = s.wstart ∧ (setChunkPoison s k p).inject = s.inject ∧
    (setChunkPoison s k p).conds = s.conds ∧ (setChunkPoison s k p).heldReacts = s.heldReacts ∧ (setChunkPoison s k p).raised = s.raised ∧
    (setChunkPoison s k p).fifos = s.fifos ∧ (setChunkPoison s k p).watchPend = s.watchPend ∧ (setChunkPoison s k p).jtagAddr = s.jtagAddr ∧
    (setChunkPoison s k p).jtagReg = s.jtagReg ∧ (setChunkPoison s k p).jtagBypass = s.jtagBypass ∧ (setChunkPoison s k p).out = s.out := by
  refine ⟨rfl, rfl, rfl, rfl, rfl, rfl, rfl, rfl, rfl, rfl, rfl, rfl, rfl, rfl, rfl, rfl, rfl, rfl, rfl, rfl, rfl, rfl, rfl, rfl, rfl, rfl, rfl, rfl, rfl, rfl, rfl, rfl, rfl, rfl, rfl, rfl, rfl, rfl, rfl, rfl, rfl, rfl, rfl, rfl, rfl, rfl, rfl, rfl, rfl, rfl, rfl, rfl, rfl, rfl, rfl, rfl, rfl, rfl, rfl, rfl, rfl, rfl, rfl, rfl, rfl, rfl, rfl, rfl, rfl, rfl, rfl, rfl⟩

@[simp] theorem setCore_frame (c : Nat) (k : Core) :
    (setCore s c k).pending = s.pending ∧ (setCore s c k).freeCtr = s.freeCtr ∧ (setCore s c k).stc = s.stc ∧ (setCore s c k).stcRun = s.stcRun ∧
    (setCore s c k).cclk = s.cclk ∧ (setCore s c k).cclkLost = s.cclkLost ∧ (setCore s c k).qedge = s.qedge ∧ (setCore s c k).harvest = s.harvest ∧
    (setCore s c k).regs = s.regs ∧ (setCore s c k).work = s.work ∧ (setCore s c k).held = s.held ∧ (setCore s c k).mem = s.mem ∧
    (setCore s c k).poison = s.poison ∧ (setCore s c k).keys = s.keys ∧ (setCore s c k).keyPend = s.keyPend ∧ (setCore s c k).clusters = s.clusters ∧
    (setCore s c k).txns = s.txns ∧ (setCore s c k).dir = s.dir ∧ (setCore s c k).filt = s.filt ∧ (setCore s c k).devc = s.devc ∧
    (setCore s c k).hreqs = s.hreqs ∧ (setCore s c k).bis = s.bis ∧ (setCore s c k).refused = s.refused ∧ (setCore s c k).snps = s.snps ∧
    (setCore s c k).posts = s.posts ∧ (setCore s c k).undo = s.undo ∧ (setCore s c k).faults = s.faults ∧ (setCore s c k).migs = s.migs ∧
    (setCore s c k).nextPrg = s.nextPrg ∧ (setCore s c k).atsCpl = s.atsCpl ∧ (setCore s c k).inv = s.inv ∧ (setCore s c k).atsInv = s.atsInv ∧
    (setCore s c k).atsStale = s.atsStale ∧ (setCore s c k).lookups = s.lookups ∧ (setCore s c k).copyBacks = s.copyBacks ∧
    (setCore s c k).slotRels = s.slotRels ∧ (setCore s c k).shares = s.shares ∧ (setCore s c k).epochAt = s.epochAt ∧
    (setCore s c k).tasks = s.tasks ∧ (setCore s c k).nextTask = s.nextTask ∧ (setCore s c k).gctx = s.gctx ∧ (setCore s c k).turn = s.turn ∧
    (setCore s c k).recs = s.recs ∧ (setCore s c k).lines = s.lines ∧ (setCore s c k).ep = s.ep ∧ (setCore s c k).mcImage = s.mcImage ∧
    (setCore s c k).dtOut = s.dtOut ∧ (setCore s c k).nextTag = s.nextTag ∧ (setCore s c k).chans = s.chans ∧ (setCore s c k).served = s.served ∧
    (setCore s c k).ackDue = s.ackDue ∧ (setCore s c k).peers = s.peers ∧ (setCore s c k).heldFmts = s.heldFmts ∧
    (setCore s c k).lastBeacon = s.lastBeacon ∧ (setCore s c k).beaconHeard = s.beaconHeard ∧ (setCore s c k).slew = s.slew ∧
    (setCore s c k).slews = s.slews ∧ (setCore s c k).offset = s.offset ∧ (setCore s c k).fmpCmd = s.fmpCmd ∧ (setCore s c k).farBad = s.farBad ∧
    (setCore s c k).power = s.power ∧ (setCore s c k).wstart = s.wstart ∧ (setCore s c k).inject = s.inject ∧ (setCore s c k).conds = s.conds ∧
    (setCore s c k).heldReacts = s.heldReacts ∧ (setCore s c k).raised = s.raised ∧ (setCore s c k).fifos = s.fifos ∧
    (setCore s c k).watchPend = s.watchPend ∧ (setCore s c k).jtagAddr = s.jtagAddr ∧ (setCore s c k).jtagReg = s.jtagReg ∧
    (setCore s c k).jtagBypass = s.jtagBypass ∧ (setCore s c k).out = s.out := by
  refine ⟨rfl, rfl, rfl, rfl, rfl, rfl, rfl, rfl, rfl, rfl, rfl, rfl, rfl, rfl, rfl, rfl, rfl, rfl, rfl, rfl, rfl, rfl, rfl, rfl, rfl, rfl, rfl, rfl, rfl, rfl, rfl, rfl, rfl, rfl, rfl, rfl, rfl, rfl, rfl, rfl, rfl, rfl, rfl, rfl, rfl, rfl, rfl, rfl, rfl, rfl, rfl, rfl, rfl, rfl, rfl, rfl, rfl, rfl, rfl, rfl, rfl, rfl, rfl, rfl, rfl, rfl, rfl, rfl, rfl, rfl, rfl, rfl⟩

@[simp] theorem setProg_frame (c : Nat) (p : Prog) :
    (setProg s c p).pending = s.pending ∧ (setProg s c p).freeCtr = s.freeCtr ∧ (setProg s c p).stc = s.stc ∧ (setProg s c p).stcRun = s.stcRun ∧
    (setProg s c p).cclk = s.cclk ∧ (setProg s c p).cclkLost = s.cclkLost ∧ (setProg s c p).qedge = s.qedge ∧ (setProg s c p).harvest = s.harvest ∧
    (setProg s c p).regs = s.regs ∧ (setProg s c p).work = s.work ∧ (setProg s c p).held = s.held ∧ (setProg s c p).mem = s.mem ∧
    (setProg s c p).poison = s.poison ∧ (setProg s c p).keys = s.keys ∧ (setProg s c p).keyPend = s.keyPend ∧ (setProg s c p).clusters = s.clusters ∧
    (setProg s c p).txns = s.txns ∧ (setProg s c p).dir = s.dir ∧ (setProg s c p).filt = s.filt ∧ (setProg s c p).devc = s.devc ∧
    (setProg s c p).hreqs = s.hreqs ∧ (setProg s c p).bis = s.bis ∧ (setProg s c p).refused = s.refused ∧ (setProg s c p).snps = s.snps ∧
    (setProg s c p).posts = s.posts ∧ (setProg s c p).undo = s.undo ∧ (setProg s c p).faults = s.faults ∧ (setProg s c p).migs = s.migs ∧
    (setProg s c p).nextPrg = s.nextPrg ∧ (setProg s c p).atsCpl = s.atsCpl ∧ (setProg s c p).inv = s.inv ∧ (setProg s c p).atsInv = s.atsInv ∧
    (setProg s c p).atsStale = s.atsStale ∧ (setProg s c p).lookups = s.lookups ∧ (setProg s c p).copyBacks = s.copyBacks ∧
    (setProg s c p).slotRels = s.slotRels ∧ (setProg s c p).shares = s.shares ∧ (setProg s c p).epochAt = s.epochAt ∧
    (setProg s c p).tasks = s.tasks ∧ (setProg s c p).nextTask = s.nextTask ∧ (setProg s c p).gctx = s.gctx ∧ (setProg s c p).turn = s.turn ∧
    (setProg s c p).recs = s.recs ∧ (setProg s c p).lines = s.lines ∧ (setProg s c p).ep = s.ep ∧ (setProg s c p).mcImage = s.mcImage ∧
    (setProg s c p).dtOut = s.dtOut ∧ (setProg s c p).nextTag = s.nextTag ∧ (setProg s c p).chans = s.chans ∧ (setProg s c p).served = s.served ∧
    (setProg s c p).ackDue = s.ackDue ∧ (setProg s c p).peers = s.peers ∧ (setProg s c p).heldFmts = s.heldFmts ∧
    (setProg s c p).lastBeacon = s.lastBeacon ∧ (setProg s c p).beaconHeard = s.beaconHeard ∧ (setProg s c p).slew = s.slew ∧
    (setProg s c p).slews = s.slews ∧ (setProg s c p).offset = s.offset ∧ (setProg s c p).fmpCmd = s.fmpCmd ∧ (setProg s c p).farBad = s.farBad ∧
    (setProg s c p).power = s.power ∧ (setProg s c p).wstart = s.wstart ∧ (setProg s c p).inject = s.inject ∧ (setProg s c p).conds = s.conds ∧
    (setProg s c p).heldReacts = s.heldReacts ∧ (setProg s c p).raised = s.raised ∧ (setProg s c p).fifos = s.fifos ∧
    (setProg s c p).watchPend = s.watchPend ∧ (setProg s c p).jtagAddr = s.jtagAddr ∧ (setProg s c p).jtagReg = s.jtagReg ∧
    (setProg s c p).jtagBypass = s.jtagBypass ∧ (setProg s c p).out = s.out := by
  refine ⟨rfl, rfl, rfl, rfl, rfl, rfl, rfl, rfl, rfl, rfl, rfl, rfl, rfl, rfl, rfl, rfl, rfl, rfl, rfl, rfl, rfl, rfl, rfl, rfl, rfl, rfl, rfl, rfl, rfl, rfl, rfl, rfl, rfl, rfl, rfl, rfl, rfl, rfl, rfl, rfl, rfl, rfl, rfl, rfl, rfl, rfl, rfl, rfl, rfl, rfl, rfl, rfl, rfl, rfl, rfl, rfl, rfl, rfl, rfl, rfl, rfl, rfl, rfl, rfl, rfl, rfl, rfl, rfl, rfl, rfl, rfl, rfl⟩

@[simp] theorem setCluster_frame (c : Nat) (k : Cluster) :
    (setCluster s c k).pending = s.pending ∧ (setCluster s c k).freeCtr = s.freeCtr ∧ (setCluster s c k).stc = s.stc ∧
    (setCluster s c k).stcRun = s.stcRun ∧ (setCluster s c k).cclk = s.cclk ∧ (setCluster s c k).cclkLost = s.cclkLost ∧
    (setCluster s c k).qedge = s.qedge ∧ (setCluster s c k).harvest = s.harvest ∧ (setCluster s c k).regs = s.regs ∧
    (setCluster s c k).work = s.work ∧ (setCluster s c k).held = s.held ∧ (setCluster s c k).mem = s.mem ∧ (setCluster s c k).poison = s.poison ∧
    (setCluster s c k).keys = s.keys ∧ (setCluster s c k).keyPend = s.keyPend ∧ (setCluster s c k).cores = s.cores ∧
    (setCluster s c k).txns = s.txns ∧ (setCluster s c k).dir = s.dir ∧ (setCluster s c k).filt = s.filt ∧ (setCluster s c k).devc = s.devc ∧
    (setCluster s c k).hreqs = s.hreqs ∧ (setCluster s c k).bis = s.bis ∧ (setCluster s c k).refused = s.refused ∧ (setCluster s c k).snps = s.snps ∧
    (setCluster s c k).posts = s.posts ∧ (setCluster s c k).undo = s.undo ∧ (setCluster s c k).faults = s.faults ∧ (setCluster s c k).migs = s.migs ∧
    (setCluster s c k).nextPrg = s.nextPrg ∧ (setCluster s c k).atsCpl = s.atsCpl ∧ (setCluster s c k).inv = s.inv ∧
    (setCluster s c k).atsInv = s.atsInv ∧ (setCluster s c k).atsStale = s.atsStale ∧ (setCluster s c k).lookups = s.lookups ∧
    (setCluster s c k).copyBacks = s.copyBacks ∧ (setCluster s c k).slotRels = s.slotRels ∧ (setCluster s c k).shares = s.shares ∧
    (setCluster s c k).epochAt = s.epochAt ∧ (setCluster s c k).tasks = s.tasks ∧ (setCluster s c k).nextTask = s.nextTask ∧
    (setCluster s c k).gctx = s.gctx ∧ (setCluster s c k).turn = s.turn ∧ (setCluster s c k).recs = s.recs ∧ (setCluster s c k).lines = s.lines ∧
    (setCluster s c k).ep = s.ep ∧ (setCluster s c k).mcImage = s.mcImage ∧ (setCluster s c k).dtOut = s.dtOut ∧
    (setCluster s c k).nextTag = s.nextTag ∧ (setCluster s c k).chans = s.chans ∧ (setCluster s c k).served = s.served ∧
    (setCluster s c k).ackDue = s.ackDue ∧ (setCluster s c k).peers = s.peers ∧ (setCluster s c k).heldFmts = s.heldFmts ∧
    (setCluster s c k).lastBeacon = s.lastBeacon ∧ (setCluster s c k).beaconHeard = s.beaconHeard ∧ (setCluster s c k).slew = s.slew ∧
    (setCluster s c k).slews = s.slews ∧ (setCluster s c k).offset = s.offset ∧ (setCluster s c k).fmpCmd = s.fmpCmd ∧
    (setCluster s c k).farBad = s.farBad ∧ (setCluster s c k).power = s.power ∧ (setCluster s c k).wstart = s.wstart ∧
    (setCluster s c k).inject = s.inject ∧ (setCluster s c k).conds = s.conds ∧ (setCluster s c k).heldReacts = s.heldReacts ∧
    (setCluster s c k).raised = s.raised ∧ (setCluster s c k).fifos = s.fifos ∧ (setCluster s c k).watchPend = s.watchPend ∧
    (setCluster s c k).jtagAddr = s.jtagAddr ∧ (setCluster s c k).jtagReg = s.jtagReg ∧ (setCluster s c k).jtagBypass = s.jtagBypass ∧
    (setCluster s c k).out = s.out := by
  refine ⟨rfl, rfl, rfl, rfl, rfl, rfl, rfl, rfl, rfl, rfl, rfl, rfl, rfl, rfl, rfl, rfl, rfl, rfl, rfl, rfl, rfl, rfl, rfl, rfl, rfl, rfl, rfl, rfl, rfl, rfl, rfl, rfl, rfl, rfl, rfl, rfl, rfl, rfl, rfl, rfl, rfl, rfl, rfl, rfl, rfl, rfl, rfl, rfl, rfl, rfl, rfl, rfl, rfl, rfl, rfl, rfl, rfl, rfl, rfl, rfl, rfl, rfl, rfl, rfl, rfl, rfl, rfl, rfl, rfl, rfl, rfl, rfl⟩

@[simp] theorem setFifo_frame (k : Nat) (f : Fifo) :
    (setFifo s k f).pending = s.pending ∧ (setFifo s k f).freeCtr = s.freeCtr ∧ (setFifo s k f).stc = s.stc ∧ (setFifo s k f).stcRun = s.stcRun ∧
    (setFifo s k f).cclk = s.cclk ∧ (setFifo s k f).cclkLost = s.cclkLost ∧ (setFifo s k f).qedge = s.qedge ∧ (setFifo s k f).harvest = s.harvest ∧
    (setFifo s k f).regs = s.regs ∧ (setFifo s k f).work = s.work ∧ (setFifo s k f).held = s.held ∧ (setFifo s k f).mem = s.mem ∧
    (setFifo s k f).poison = s.poison ∧ (setFifo s k f).keys = s.keys ∧ (setFifo s k f).keyPend = s.keyPend ∧ (setFifo s k f).cores = s.cores ∧
    (setFifo s k f).clusters = s.clusters ∧ (setFifo s k f).txns = s.txns ∧ (setFifo s k f).dir = s.dir ∧ (setFifo s k f).filt = s.filt ∧
    (setFifo s k f).devc = s.devc ∧ (setFifo s k f).hreqs = s.hreqs ∧ (setFifo s k f).bis = s.bis ∧ (setFifo s k f).refused = s.refused ∧
    (setFifo s k f).snps = s.snps ∧ (setFifo s k f).posts = s.posts ∧ (setFifo s k f).undo = s.undo ∧ (setFifo s k f).faults = s.faults ∧
    (setFifo s k f).migs = s.migs ∧ (setFifo s k f).nextPrg = s.nextPrg ∧ (setFifo s k f).atsCpl = s.atsCpl ∧ (setFifo s k f).inv = s.inv ∧
    (setFifo s k f).atsInv = s.atsInv ∧ (setFifo s k f).atsStale = s.atsStale ∧ (setFifo s k f).lookups = s.lookups ∧
    (setFifo s k f).copyBacks = s.copyBacks ∧ (setFifo s k f).slotRels = s.slotRels ∧ (setFifo s k f).shares = s.shares ∧
    (setFifo s k f).epochAt = s.epochAt ∧ (setFifo s k f).tasks = s.tasks ∧ (setFifo s k f).nextTask = s.nextTask ∧ (setFifo s k f).gctx = s.gctx ∧
    (setFifo s k f).turn = s.turn ∧ (setFifo s k f).recs = s.recs ∧ (setFifo s k f).lines = s.lines ∧ (setFifo s k f).ep = s.ep ∧
    (setFifo s k f).mcImage = s.mcImage ∧ (setFifo s k f).dtOut = s.dtOut ∧ (setFifo s k f).nextTag = s.nextTag ∧ (setFifo s k f).chans = s.chans ∧
    (setFifo s k f).served = s.served ∧ (setFifo s k f).ackDue = s.ackDue ∧ (setFifo s k f).peers = s.peers ∧ (setFifo s k f).heldFmts = s.heldFmts ∧
    (setFifo s k f).lastBeacon = s.lastBeacon ∧ (setFifo s k f).beaconHeard = s.beaconHeard ∧ (setFifo s k f).slew = s.slew ∧
    (setFifo s k f).slews = s.slews ∧ (setFifo s k f).offset = s.offset ∧ (setFifo s k f).fmpCmd = s.fmpCmd ∧ (setFifo s k f).farBad = s.farBad ∧
    (setFifo s k f).power = s.power ∧ (setFifo s k f).wstart = s.wstart ∧ (setFifo s k f).inject = s.inject ∧ (setFifo s k f).conds = s.conds ∧
    (setFifo s k f).heldReacts = s.heldReacts ∧ (setFifo s k f).raised = s.raised ∧ (setFifo s k f).watchPend = s.watchPend ∧
    (setFifo s k f).jtagAddr = s.jtagAddr ∧ (setFifo s k f).jtagReg = s.jtagReg ∧ (setFifo s k f).jtagBypass = s.jtagBypass ∧
    (setFifo s k f).out = s.out := by
  refine ⟨rfl, rfl, rfl, rfl, rfl, rfl, rfl, rfl, rfl, rfl, rfl, rfl, rfl, rfl, rfl, rfl, rfl, rfl, rfl, rfl, rfl, rfl, rfl, rfl, rfl, rfl, rfl, rfl, rfl, rfl, rfl, rfl, rfl, rfl, rfl, rfl, rfl, rfl, rfl, rfl, rfl, rfl, rfl, rfl, rfl, rfl, rfl, rfl, rfl, rfl, rfl, rfl, rfl, rfl, rfl, rfl, rfl, rfl, rfl, rfl, rfl, rfl, rfl, rfl, rfl, rfl, rfl, rfl, rfl, rfl, rfl, rfl⟩

@[simp] theorem setGctx_frame (c : BitVec 12) (g : Gctx) :
    (setGctx s c g).pending = s.pending ∧ (setGctx s c g).freeCtr = s.freeCtr ∧ (setGctx s c g).stc = s.stc ∧ (setGctx s c g).stcRun = s.stcRun ∧
    (setGctx s c g).cclk = s.cclk ∧ (setGctx s c g).cclkLost = s.cclkLost ∧ (setGctx s c g).qedge = s.qedge ∧ (setGctx s c g).harvest = s.harvest ∧
    (setGctx s c g).regs = s.regs ∧ (setGctx s c g).work = s.work ∧ (setGctx s c g).held = s.held ∧ (setGctx s c g).mem = s.mem ∧
    (setGctx s c g).poison = s.poison ∧ (setGctx s c g).keys = s.keys ∧ (setGctx s c g).keyPend = s.keyPend ∧ (setGctx s c g).cores = s.cores ∧
    (setGctx s c g).clusters = s.clusters ∧ (setGctx s c g).txns = s.txns ∧ (setGctx s c g).dir = s.dir ∧ (setGctx s c g).filt = s.filt ∧
    (setGctx s c g).devc = s.devc ∧ (setGctx s c g).hreqs = s.hreqs ∧ (setGctx s c g).bis = s.bis ∧ (setGctx s c g).refused = s.refused ∧
    (setGctx s c g).snps = s.snps ∧ (setGctx s c g).posts = s.posts ∧ (setGctx s c g).undo = s.undo ∧ (setGctx s c g).faults = s.faults ∧
    (setGctx s c g).migs = s.migs ∧ (setGctx s c g).nextPrg = s.nextPrg ∧ (setGctx s c g).atsCpl = s.atsCpl ∧ (setGctx s c g).inv = s.inv ∧
    (setGctx s c g).atsInv = s.atsInv ∧ (setGctx s c g).atsStale = s.atsStale ∧ (setGctx s c g).lookups = s.lookups ∧
    (setGctx s c g).copyBacks = s.copyBacks ∧ (setGctx s c g).slotRels = s.slotRels ∧ (setGctx s c g).shares = s.shares ∧
    (setGctx s c g).epochAt = s.epochAt ∧ (setGctx s c g).tasks = s.tasks ∧ (setGctx s c g).nextTask = s.nextTask ∧ (setGctx s c g).turn = s.turn ∧
    (setGctx s c g).recs = s.recs ∧ (setGctx s c g).lines = s.lines ∧ (setGctx s c g).ep = s.ep ∧ (setGctx s c g).mcImage = s.mcImage ∧
    (setGctx s c g).dtOut = s.dtOut ∧ (setGctx s c g).nextTag = s.nextTag ∧ (setGctx s c g).chans = s.chans ∧ (setGctx s c g).served = s.served ∧
    (setGctx s c g).ackDue = s.ackDue ∧ (setGctx s c g).peers = s.peers ∧ (setGctx s c g).heldFmts = s.heldFmts ∧
    (setGctx s c g).lastBeacon = s.lastBeacon ∧ (setGctx s c g).beaconHeard = s.beaconHeard ∧ (setGctx s c g).slew = s.slew ∧
    (setGctx s c g).slews = s.slews ∧ (setGctx s c g).offset = s.offset ∧ (setGctx s c g).fmpCmd = s.fmpCmd ∧ (setGctx s c g).farBad = s.farBad ∧
    (setGctx s c g).power = s.power ∧ (setGctx s c g).wstart = s.wstart ∧ (setGctx s c g).inject = s.inject ∧ (setGctx s c g).conds = s.conds ∧
    (setGctx s c g).heldReacts = s.heldReacts ∧ (setGctx s c g).raised = s.raised ∧ (setGctx s c g).fifos = s.fifos ∧
    (setGctx s c g).watchPend = s.watchPend ∧ (setGctx s c g).jtagAddr = s.jtagAddr ∧ (setGctx s c g).jtagReg = s.jtagReg ∧
    (setGctx s c g).jtagBypass = s.jtagBypass ∧ (setGctx s c g).out = s.out := by
  refine ⟨rfl, rfl, rfl, rfl, rfl, rfl, rfl, rfl, rfl, rfl, rfl, rfl, rfl, rfl, rfl, rfl, rfl, rfl, rfl, rfl, rfl, rfl, rfl, rfl, rfl, rfl, rfl, rfl, rfl, rfl, rfl, rfl, rfl, rfl, rfl, rfl, rfl, rfl, rfl, rfl, rfl, rfl, rfl, rfl, rfl, rfl, rfl, rfl, rfl, rfl, rfl, rfl, rfl, rfl, rfl, rfl, rfl, rfl, rfl, rfl, rfl, rfl, rfl, rfl, rfl, rfl, rfl, rfl, rfl, rfl, rfl, rfl⟩

@[simp] theorem setStrikeLine_frame (l : Nat) (x : StrikeLine) :
    (setStrikeLine s l x).pending = s.pending ∧ (setStrikeLine s l x).freeCtr = s.freeCtr ∧ (setStrikeLine s l x).stc = s.stc ∧
    (setStrikeLine s l x).stcRun = s.stcRun ∧ (setStrikeLine s l x).cclk = s.cclk ∧ (setStrikeLine s l x).cclkLost = s.cclkLost ∧
    (setStrikeLine s l x).qedge = s.qedge ∧ (setStrikeLine s l x).harvest = s.harvest ∧ (setStrikeLine s l x).regs = s.regs ∧
    (setStrikeLine s l x).work = s.work ∧ (setStrikeLine s l x).held = s.held ∧ (setStrikeLine s l x).mem = s.mem ∧
    (setStrikeLine s l x).poison = s.poison ∧ (setStrikeLine s l x).keys = s.keys ∧ (setStrikeLine s l x).keyPend = s.keyPend ∧
    (setStrikeLine s l x).cores = s.cores ∧ (setStrikeLine s l x).clusters = s.clusters ∧ (setStrikeLine s l x).txns = s.txns ∧
    (setStrikeLine s l x).dir = s.dir ∧ (setStrikeLine s l x).filt = s.filt ∧ (setStrikeLine s l x).devc = s.devc ∧
    (setStrikeLine s l x).hreqs = s.hreqs ∧ (setStrikeLine s l x).bis = s.bis ∧ (setStrikeLine s l x).refused = s.refused ∧
    (setStrikeLine s l x).snps = s.snps ∧ (setStrikeLine s l x).posts = s.posts ∧ (setStrikeLine s l x).undo = s.undo ∧
    (setStrikeLine s l x).faults = s.faults ∧ (setStrikeLine s l x).migs = s.migs ∧ (setStrikeLine s l x).nextPrg = s.nextPrg ∧
    (setStrikeLine s l x).atsCpl = s.atsCpl ∧ (setStrikeLine s l x).inv = s.inv ∧ (setStrikeLine s l x).atsInv = s.atsInv ∧
    (setStrikeLine s l x).atsStale = s.atsStale ∧ (setStrikeLine s l x).lookups = s.lookups ∧ (setStrikeLine s l x).copyBacks = s.copyBacks ∧
    (setStrikeLine s l x).slotRels = s.slotRels ∧ (setStrikeLine s l x).shares = s.shares ∧ (setStrikeLine s l x).epochAt = s.epochAt ∧
    (setStrikeLine s l x).tasks = s.tasks ∧ (setStrikeLine s l x).nextTask = s.nextTask ∧ (setStrikeLine s l x).gctx = s.gctx ∧
    (setStrikeLine s l x).turn = s.turn ∧ (setStrikeLine s l x).recs = s.recs ∧ (setStrikeLine s l x).ep = s.ep ∧
    (setStrikeLine s l x).mcImage = s.mcImage ∧ (setStrikeLine s l x).dtOut = s.dtOut ∧ (setStrikeLine s l x).nextTag = s.nextTag ∧
    (setStrikeLine s l x).chans = s.chans ∧ (setStrikeLine s l x).served = s.served ∧ (setStrikeLine s l x).ackDue = s.ackDue ∧
    (setStrikeLine s l x).peers = s.peers ∧ (setStrikeLine s l x).heldFmts = s.heldFmts ∧ (setStrikeLine s l x).lastBeacon = s.lastBeacon ∧
    (setStrikeLine s l x).beaconHeard = s.beaconHeard ∧ (setStrikeLine s l x).slew = s.slew ∧ (setStrikeLine s l x).slews = s.slews ∧
    (setStrikeLine s l x).offset = s.offset ∧ (setStrikeLine s l x).fmpCmd = s.fmpCmd ∧ (setStrikeLine s l x).farBad = s.farBad ∧
    (setStrikeLine s l x).power = s.power ∧ (setStrikeLine s l x).wstart = s.wstart ∧ (setStrikeLine s l x).inject = s.inject ∧
    (setStrikeLine s l x).conds = s.conds ∧ (setStrikeLine s l x).heldReacts = s.heldReacts ∧ (setStrikeLine s l x).raised = s.raised ∧
    (setStrikeLine s l x).fifos = s.fifos ∧ (setStrikeLine s l x).watchPend = s.watchPend ∧ (setStrikeLine s l x).jtagAddr = s.jtagAddr ∧
    (setStrikeLine s l x).jtagReg = s.jtagReg ∧ (setStrikeLine s l x).jtagBypass = s.jtagBypass ∧ (setStrikeLine s l x).out = s.out := by
  refine ⟨rfl, rfl, rfl, rfl, rfl, rfl, rfl, rfl, rfl, rfl, rfl, rfl, rfl, rfl, rfl, rfl, rfl, rfl, rfl, rfl, rfl, rfl, rfl, rfl, rfl, rfl, rfl, rfl, rfl, rfl, rfl, rfl, rfl, rfl, rfl, rfl, rfl, rfl, rfl, rfl, rfl, rfl, rfl, rfl, rfl, rfl, rfl, rfl, rfl, rfl, rfl, rfl, rfl, rfl, rfl, rfl, rfl, rfl, rfl, rfl, rfl, rfl, rfl, rfl, rfl, rfl, rfl, rfl, rfl, rfl, rfl, rfl⟩

@[simp] theorem updTask_frame (id : Nat) (f : Task → Task) :
    (updTask s id f).pending = s.pending ∧ (updTask s id f).freeCtr = s.freeCtr ∧ (updTask s id f).stc = s.stc ∧ (updTask s id f).stcRun = s.stcRun ∧
    (updTask s id f).cclk = s.cclk ∧ (updTask s id f).cclkLost = s.cclkLost ∧ (updTask s id f).qedge = s.qedge ∧
    (updTask s id f).harvest = s.harvest ∧ (updTask s id f).regs = s.regs ∧ (updTask s id f).work = s.work ∧ (updTask s id f).held = s.held ∧
    (updTask s id f).mem = s.mem ∧ (updTask s id f).poison = s.poison ∧ (updTask s id f).keys = s.keys ∧ (updTask s id f).keyPend = s.keyPend ∧
    (updTask s id f).cores = s.cores ∧ (updTask s id f).clusters = s.clusters ∧ (updTask s id f).txns = s.txns ∧ (updTask s id f).dir = s.dir ∧
    (updTask s id f).filt = s.filt ∧ (updTask s id f).devc = s.devc ∧ (updTask s id f).hreqs = s.hreqs ∧ (updTask s id f).bis = s.bis ∧
    (updTask s id f).refused = s.refused ∧ (updTask s id f).snps = s.snps ∧ (updTask s id f).posts = s.posts ∧ (updTask s id f).undo = s.undo ∧
    (updTask s id f).faults = s.faults ∧ (updTask s id f).migs = s.migs ∧ (updTask s id f).nextPrg = s.nextPrg ∧ (updTask s id f).atsCpl = s.atsCpl ∧
    (updTask s id f).inv = s.inv ∧ (updTask s id f).atsInv = s.atsInv ∧ (updTask s id f).atsStale = s.atsStale ∧
    (updTask s id f).lookups = s.lookups ∧ (updTask s id f).copyBacks = s.copyBacks ∧ (updTask s id f).slotRels = s.slotRels ∧
    (updTask s id f).shares = s.shares ∧ (updTask s id f).epochAt = s.epochAt ∧ (updTask s id f).nextTask = s.nextTask ∧
    (updTask s id f).gctx = s.gctx ∧ (updTask s id f).turn = s.turn ∧ (updTask s id f).recs = s.recs ∧ (updTask s id f).lines = s.lines ∧
    (updTask s id f).ep = s.ep ∧ (updTask s id f).mcImage = s.mcImage ∧ (updTask s id f).dtOut = s.dtOut ∧ (updTask s id f).nextTag = s.nextTag ∧
    (updTask s id f).chans = s.chans ∧ (updTask s id f).served = s.served ∧ (updTask s id f).ackDue = s.ackDue ∧ (updTask s id f).peers = s.peers ∧
    (updTask s id f).heldFmts = s.heldFmts ∧ (updTask s id f).lastBeacon = s.lastBeacon ∧ (updTask s id f).beaconHeard = s.beaconHeard ∧
    (updTask s id f).slew = s.slew ∧ (updTask s id f).slews = s.slews ∧ (updTask s id f).offset = s.offset ∧ (updTask s id f).fmpCmd = s.fmpCmd ∧
    (updTask s id f).farBad = s.farBad ∧ (updTask s id f).power = s.power ∧ (updTask s id f).wstart = s.wstart ∧ (updTask s id f).inject = s.inject ∧
    (updTask s id f).conds = s.conds ∧ (updTask s id f).heldReacts = s.heldReacts ∧ (updTask s id f).raised = s.raised ∧
    (updTask s id f).fifos = s.fifos ∧ (updTask s id f).watchPend = s.watchPend ∧ (updTask s id f).jtagAddr = s.jtagAddr ∧
    (updTask s id f).jtagReg = s.jtagReg ∧ (updTask s id f).jtagBypass = s.jtagBypass ∧ (updTask s id f).out = s.out := by
  refine ⟨rfl, rfl, rfl, rfl, rfl, rfl, rfl, rfl, rfl, rfl, rfl, rfl, rfl, rfl, rfl, rfl, rfl, rfl, rfl, rfl, rfl, rfl, rfl, rfl, rfl, rfl, rfl, rfl, rfl, rfl, rfl, rfl, rfl, rfl, rfl, rfl, rfl, rfl, rfl, rfl, rfl, rfl, rfl, rfl, rfl, rfl, rfl, rfl, rfl, rfl, rfl, rfl, rfl, rfl, rfl, rfl, rfl, rfl, rfl, rfl, rfl, rfl, rfl, rfl, rfl, rfl, rfl, rfl, rfl, rfl, rfl, rfl⟩

@[simp] theorem setCore_cores (c : Nat) (k : Core) : (setCore s c k).cores = mapSet (fun _ => coreInit) s.cores c k := rfl

@[simp] theorem setReg_regs (b : Blk) (o : Nat) (w : Word) : (setReg s b o w).regs = mapSet regDefault s.regs (rk b o) w := rfl

@[simp] theorem setByte_mem (a : Nat) (v : Byte) : (setByte s a v).mem = mapSet memDefault s.mem a v := rfl

@[simp] theorem send_out (m : Msg) : (send s m).out = m :: s.out := rfl

/-! Cores: a core that runs a task is never the initial one, so what is put is read back and later puts replace earlier ones. -/

theorem ne_coreInit_of_prog (k : Core) (p : Prog) (h : k.prog = some p) : k ≠ coreInit := by
  intro e; simp [e, coreInit] at h

@[simp] theorem core_setCore_prog (c : Nat) (k : Core) (p : Prog) : core (setCore s c { k with prog := some p }) c = { k with prog := some p } :=
  mapGet_mapSet_self_of_ne _ _ _ _ (ne_coreInit_of_prog _ p rfl)

theorem core_setCore_run (c : Nat) (k : Core) (p : Prog) (h : k.prog = some p) : core (setCore s c k) c = k :=
  mapGet_mapSet_self_of_ne _ _ _ _ (ne_coreInit_of_prog _ p h)

theorem core_setCore_other (c d : Nat) (k : Core) (p : Prog) (h : k.prog = some p) (hd : d ≠ c) : core (setCore s c k) d = core s d :=
  mapGet_mapSet_other_of_ne _ _ _ _ _ (ne_coreInit_of_prog _ p h) hd

theorem setCore_setCore_run (c : Nat) (k k' : Core) (p : Prog) (h : k.prog = some p) : setCore (setCore s c k) c k' = setCore s c k' := by
  simp only [setCore]
  rw [mapSet_mapSet _ _ _ _ _ (ne_coreInit_of_prog _ p h)]

theorem prog?_setCore_run (c : Nat) (k : Core) (p : Prog) (h : k.prog = some p) : prog? (setCore s c k) c = some p := by
  rw [prog?, core_setCore_run s c k p h, h]

@[simp] theorem prog?_setProg (c : Nat) (p : Prog) : prog? (setProg s c p) c = some p := by
  simp [setProg, prog?]

theorem updProg_run (c : Nat) (f : Prog → Prog) (p : Prog) (h : prog? s c = some p) : updProg s c f = setProg s c (f p) := by
  simp [updProg, h]

theorem updProg_none (c : Nat) (f : Prog → Prog) (h : prog? s c = none) : updProg s c f = s := by
  simp [updProg, h]

/-! Registers in canonical form. -/

theorem reg_setReg (b : Blk) (o : Nat) (w : Word) (h : mapWf regDefault s.regs = true) : reg (setReg s b o w) b o = w :=
  mapGet_mapSet_self _ _ 0 _ _ h

theorem reg_setReg_other (b b' : Blk) (o o' : Nat) (w : Word) (h : mapWf regDefault s.regs = true) (hk : rk b' o' ≠ rk b o) :
    reg (setReg s b o w) b' o' = reg s b' o' := mapGet_mapSet_other _ _ 0 _ _ _ h hk

theorem setReg_wf (b : Blk) (o : Nat) (w : Word) (h : mapWf regDefault s.regs = true) : mapWf regDefault (setReg s b o w).regs = true :=
  mapWf_mapSet _ _ _ _ h

/-! Program registers: s0 and p0 are never written (R161). -/

@[simp] theorem sreg_zero (p : Prog) : sreg p 0 = 0 := rfl
@[simp] theorem preg_zero (p : Prog) : preg p 0 = true := rfl
@[simp] theorem setSreg_zero (p : Prog) (w : Word) : setSreg p 0 w = p := rfl
@[simp] theorem setPreg_zero (p : Prog) (v : Bool) : setPreg p 0 v = p := rfl

end Sys2Proof.Machine
end

