-- ==== Sys2Proof/Laws/Memory.lean ====
section
/-! SUPPORT. Laws of the memory bytes: every operation that writes them keeps the canonical form, and what is written
reads back while every other byte stays. -/

namespace Sys2Proof.Machine

variable (s : State)

@[simp] theorem State.reset_mem_wf : Memory.wf State.reset.mem = true := rfl

theorem setByte_wf (a : Nat) (v : Byte) (h : Memory.wf s.mem = true) : Memory.wf (setByte s a v).mem = true :=
  mapWf_mapSet _ _ _ _ h

theorem memByte_setByte (a : Nat) (v : Byte) (h : Memory.wf s.mem = true) : memByte (setByte s a v) a = v :=
  mapGet_mapSet_self _ _ 0 _ _ h

theorem memByte_setByte_other (a b : Nat) (v : Byte) (h : Memory.wf s.mem = true) (hb : b ≠ a) : memByte (setByte s a v) b = memByte s b :=
  mapGet_mapSet_other _ _ 0 _ _ _ h hb

theorem setBytes_wf (a : Nat) (d : List Byte) (h : Memory.wf s.mem = true) : Memory.wf (setBytes s a d).mem = true := by
  induction d generalizing s a with
  | nil => exact h
  | cons b t ih => exact ih _ _ (setByte_wf s a b h)

/-- A written range changes no byte outside it. -/
theorem memByte_setBytes_other (a b : Nat) (d : List Byte) (h : Memory.wf s.mem = true) (hb : b < a ∨ a + d.length ≤ b) :
    memByte (setBytes s a d) b = memByte s b := by
  induction d generalizing s a with
  | nil => rfl
  | cons x t ih =>
    simp only [List.length_cons] at hb
    rw [setBytes, ih _ _ (setByte_wf s a x h) (by omega), memByte_setByte_other s a b x h (by omega)]

/-- A written range reads back. -/
theorem memBytes_setBytes (a : Nat) (d : List Byte) (h : Memory.wf s.mem = true) : memBytes (setBytes s a d) a d.length = d := by
  induction d generalizing s a with
  | nil => rfl
  | cons x t ih =>
    have h' := setByte_wf s a x h
    simp only [setBytes, List.length_cons, memBytes]
    rw [ih _ _ h', memByte_setBytes_other _ _ _ _ h' (by omega), memByte_setByte s a x h]

/-- Writing bytes touches memory alone. -/
theorem setBytes_eq (a : Nat) (d : List Byte) : setBytes s a d = { s with mem := (setBytes s a d).mem } := by
  induction d generalizing s a with
  | nil => rfl
  | cons x t ih =>
    rw [setBytes]
    exact (ih (setByte s a x) (a + 1)).trans rfl

theorem mapWfFrom_filter (p : Host.Cell → Bool) (m : List Host.Cell) (lo : Nat) (h : mapWfFrom memDefault lo m = true) :
    mapWfFrom memDefault lo (m.filter p) = true := by
  induction m generalizing lo with
  | nil => rfl
  | cons e t ih =>
    obtain ⟨k, v⟩ := e
    simp only [mapWfFrom, Bool.and_eq_true, decide_eq_true_eq, Bool.not_eq_true', decide_eq_false_iff_not] at h
    by_cases hp : p (k, v) = true
    · simp [List.filter, hp, mapWfFrom, h.1.1, h.1.2, ih _ h.2]
    · simp only [List.filter, hp]
      exact mapWfFrom_mono _ _ (k + 1) lo (ih _ h.2) (by omega)

/-- Zeroing a range keeps the canonical form. -/
theorem zeroRange_wf (base size : Nat) (h : Memory.wf s.mem = true) : Memory.wf (zeroRange s base size).mem = true :=
  mapWfFrom_filter _ _ 0 h

end Sys2Proof.Machine
end

