-- ==== Sys2Proof/Laws/Chunk.lean ====
section
/-! SUPPORT. What a write of a chunk does to memory: it keeps the canonical form and changes no other chunk. -/

namespace Sys2Proof.Machine

variable (s : State)

@[simp] theorem fireInjection_mem (b : Blk) (src : Nat) (u a : Option Nat) : (fireInjection s b src u a).2.mem = s.mem := by
  unfold fireInjection; split <;> rfl

@[simp] theorem raiseFault_mem (b : Blk) (src : Nat) (u a : Option Nat) : (raiseFault s b src u a).mem = s.mem := rfl

theorem setChunkPoison_mem (k : Nat) (q : Bool) : (setChunkPoison s k q).mem = s.mem := rfl

@[simp] theorem noteUndo_mem (w : Who) (k : Nat) : (noteUndo s w k).mem = s.mem := by
  unfold noteUndo; split
  · split <;> rfl
  · rfl

@[simp] theorem updProg_mem (c : Nat) (f : Prog → Prog) : (updProg s c f).mem = s.mem := by
  unfold updProg; split <;> rfl

@[simp] theorem ringAt_mem (b : Blk) (base pos code ctx : Nat) (d : Word) : (ringAt s b base pos code ctx d).mem = s.mem := by
  unfold ringAt; split <;> rfl

@[simp] theorem coreRing_mem (c code ctx : Nat) (d : Word) : (coreRing s c code ctx d).mem = s.mem := ringAt_mem ..

@[simp] theorem fifoPush_mem (k : Nat) (r : List Word) : (fifoPush s k r).mem = s.mem := by
  unfold fifoPush; dsimp only; split <;> rfl

@[simp] theorem traceRec_mem (c ty ctx : Nat) (a b : Word) : (traceRec s c ty ctx a b).mem = s.mem := by
  unfold traceRec; split
  · exact fifoPush_mem ..
  · rfl

/-- A fold of updates that leave memory alone leaves it alone. -/
theorem foldl_mem {α : Type} (f : State → α → State) (hf : ∀ s a, (f s a).mem = s.mem) (l : List α) (s : State) :
    (l.foldl f s).mem = s.mem := by
  induction l generalizing s with
  | nil => rfl
  | cons a t ih => rw [List.foldl_cons, ih, hf]

@[simp] theorem slipEnd_mem (k : Nat) : (slipEnd s k).mem = s.mem := by
  unfold slipEnd; split
  · rfl
  · dsimp only; rw [updProg_mem]; rfl

@[simp] theorem slipStart_mem (c cause stall : Nat) : (slipStart s c cause stall).mem = s.mem := by
  unfold slipStart
  refine foldl_mem _ (fun s k => ?_) _ _
  rw [updProg_mem]
  split
  · exact slipEnd_mem ..
  · rfl

@[simp] theorem slipFor_mem (w : Who) (cause stall : Nat) : (slipFor s w cause stall).mem = s.mem := by
  unfold slipFor; repeat (first | split | simp)

@[simp] theorem markUncorrectable_mem (k : Nat) : (markUncorrectable s k).mem = s.mem := by
  unfold markUncorrectable; repeat (first | rfl | split)

@[simp] theorem chunkCheck_mem (w : Who) (k : Nat) : (chunkCheck s w k).2.mem = s.mem := by
  unfold chunkCheck; repeat (first | split | simp)

@[simp] theorem countSeam_mem (w : Who) (k n : Nat) (wr : Bool) : (countSeam s w k n wr).mem = s.mem := by
  unfold countSeam; repeat (first | rfl | split)

@[simp] theorem countBytes_mem (w : Who) (k n : Nat) (wr : Bool) : (countBytes s w k n wr).mem = s.mem := by
  rw [← countSeam_mem s w k n wr]
  unfold countBytes
  generalize countSeam s w k n wr = t
  dsimp only
  repeat (first | rfl | split)

/-- The state in which a write of a chunk puts its bytes has the memory of before it. -/
theorem chunkWrite_base (w : Who) (k n off : Nat) (key : Option Nat) (whole clear : Bool) (u : State) (d : List Byte)
    (hu : u = if clear then { noteUndo s w k with farBad := mapSet (fun _ => false) (noteUndo s w k).farBad k false } else noteUndo s w k) :
    (countBytes (if whole then u
      else if (partialWord off d.length || key.isSome) then (chunkCheck u w k).2 else u) w k n true).mem = s.mem := by
  have h : u.mem = s.mem := by
    subst hu; split
    · exact noteUndo_mem ..
    · exact noteUndo_mem ..
  rw [countBytes_mem]
  split
  · exact h
  · split
    · rw [chunkCheck_mem, h]
    · exact h

/-- A write of a chunk keeps the canonical form of memory. -/
theorem chunkWrite_wf (w : Who) (k off : Nat) (d : List Byte) (p : Bool) (key : Option Nat) (h : Memory.wf s.mem = true) :
    Memory.wf (chunkWrite s w k off d p key).mem = true := by
  have hb := chunkWrite_base s w k d.length off key (decide (d.length = 64)) (decide (d.length = 64) && !(noteUndo s w k).farBad.isEmpty) _ d rfl
  unfold chunkWrite
  dsimp only
  generalize countBytes _ w k d.length true = b at hb ⊢
  have hw : Memory.wf b.mem = true := by rw [hb]; exact h
  have hput : ∀ (q : Bool), Memory.wf (setChunkPoison (match key with
      | none => setBytes b (k * 64 + off) d
      | some _ => setBytes b (k * 64) (chunkCipher b k key (splice (chunkPlain b k key) off d))) k q).mem = true := by
    intro q
    rw [setChunkPoison_mem]
    cases key
    · exact setBytes_wf _ _ _ hw
    · exact setBytes_wf _ _ _ hw
  split
  · split
    · rw [raiseFault_mem]
      exact setBytes_wf _ _ _ hw
    · exact hput _
  · exact hput _

/-- A write of a chunk in the clear changes no byte outside the bytes it writes, but for a stack without room to mark poison,
whose chunk it zeroes (R255). -/
theorem chunkWrite_other (w : Who) (k off a : Nat) (d : List Byte) (h : Memory.wf s.mem = true)
    (ha : a < k * 64 + off ∨ k * 64 + off + d.length ≤ a) : memByte (chunkWrite s w k off d false none) a = memByte s a := by
  have hb := chunkWrite_base s w k d.length off none (decide (d.length = 64)) (decide (d.length = 64) && !(noteUndo s w k).farBad.isEmpty) _ d rfl
  unfold chunkWrite
  dsimp only
  generalize countBytes _ w k d.length true = b at hb ⊢
  have hw : Memory.wf b.mem = true := by rw [hb]; exact h
  have hm : memByte b a = memByte s a := by simp only [memByte, hb]
  have key : memByte (setBytes b (k * 64 + off) d) a = memByte s a := by
    rw [memByte_setBytes_other b _ _ d hw ha, hm]
  split
  · rw [if_neg (by simp)]
    exact key
  · exact key

end Sys2Proof.Machine
end

