-- ==== Sys2Proof/Laws/Monad.lean ====
section
/-! SUPPORT. How the steps of an effect run: one equation for each primitive. -/

namespace Sys2Proof.Machine

variable {α β : Type}

@[simp] theorem M_run (x : M α) (s : State) : x.run s = x s := rfl

@[simp] theorem M_bind (x : M α) (f : α → M β) (s : State) : (x >>= f) s = match x s with
    | .ok a s' => f a s'
    | .error e s' => .error e s' := by
  simp only [bind, EStateM.bind]; cases x s <;> rfl

@[simp] theorem M_pure (a : α) (s : State) : (pure a : M α) s = .ok a s := rfl
@[simp] theorem M_get (s : State) : (get : M State) s = .ok s s := rfl
@[simp] theorem M_set (s s' : State) : (set s' : M PUnit) s = .ok ⟨⟩ s' := rfl
@[simp] theorem M_modify (f : State → State) (s : State) : (modify f : M PUnit) s = .ok ⟨⟩ (f s) := rfl
@[simp] theorem M_throw (e : Stop) (s : State) : (throw e : M α) s = .error e s := rfl
@[simp] theorem M_ite (c : Prop) [Decidable c] (x y : M α) (s : State) : (if c then x else y) s = if c then x s else y s := by
  split <;> rfl

end Sys2Proof.Machine
end

