-- ==== Sys2Proof/Laws/Regs.lean ====
section
/-! SUPPORT. The register ports: where a register lies, and the one thing a performed write of a whole register does. -/

namespace Sys2Proof.Machine

open Sys2Proof

variable {s : State}

theorem blkBase_mod (b : Blk) : blkBase b % 8 = 0 := by
  cases b <;> simp only [blkBase] <;> omega

theorem rk_mod (b : Blk) (o : Nat) (h : o % 8 = 0) : rk b o % 8 = 0 := by
  have := blkBase_mod b
  unfold rk; omega

/-- An offset inside its block's window is located in its block. -/
theorem locate_rk (b : Blk) (o : Nat) (h : o < match b with
    | .gfe | .ep | .pwr | .dbg | .dt => 0x100000
    | .fmp _ | .cluster _ => 0x40000
    | .core _ | .stack _ | .drawer _ | .ctx _ => 0x10000) : locate (rk b o) = some (b, o) := by
  cases b with
  | ctx c =>
    have hc := c.isLt
    have h : o < 0x10000 := h
    have e : (0x10000000 + c.toNat * 0x10000 + o - 0x10000000) / 0x10000 = c.toNat := by omega
    have e' : (0x10000000 + c.toNat * 0x10000 + o - 0x10000000) % 0x10000 = o := by omega
    change locate (0x10000000 + c.toNat * 0x10000 + o) = _
    unfold locate
    rw [if_neg (show ¬(0x10000000 + c.toNat * 0x10000 + o < 0x100000) by omega),
      if_neg (show ¬(0x10000000 + c.toNat * 0x10000 + o < 0x200000) by omega),
      if_neg (show ¬(0x10000000 + c.toNat * 0x10000 + o < 0x300000) by omega),
      if_neg (show ¬(0x10000000 + c.toNat * 0x10000 + o < 0x400000) by omega),
      if_neg (show ¬(0x10000000 + c.toNat * 0x10000 + o < 0x500000) by omega),
      if_neg (show ¬(0x10000000 + c.toNat * 0x10000 + o < 0x600000) by omega),
      if_neg (show ¬(0x10000000 + c.toNat * 0x10000 + o < 0x1000000) by omega),
      if_neg (show ¬(0x10000000 + c.toNat * 0x10000 + o < 0x1C00000) by omega),
      if_neg (show ¬(0x10000000 + c.toNat * 0x10000 + o < 0x2000000) by omega),
      if_neg (show ¬(0x10000000 + c.toNat * 0x10000 + o < 0x3800000) by omega),
      if_neg (show ¬(0x10000000 + c.toNat * 0x10000 + o < 0x38C0000) by omega),
      if_neg (show ¬(0x10000000 + c.toNat * 0x10000 + o < 0x3900000) by omega),
      if_neg (show ¬(0x10000000 + c.toNat * 0x10000 + o < 0x3980000) by omega),
      if_neg (show ¬(0x10000000 + c.toNat * 0x10000 + o < 0x10000000) by omega),
      if_pos (show 0x10000000 + c.toNat * 0x10000 + o < 0x20000000 by omega)]
    rw [e, e', BitVec.ofNat_toNat, BitVec.setWidth_eq]
  | fmp n =>
    have hn := n.isLt
    have h : o < 0x40000 := h
    have e : (0x400000 + n.val * 0x40000 + o - 0x400000) / 0x40000 = n.val := by omega
    have e' : (0x400000 + n.val * 0x40000 + o - 0x400000) % 0x40000 = o := by omega
    have f : Fin.ofNat 4 n.val = n := Fin.ext (Nat.mod_eq_of_lt hn)
    change locate (0x400000 + n.val * 0x40000 + o) = _
    unfold locate
    rw [if_neg (show ¬(0x400000 + n.val * 0x40000 + o < 0x100000) by omega),
      if_neg (show ¬(0x400000 + n.val * 0x40000 + o < 0x200000) by omega),
      if_neg (show ¬(0x400000 + n.val * 0x40000 + o < 0x300000) by omega),
      if_neg (show ¬(0x400000 + n.val * 0x40000 + o < 0x400000) by omega),
      if_pos (show 0x400000 + n.val * 0x40000 + o < 0x500000 by omega)]
    rw [e, e', f]
  | cluster n =>
    have hn := n.isLt
    have h : o < 0x40000 := h
    have e : (0x1000000 + n.val * 0x40000 + o - 0x1000000) / 0x40000 = n.val := by omega
    have e' : (0x1000000 + n.val * 0x40000 + o - 0x1000000) % 0x40000 = o := by omega
    have f : Fin.ofNat 48 n.val = n := Fin.ext (Nat.mod_eq_of_lt hn)
    change locate (0x1000000 + n.val * 0x40000 + o) = _
    unfold locate
    rw [if_neg (show ¬(0x1000000 + n.val * 0x40000 + o < 0x100000) by omega),
      if_neg (show ¬(0x1000000 + n.val * 0x40000 + o < 0x200000) by omega),
      if_neg (show ¬(0x1000000 + n.val * 0x40000 + o < 0x300000) by omega),
      if_neg (show ¬(0x1000000 + n.val * 0x40000 + o < 0x400000) by omega),
      if_neg (show ¬(0x1000000 + n.val * 0x40000 + o < 0x500000) by omega),
      if_neg (show ¬(0x1000000 + n.val * 0x40000 + o < 0x600000) by omega),
      if_neg (show ¬(0x1000000 + n.val * 0x40000 + o < 0x1000000) by omega),
      if_pos (show 0x1000000 + n.val * 0x40000 + o < 0x1C00000 by omega)]
    rw [e, e', f]
  | core n =>
    have hn := n.isLt
    have h : o < 0x10000 := h
    have e : (0x2000000 + n.val * 0x10000 + o - 0x2000000) / 0x10000 = n.val := by omega
    have e' : (0x2000000 + n.val * 0x10000 + o - 0x2000000) % 0x10000 = o := by omega
    have f : Fin.ofNat 384 n.val = n := Fin.ext (Nat.mod_eq_of_lt hn)
    change locate (0x2000000 + n.val * 0x10000 + o) = _
    unfold locate
    rw [if_neg (show ¬(0x2000000 + n.val * 0x10000 + o < 0x100000) by omega),
      if_neg (show ¬(0x2000000 + n.val * 0x10000 + o < 0x200000) by omega),
      if_neg (show ¬(0x2000000 + n.val * 0x10000 + o < 0x300000) by omega),
      if_neg (show ¬(0x2000000 + n.val * 0x10000 + o < 0x400000) by omega),
      if_neg (show ¬(0x2000000 + n.val * 0x10000 + o < 0x500000) by omega),
      if_neg (show ¬(0x2000000 + n.val * 0x10000 + o < 0x600000) by omega),
      if_neg (show ¬(0x2000000 + n.val * 0x10000 + o < 0x1000000) by omega),
      if_neg (show ¬(0x2000000 + n.val * 0x10000 + o < 0x1C00000) by omega),
      if_neg (show ¬(0x2000000 + n.val * 0x10000 + o < 0x2000000) by omega),
      if_pos (show 0x2000000 + n.val * 0x10000 + o < 0x3800000 by omega)]
    rw [e, e', f]
  | stack n =>
    have hn := n.isLt
    have h : o < 0x10000 := h
    have e : (0x3800000 + n.val * 0x10000 + o - 0x3800000) / 0x10000 = n.val := by omega
    have e' : (0x3800000 + n.val * 0x10000 + o - 0x3800000) % 0x10000 = o := by omega
    have f : Fin.ofNat 12 n.val = n := Fin.ext (Nat.mod_eq_of_lt hn)
    change locate (0x3800000 + n.val * 0x10000 + o) = _
    unfold locate
    rw [if_neg (show ¬(0x3800000 + n.val * 0x10000 + o < 0x100000) by omega),
      if_neg (show ¬(0x3800000 + n.val * 0x10000 + o < 0x200000) by omega),
      if_neg (show ¬(0x3800000 + n.val * 0x10000 + o < 0x300000) by omega),
      if_neg (show ¬(0x3800000 + n.val * 0x10000 + o < 0x400000) by omega),
      if_neg (show ¬(0x3800000 + n.val * 0x10000 + o < 0x500000) by omega),
      if_neg (show ¬(0x3800000 + n.val * 0x10000 + o < 0x600000) by omega),
      if_neg (show ¬(0x3800000 + n.val * 0x10000 + o < 0x1000000) by omega),
      if_neg (show ¬(0x3800000 + n.val * 0x10000 + o < 0x1C00000) by omega),
      if_neg (show ¬(0x3800000 + n.val * 0x10000 + o < 0x2000000) by omega),
      if_neg (show ¬(0x3800000 + n.val * 0x10000 + o < 0x3800000) by omega),
      if_pos (show 0x3800000 + n.val * 0x10000 + o < 0x38C0000 by omega)]
    rw [e, e', f]
  | drawer n =>
    have hn := n.isLt
    have h : o < 0x10000 := h
    have e : (0x3900000 + n.val * 0x10000 + o - 0x3900000) / 0x10000 = n.val := by omega
    have e' : (0x3900000 + n.val * 0x10000 + o - 0x3900000) % 0x10000 = o := by omega
    have f : Fin.ofNat 8 n.val = n := Fin.ext (Nat.mod_eq_of_lt hn)
    change locate (0x3900000 + n.val * 0x10000 + o) = _
    unfold locate
    rw [if_neg (show ¬(0x3900000 + n.val * 0x10000 + o < 0x100000) by omega),
      if_neg (show ¬(0x3900000 + n.val * 0x10000 + o < 0x200000) by omega),
      if_neg (show ¬(0x3900000 + n.val * 0x10000 + o < 0x300000) by omega),
      if_neg (show ¬(0x3900000 + n.val * 0x10000 + o < 0x400000) by omega),
      if_neg (show ¬(0x3900000 + n.val * 0x10000 + o < 0x500000) by omega),
      if_neg (show ¬(0x3900000 + n.val * 0x10000 + o < 0x600000) by omega),
      if_neg (show ¬(0x3900000 + n.val * 0x10000 + o < 0x1000000) by omega),
      if_neg (show ¬(0x3900000 + n.val * 0x10000 + o < 0x1C00000) by omega),
      if_neg (show ¬(0x3900000 + n.val * 0x10000 + o < 0x2000000) by omega),
      if_neg (show ¬(0x3900000 + n.val * 0x10000 + o < 0x3800000) by omega),
      if_neg (show ¬(0x3900000 + n.val * 0x10000 + o < 0x38C0000) by omega),
      if_neg (show ¬(0x3900000 + n.val * 0x10000 + o < 0x3900000) by omega),
      if_pos (show 0x3900000 + n.val * 0x10000 + o < 0x3980000 by omega)]
    rw [e, e', f]
  | gfe =>
    have h : o < 0x100000 := h
    change locate (0 + o) = _
    unfold locate
    rw [if_pos (show 0 + o < 0x100000 by omega)]
    rw [show 0 + o = o by omega]
  | ep =>
    have h : o < 0x100000 := h
    change locate (0x100000 + o) = _
    unfold locate
    rw [if_neg (show ¬(0x100000 + o < 0x100000) by omega),
      if_pos (show 0x100000 + o < 0x200000 by omega)]
    rw [show 0x100000 + o - 0x100000 = o by omega]
  | pwr =>
    have h : o < 0x100000 := h
    change locate (0x200000 + o) = _
    unfold locate
    rw [if_neg (show ¬(0x200000 + o < 0x100000) by omega),
      if_neg (show ¬(0x200000 + o < 0x200000) by omega),
      if_pos (show 0x200000 + o < 0x300000 by omega)]
    rw [show 0x200000 + o - 0x200000 = o by omega]
  | dbg =>
    have h : o < 0x100000 := h
    change locate (0x300000 + o) = _
    unfold locate
    rw [if_neg (show ¬(0x300000 + o < 0x100000) by omega),
      if_neg (show ¬(0x300000 + o < 0x200000) by omega),
      if_neg (show ¬(0x300000 + o < 0x300000) by omega),
      if_pos (show 0x300000 + o < 0x400000 by omega)]
    rw [show 0x300000 + o - 0x300000 = o by omega]
  | dt =>
    have h : o < 0x100000 := h
    change locate (0x500000 + o) = _
    unfold locate
    rw [if_neg (show ¬(0x500000 + o < 0x100000) by omega),
      if_neg (show ¬(0x500000 + o < 0x200000) by omega),
      if_neg (show ¬(0x500000 + o < 0x300000) by omega),
      if_neg (show ¬(0x500000 + o < 0x400000) by omega),
      if_neg (show ¬(0x500000 + o < 0x500000) by omega),
      if_pos (show 0x500000 + o < 0x600000 by omega)]
    rw [show 0x500000 + o - 0x500000 = o by omega]

/-- A write of a whole register that its block accepts and that is no header, clear or injection register has that register's effect. -/
theorem performWrite_whole (rq : Requester) (b : Blk) (o : Nat) (val : Word) (ha : Accepts s rq b o)
    (hl : locate (rk b o) = some (b, o)) (h8 : o % 8 = 0) (hf : regFields b o ≠ []) (hh : o ≠ hdrOff b)
    (ht : tripleOfClear b o = none) (h70 : o = 0x70 → isCtxBlk b = true) :
    performWrite s { rq, key := rk b o, size := 8, val } = writeEffect s b o o (reg s b o) (writtenWord s b o val) val := by
  obtain ⟨h1, h2, h3, h4, h5, h6⟩ := ha
  have ho : o / 8 * 8 = o := by omega
  have hk := rk_mod b o h8
  have hpmc : (decide (rq = .pmc) && decide (b ≠ .pwr)) = false := by
    by_cases hr : rq = .pmc
    · simp [h3 hr]
    · simp [hr]
  have hfe : (regFields b o).isEmpty = false := by simpa using hf
  have hfin : (decide (o = 0x70) && !isCtxBlk b) = false := by
    by_cases hr : o = 0x70
    · simp [h70 hr]
    · simp [hr]
  simp only [performWrite, hl, ho, hfe, h2, h1, h4, hpmc, h5]
  simp only [writeAt, ho, hh, ht, h6, hk]
  have hv : val &&& 18446744073709551615#64 = val := BitVec.and_allOnes
  simp [hfin, writtenWord, hv]

end Sys2Proof.Machine
end

