-- ==== Sys2Proof/Laws/Settle.lean ====
section
/-! SUPPORT. The end of a command: with no fault event raised only the interrupt lines settle, and they touch only the
endpoint, the messages out, and the endpoint's event registers. -/

namespace Sys2Proof.Machine

variable (s : State)

theorem takeRaised_nil (n : Nat) (h : s.raised = []) : takeRaised n s = s := by
  cases n with
  | zero => rfl
  | succ n => simp [takeRaised, h]

/-- With no fault event raised, the end of a command settles the interrupt lines alone. -/
theorem settle_of_quiet (h : s.raised = []) : settle s = settleIrq s := by
  rw [settle, takeRaised_nil s 4 h]

/-- What settling the INTA wire changes. -/
theorem settleInta_eq : settleInta s = { s with ep := { s.ep with inta := (settleInta s).ep.inta }, out := (settleInta s).out } := by
  unfold settleInta; dsimp only [setInta]; split
  · rfl
  · split <;> rfl

theorem settleInta_inta : (settleInta s).ep.inta = intaLevel s := by
  unfold settleInta
  split
  · next h => exact h.symm
  · dsimp only [setInta]; split <;> rfl

/-- What settling the interrupt lines changes: the wire, the arm flag and the pending bit, held messages and their event, and
what leaves. -/
theorem settleIrq_eq : settleIrq s = { s with ep := (settleIrq s).ep, regs := (settleIrq s).regs, out := (settleIrq s).out } := by
  rw [settleIrq, settleInta_eq s]
  unfold settleMsi; dsimp only
  split
  · split
    · rfl
    · unfold upstream; split <;> rfl
  · rfl

@[simp] theorem settleIrq_cores : (settleIrq s).cores = s.cores := by rw [settleIrq_eq]
@[simp] theorem settleIrq_mem : (settleIrq s).mem = s.mem := by rw [settleIrq_eq]
@[simp] theorem settleIrq_poison : (settleIrq s).poison = s.poison := by rw [settleIrq_eq]
@[simp] theorem settleIrq_pending : (settleIrq s).pending = s.pending := by rw [settleIrq_eq]
@[simp] theorem settleIrq_tasks : (settleIrq s).tasks = s.tasks := by rw [settleIrq_eq]
@[simp] theorem settleIrq_raised : (settleIrq s).raised = s.raised := by rw [settleIrq_eq]

/-! AER logging touches only the endpoint, the messages out and the count of free values used. -/

/-- `t` differs from `s` in the endpoint, the messages out and the count of free values at most. -/
def EpOnly (s t : State) : Prop := t = { s with freeCtr := t.freeCtr, ep := t.ep, out := t.out }

theorem EpOnly.trans {s t u : State} (h : EpOnly s t) (g : EpOnly t u) : EpOnly s u := by
  unfold EpOnly at *; rw [g]; simp only; rw [h]

theorem epOnly_refl : EpOnly s s := rfl
theorem epOnly_send (m : Msg) : EpOnly s (send s m) := rfl
theorem epOnly_orCfg (o : Nat) (b : BitVec 32) : EpOnly s (orCfg s o b) := rfl
theorem epOnly_markCorr (b : Nat) : EpOnly s (markCorr s b) := rfl

theorem epOnly_signalCorr (b : Nat) : EpOnly s (signalCorr s b) := by
  unfold signalCorr; dsimp only; split <;> rfl

theorem epOnly_logHeader (b : Nat) : EpOnly s (logHeader s b) := by
  unfold logHeader; split
  · rfl
  · split
    · rfl
    · exact epOnly_signalCorr s 15

theorem epOnly_markUncorr (b : Nat) : EpOnly s (markUncorr s b) := by
  unfold markUncorr; dsimp only
  generalize (!cfgBit s 0x108 b && !s.ep.aerStatus.getLsbD ((cfgWord s 0x118).toNat % 32)) = f
  have h : EpOnly s (if f = true then firstError s b else s) := by cases f <;> rfl
  generalize (if f = true then firstError s b else s) = t at h ⊢
  have g := h.trans (epOnly_logHeader t b)
  generalize logHeader t b = u at g ⊢
  exact g.trans rfl

theorem epOnly_signalUncorr (b : Nat) : EpOnly s (signalUncorr s b) := by
  unfold signalUncorr; dsimp only
  generalize cfgBit s 0x10C b = f
  refine ((epOnly_markUncorr s b).trans (epOnly_orCfg _ 0x78 (if f = true then 0x40000 else 0x20000))).trans ?_
  generalize orCfg (markUncorr s b) 0x78 _ = u
  cases f <;> (repeat' split) <;> rfl

theorem epOnly_signalAdvisory (b : Nat) : EpOnly s (signalAdvisory s b) := by
  unfold signalAdvisory
  split
  · exact epOnly_signalUncorr s b
  · dsimp only
    refine (epOnly_markCorr s 13).trans ?_
    split
    · exact epOnly_refl _
    · refine (epOnly_markUncorr _ b).trans ?_
      split <;> rfl

theorem epOnly_logUnsupported (w : Bool) : EpOnly s (logUnsupported s w) := by
  unfold logUnsupported
  split
  · exact epOnly_refl s
  · refine (epOnly_orCfg s 0x78 0x80000).trans ?_
    split
    · exact epOnly_signalUncorr _ 20
    · exact epOnly_signalAdvisory _ 20

theorem epOnly_poisonedTlp : EpOnly s (poisonedTlp s) := (epOnly_orCfg s 0x04 0x80000000).trans (epOnly_signalAdvisory _ 12)

end Sys2Proof.Machine
end

