-- ==== Sys2Proof/Laws/Seq.lean ====
section
/-! SUPPORT. An instruction alone in its bundle: the lemma that takes a claim about an instruction to its effect. -/

namespace Sys2Proof.Machine

open Sys2Proof

variable {s : State} {h : Hdr} {p : Prog}

theorem fireInjection_none (b : Blk) (src : Nat) (u a : Option Nat) (hn : NoInjection s b) : fireInjection s b src u a = (false, s) := by
  unfold NoInjection at hn
  unfold fireInjection
  rw [hn, if_neg (by omega)]

/-- The check and translation of a fetch that `Fetches` allows succeeds and changes nothing. -/
theorem seqTarget_ok (c a n : Nat) (q : Prog) (pm : Perm) (w : Word) (ha : a < 2 ^ 51) (hn : 1 ≤ n) (hw : segCheck s q.ctx a n pm = .ok w)
    (h1 : isHole s (canon a) = false) (h2 : isHole s (canon (a + n - 1)) = false) : seqTarget c q a n pm s = .ok (segTarget a w) s := by
  have e1 : ¬ 4503599627370496 ≤ a := by omega
  have e2 : ¬ 2251799813685248 ≤ a := by omega
  have e3 : n ≠ 0 := by omega
  simp [seqTarget, access, e1, e2, e3, hw, holeFor, h1, h2, segPieces]

theorem icLoad_hit (c a : Nat) (l : List Nat) (q : Prog) (w : Word) (ha : a < 2 ^ 51) (hw : segCheck s q.ctx a 8 .x = .ok w)
    (h1 : isHole s (canon a) = false) (h2 : isHole s (canon (a + 7)) = false) (hc : (mapFind? (core s c).icache (icKey q.ctx a)).isSome = true) :
    icLoad c q l a s = .ok () s := by
  simp [icLoad, seqTarget_ok c a 8 q .x w ha (by omega) hw h1 h2, hc]

theorem fetchOne_hit (c a : Nat) (q : Prog) (w : Word) (ha : a < 2 ^ 51) (hw : segCheck s q.ctx a 8 .x = .ok w)
    (h1 : isHole s (canon a) = false) (h2 : isHole s (canon (a + 7)) = false) (hc : (mapFind? (core s c).icache (icKey q.ctx a)).isSome = true)
    (hn : NoInjection s (bCore c)) (hj : q.injig = true → ∀ j, q.jig = some j → j.lo / 64 * 64 ≤ a ∧ a < j.hi) :
    fetchOne c q a s = .ok () s := by
  have hi := icLoad_hit c a [] q w ha hw h1 h2 hc
  cases hg : q.injig
  · simp [fetchOne, hg, fireInjection_none _ _ _ _ hn, hi]
  · cases hjj : q.jig with
    | none => simp [fetchOne, hg, hjj, fireInjection_none _ _ _ _ hn, hi]
    | some j =>
      obtain ⟨l1, l2⟩ := hj hg j hjj
      simp [fetchOne, hg, hjj, show ¬ (a < j.lo / 64 * 64 ∨ j.hi ≤ a) by omega, fireInjection_none _ _ _ _ hn, hi]

theorem fetchAll_single (c : Nat) (q : Prog) (hf : fetchOne c q q.pc.toNat s = .ok () s) : fetchAll c q q.pc.toNat 1 0 s = .ok s := by
  simp [fetchAll, hf]

theorem bundleError_single (ca : Nat) (h : Hdr) (o : SOp) (hs : h.stop = true) : bundleError ca [] [(h, o)] = none := by
  simp [bundleError, breaksBundle, hs]

theorem decodeWord_isSome (c d : CoreIx) (w : Nat) : (decodeWord c w).isSome = (decodeWord d w).isSome := by
  unfold decodeWord; dsimp only; split <;> rfl

/-- The row of a word that spells `i` is `i`. -/
theorem bundleSpelled_single (i : Instr) (o : SOp) (hs : Spells s h p i) (hv : view i = some (h, o)) :
    bundleSpelled (coreBefore s h i p) (noWait p) (noWait p).pc.toNat [i] = true := by
  obtain ⟨w, hw, hd⟩ := hs
  have hw' : icWord (coreBefore s h i p) (noWait p).ctx (noWait p).pc.toNat = some w := hw
  simp [bundleSpelled, rowSpelled, hw', hv, rowOfWord, hd]

theorem listedAt_spells (i : Instr) (hs : Spells s h p i) : listedAt (coreBefore s h i p) (noWait p) p.pc.toNat = true := by
  obtain ⟨w, hw, hd⟩ := hs
  have hw' : icWord (coreBefore s h i p) (noWait p).ctx p.pc.toNat = some w := hw
  simp only [listedAt, hw', listedWord, decodeWord_isSome 0 h.core w, hd, Option.isSome_some]

/-- An instruction alone in its bundle: its command ends as its performance ends. -/
theorem seqRun_one (i : Instr) (o : SOp) (hx : Issues s h p) (hs : Spells s h p i) (hv : view i = some (h, o)) :
    seqRun i s = done (ranEnd (begun s h i p) h.core.val (coreBefore s h i p) (noWait p) [(h, o)] p.pc.toNat (p.pc.toNat + 8)
      (fun s1 => bundleDone s1 h.core.val)
      (match perform h.core.val (coreBefore s h i p) (noWait p) p.pc.toNat (p.pc.toNat + 8) 0 (h, o) (fetched s h i p) with
        | .ok _ s' => .fin s'
        | .error e s' => .stop 0 e s')) := by
  obtain ⟨hp, hr, hb, hpend, hstop, hlt, hseg, hh1, hh2, hic, hn, hjig⟩ := hx
  obtain ⟨w, hw⟩ : ∃ w, segCheck s p.ctx p.pc.toNat 8 .x = .ok w := by
    cases hs : segCheck s p.ctx p.pc.toNat 8 .x with
    | ok w => exact ⟨w, rfl⟩
    | error e => simp [hs, Except.isOk, Except.toBool] at hseg
  let p' : Prog := noWait p
  let S0 : State := begun s h i p
  have hk : core S0 h.core.val = coreBefore s h i p := core_setCore_run s _ _ p' rfl
  have hp0 : prog? S0 h.core.val = some p' := prog?_setCore_run s _ _ p' rfl
  have hs1 : setCore (updProg s h.core.val fun q => { q with waitTo := none }) h.core.val
      { core (updProg s h.core.val fun q => { q with waitTo := none }) h.core.val with bundle := [i] } = S0 := by
    rw [updProg_run s _ _ p hp, setProg, core_setCore_prog, setCore_setCore_run s _ _ _ p' rfl]
    rfl
  have hf : fetchOne h.core.val p' p'.pc.toNat S0 = .ok () S0 := by
    refine fetchOne_hit _ _ _ w hlt hw hh1 hh2 ?_ hn hjig
    rw [hk]; exact hic
  have hops : [i].filterMap view = [(h, o)] := by simp [hv]
  have hfet : fetchAll h.core.val p' p'.pc.toNat [(h, o)].length 0 S0 = .ok S0 := fetchAll_single _ _ hf
  have hstart : (updProg S0 h.core.val fun q => { q with pc := BitVec.ofNat 52 (p.pc.toNat + 8), jig := regionBundle q })
      = fetched s h i p := by
    rw [updProg_run S0 _ _ p' hp0, setProg, hk]
    exact setCore_setCore_run s _ _ _ p' rfl
  have hfull : bundleFull p.pc.toNat [i] = true := by
    simp [bundleFull, hv, hstop]
  have hpe : (!p.pend.isEmpty && !p.inexc) = false := by
    rcases hpend with e | e <;> simp [e]
  have hnf : bundleFull p.pc.toNat [] = false := rfl
  unfold seqRun
  simp only [hv, hp, hb, hr, hnf, List.nil_append, hfull, hpe, List.isEmpty_nil, Bool.not_true, Bool.true_and, if_true, if_false,
    Bool.false_eq_true]
  refine congrArg done ?_
  change runBundle (updProg s h.core.val fun q => { q with waitTo := none }) h.core.val p' [i] = _
  unfold runBundle
  simp only [hops, hs1]
  rw [hfet]
  have hsp : bundleSpelled (core S0 h.core.val) p' p'.pc.toNat [i] = true := by
    rw [hk]; exact bundleSpelled_single i o hs hv
  simp only [hsp, Bool.not_true, Bool.false_eq_true, if_false]
  simp only [bundleError_single _ h o hstop, performAll, List.length_singleton]
  rw [show p'.pc.toNat + 8 * 1 = p.pc.toNat + 8 from rfl, hstart, hk]
  simp only [runOps, M_run, show p'.pc.toNat = p.pc.toNat from rfl]
  generalize perform h.core.val (coreBefore s h i p) p' p.pc.toNat (p.pc.toNat + 8) 0 (h, o) (fetched s h i p) = r
  cases r <;> rfl

/-- Where it is performed, its command answers the state reached with the bundle issued. -/
theorem seqRun_performed (i : Instr) (o : SOp) (s2 : State) (hx : Issues s h p) (hs : Spells s h p i) (hv : view i = some (h, o))
    (he : perform h.core.val (coreBefore s h i p) (noWait p) p.pc.toNat (p.pc.toNat + 8) 0 (h, o) (fetched s h i p) = .ok () s2) :
    seqRun i s = done (bundleDone s2 h.core.val) := by
  rw [seqRun_one i o hx hs hv, he]
  rfl

/-- Where it raises an exception, its command takes it from the state before the bundle (R167). -/
theorem seqRun_raised (i : Instr) (o : SOp) (s2 : State) (code sub ea d : Nat) (hx : Issues s h p) (hs : Spells s h p i)
    (hv : view i = some (h, o))
    (he : perform h.core.val (coreBefore s h i p) (noWait p) p.pc.toNat (p.pc.toNat + 8) 0 (h, o) (fetched s h i p)
      = .error (.exc code sub ea d) s2) :
    seqRun i s = done (bundleFault (begun s h i p) s2 h.core.val p.pc.toNat (p.pc.toNat + 8) 0 (.exc code sub ea d)) := by
  rw [seqRun_one i o hx hs hv, he]
  rfl

/-- An instruction that executes: where its effect runs to `s2`, its command answers `s2` with the bundle issued. -/
theorem seqRun_single (i : Instr) (o : SOp) (s2 : State) (hx : Executes s h p) (hs : Spells s h p i)
    (hv : view i = some (h, o)) (hd : decodes o = true)
    (hj : p.injig = true → notInJig o = false)
    (he : effect h.core.val (coreBefore s h i p) (noWait p) p.pc.toNat (p.pc.toNat + 8) o (fetched s h i p) = .ok () s2) :
    seqRun i s = done (bundleDone s2 h.core.val) := by
  refine seqRun_performed i o s2 hx.1 hs hv ?_
  have hq' : qualified (noWait p) h = true := hx.2
  have hj' : ((noWait p).injig && notInJig o) = false := by
    cases hg : (noWait p).injig
    · rfl
    · exact hj hg
  have hl : listedAt (coreBefore s h i p) (noWait p) (p.pc.toNat + 8 * 0) = true := listedAt_spells i hs
  simp only [perform, hl, hd, hq', hj', Bool.not_true, Bool.or_false, Bool.false_eq_true, if_false, if_true, he]

theorem core_fetched (i : Instr) :
    core (fetched s h i p) h.core.val = { core s h.core.val with bundle := [i], prog := some (atIssue p) } :=
  core_setCore_run s _ _ (atIssue p) rfl

theorem prog?_fetched (i : Instr) : prog? (fetched s h i p) h.core.val = some (atIssue p) := prog?_setCore_run s _ _ (atIssue p) rfl

/-- A change of the program state, in the state in which an effect begins. -/
theorem updProg_fetched (i : Instr) (g : Prog → Prog) : updProg (fetched s h i p) h.core.val g
    = setCore s h.core.val { core s h.core.val with bundle := [i], prog := some (g (atIssue p)) } := by
  rw [updProg_run _ _ _ _ (prog?_fetched i), setProg, core_fetched, fetched, setCore_setCore_run s _ _ _ (atIssue p) rfl]

/-- The end of a bundle whose only effect is on the program state. -/
theorem bundleDone_prog (i : Instr) (q : Prog) :
    bundleDone (setCore s h.core.val { core s h.core.val with bundle := [i], prog := some q }) h.core.val = issued s h q := by
  have e1 := core_setCore_run s h.core.val { core s h.core.val with bundle := [i], prog := some q } q rfl
  have e2 : prog? (setCore (setCore s h.core.val { core s h.core.val with bundle := [i], prog := some q }) h.core.val
      { core s h.core.val with bundle := [], parkedSeq := false, accepted := [], prog := some q }) h.core.val = some q := prog?_setCore_run _ _ _ q rfl
  simp only [bundleDone, e1]
  rw [updProg_run _ _ _ q e2, setProg, core_setCore_run _ _ _ q rfl, setCore_setCore_run _ _ _ _ q rfl, setCore_setCore_run _ _ _ _ q rfl]
  rfl

/-- An instruction whose effect is a change `g` of its program state. -/
theorem seqRun_prog (i : Instr) (o : SOp) (g : Prog → Prog) (hx : Executes s h p) (hs : Spells s h p i)
    (hv : view i = some (h, o)) (hd : decodes o = true)
    (hj : p.injig = true → notInJig o = false)
    (he : effect h.core.val (coreBefore s h i p) (noWait p) p.pc.toNat (p.pc.toNat + 8) o (fetched s h i p)
      = progM h.core.val g (fetched s h i p)) :
    seqRun i s = .next (settle (issued s h (g (atIssue p)))) := by
  have h1 := seqRun_single i o (updProg (fetched s h i p) h.core.val g) hx hs hv hd hj (by rw [he, progM, M_modify])
  rw [h1, updProg_fetched, bundleDone_prog]
  rfl

/-- The command of an instruction runs its sequencer. -/
theorem exec_eq_seqRun (i : Instr) (x : Hdr × SOp) (s : State) (hv : view i = some x) : exec i s = seqRun i s := by
  have hm : exec i s = match view i with
      | some _ => seqRun i s
      | none => exec i s := by
    cases i
    all_goals rfl
  rw [hm, hv]

end Sys2Proof.Machine
end

