-- ==== Sys2Proof/WellFormed.lean ====
section
/-! DEFINITION. Well-formed commands: the operands that the outside world can send. Most operands are bounded by their types; the checks
here bound the others. A command that is not well-formed still has its meaning: exec answers for it as for any other. -/

namespace Sys2Proof

/-- A line of 64 bytes. -/
def wfLine (d : List Byte) : Bool := d.length = 64

/-- A line number of local memory, or of host memory above 2^52. -/
def wfLineNo (k : Nat) : Bool := decide (k < 2 ^ 53)

/-- A register offset inside its space: BAR0 is 64 MiB, the context pages are 256 MiB (R29, R49). -/
def wfRegOff : RegSpace → Nat → Bool
  | .bar0, o => decide (o < 0x4000000)
  | .bar2, o => decide (o < 0x10000000)

/-- Bytes of one register access. -/
def wfAccess (n : Nat) : Bool := n = 1 || n = 2 || n = 4 || n = 8

/-- An aligned access of the configuration space. -/
def wfConfig (off n : Nat) : Bool := decide (off < 4096) && (n = 1 || n = 2 || n = 4) && decide (off % n = 0)

/-- A number of bytes within bounds (R395, R451). -/
def wfBytes (lo hi n : Nat) : Bool := decide (lo ≤ n) && decide (n ≤ hi)

/-- A command of a ring or buffer has eight words (R325). -/
def wfCommand (w : List Word) : Bool := w.length = 8

/-- The command is one that its sender can form. -/
def Instr.wf : Instr → Bool
  | .registerWrite _ sp off size _ | .statusClear _ sp off size _ => wfRegOff sp off && wfAccess size
  | .configurationWrite off size _ => wfConfig off size
  | .cmdNop _ w | .cmdTask _ w | .cmdWait _ w | .cmdSignal _ w | .cmdCall _ w => wfCommand w
  | .hostMemwr hpa d _ => decide (hpa % 64 = 0) && wfLine d
  | .hostMemrd hpa _ | .snpinv hpa | .snpdata hpa | .snpcur hpa | .cxlGoErr hpa | .completionTimeout hpa => decide (hpa % 64 = 0)
  | .cxlGo hpa _ d _ => decide (hpa % 64 = 0) && (d.isEmpty || wfLine d)
  | .birsp k _ d => wfLineNo k && (match d with
    | some d => wfLine d.1
    | none => true)
  | .ringRequestGrant _ k | .homeAgentRequest _ k | .locationRequest k | .lineFillDone _ k | .dirRecall _ k => wfLineNo k
  | .bar4Read off n => decide (off + n ≤ 2 ^ 36) && decide (1 ≤ n)
  | .bar4Write off d _ => decide (off + d.length ≤ 2 ^ 36) && decide (1 ≤ d.length)
  | .romRead off n => decide (off + n ≤ 0x1000000) && decide (1 ≤ n)
  | .quenchWindowRead off n => decide (off + n ≤ 0x10000) && wfBytes 1 64 n
  | .quenchStop ofs => wfBytes 160 473 ofs.toNat
  | .spadPatrolScrub _ word _ => decide (word < 0x80000)
  | .drawerRefresh _ _ _ word | .drawerSelfRefresh _ _ _ word => decide (word < 64)
  | .granuleMigrate _ page steps => decide (2 ^ 39 ≤ page) && decide (page < 2 ^ 40) && decide (1 ≤ steps)
  | .fmpLinkL0 _ width speed => wfBytes 1 8 width && wfBytes 1 6 speed
  | .dtRead _ _ _ n => wfBytes 1 256 n
  | .dtWrite _ _ _ d _ => wfBytes 1 256 d.length
  | _ => true

end Sys2Proof
end

