-- ==== Sys2Proof/Tests/Slice0.lean ====
section
/-! SUPPORT. Tests: ill-formed commands that the checks refuse, the manual's worked values, and for every statement with hypotheses a
concrete state and operands that meet them. -/

namespace Sys2Proof.Tests

set_option Elab.async false

open Sys2Proof Sys2Proof.Machine Sys2Proof.Claims

/-! Well-formedness. -/

theorem test_wf_reg_off : Instr.wf (.registerWrite .host .bar0 0x4000000 8 0) = false := by decide
theorem test_wf_ctx_off : Instr.wf (.statusClear .host .bar2 0x10000000 8 0) = false := by decide
theorem test_wf_access : Instr.wf (.registerWrite .host .bar0 0 3 0) = false := by decide
theorem test_wf_config : Instr.wf (.configurationWrite 2 4 0) = false := by decide
theorem test_wf_command : Instr.wf (.cmdNop 0 [0]) = false := by decide
theorem test_wf_line : Instr.wf (.hostMemwr 0 [0] false) = false := by decide
theorem test_wf_address : Instr.wf (.snpinv 1) = false := by decide
theorem test_wf_go : Instr.wf (.cxlGo 0 .s [1] false) = false := by decide
theorem test_wf_birsp : Instr.wf (.birsp 0 true (some ([], false))) = false := by decide
theorem test_wf_line_no : Instr.wf (.locationRequest (2 ^ 53)) = false := by decide
theorem test_wf_aperture : Instr.wf (.bar4Read 0 0) = false := by decide
theorem test_wf_aperture_write : Instr.wf (.bar4Write (2 ^ 36) [0] false) = false := by decide
theorem test_wf_rom : Instr.wf (.romRead 0x1000000 1) = false := by decide
theorem test_wf_window : Instr.wf (.quenchWindowRead 0 65) = false := by decide
theorem test_wf_stop : Instr.wf (.quenchStop 159) = false := by decide
theorem test_wf_scrub : Instr.wf (.spadPatrolScrub 0 0x80000 .clean) = false := by decide
theorem test_wf_refresh : Instr.wf (.drawerRefresh 0 0 .clean 64) = false := by decide
theorem test_wf_granule : Instr.wf (.granuleMigrate 0 0 1) = false := by decide
theorem test_wf_slot : Instr.wf (.fmpLinkL0 0 9 6) = false := by decide
theorem test_wf_read : Instr.wf (.dtRead 0 0 0 257) = false := by decide
theorem test_wf_write : Instr.wf (.dtWrite 0 0 0 [] false) = false := by decide
theorem test_wf_accepts : Instr.wf (.registerWrite .host .bar0 0x110 8 1) = true := by decide

/-! The decoder: the table gives no row bits, so no word spells a command. -/

theorem test_decode_none : decodeTableWord 64 1 = none := rfl

/-! Small states. -/

/-- The core waits for nothing. -/
def noCore : Core := { coreInit with power := .c0, engOn := 0x3F }

/-- Task 0 of context 1 at CA 0x1000. -/
def prog0 : Prog := { progInit 0 1 7 0x1000 with s := [(1, 5), (2, 0xFFFFFFFFFFFFFFFF), (3, 0x2000)] }

/-- The complex in RUN, with the front end, cluster 0 and its core 0 enabled, and context 1 with one segment over all CAs. -/
def runs : State :=
  setWk (setWk (setRf (setRf (setRf (setPhase State.reset 2) .gfe 0 0 0 1) (.cluster 0) 0 0 0 1) (.core 0) 0 0 0 1) (.ctx 1) 0x8200 (place 63 63 1)) (.ctx 1) 0x8208 (place 51 48 15 ||| place 39 0 (2 ^ 40 - 1))

/-- The line of `p`'s PC in the instruction cache: the words `ws`, then zeros. -/
def codeAt (p : Prog) (ws : List Nat) : SMap (List Byte) :=
  [(icKey p.ctx p.pc.toNat, ws.flatMap (toBytes 8) ++ List.replicate (64 - 8 * ws.length) 0)]

/-- Core 0 runs `p` with the line of its PC fetched. -/
def withProg (p : Prog) : State := { runs with cores := [(0, { noCore with prog := some p, icache := codeAt p [] })] }

/-- Core 0 has fetched the words `ws` where `p` has its PC. -/
def spell (s : State) (p : Prog) (ws : List Nat) : State := setCore s 0 { Machine.core s 0 with icache := codeAt p ws }

/-- Core 0 runs `prog0`. -/
def up : State := withProg prog0

/-- An instruction of core 0 alone in its bundle. -/
def h0 : Hdr := { core := 0, stop := true, wait := 0, qp := 0, qn := false }

/-- A state that is no next state answers nothing. -/
def nextOf (o : Out) : State := match o with
  | .next t => t
  | _ => State.reset

/-! Instruction words, alone in their bundles: the sums of their fields (R170). -/

def wOp (op : Nat) : Nat := 2 ^ 63 + op * 2 ^ 52
def wR (op rd ra rb rc fn : Nat) : Nat := wOp op + rd * 2 ^ 41 + ra * 2 ^ 35 + rb * 2 ^ 29 + rc * 2 ^ 23 + fn
def wI (op rd ra imm : Nat) : Nat := wOp op + rd * 2 ^ 41 + ra * 2 ^ 35 + imm
def wL (op rd ext flag imm : Nat) : Nat := wOp op + rd * 2 ^ 41 + ext * 2 ^ 33 + flag * 2 ^ 32 + imm
def wP (op pd pe ra rb cond imm : Nat) : Nat := wOp op + pd * 2 ^ 43 + pe * 2 ^ 39 + ra * 2 ^ 33 + rb * 2 ^ 27 + cond * 2 ^ 24 + imm
def wPlog (pd pa pb op : Nat) : Nat := wOp 0x44 + pd * 2 ^ 43 + pa * 2 ^ 39 + pb * 2 ^ 35 + op * 2 ^ 31
def wB (op rd ra disp : Nat) : Nat := wOp op + rd * 2 ^ 41 + ra * 2 ^ 35 + disp
def wM (op rd ra rb size scope ord hint : Nat) : Nat :=
  wOp op + rd * 2 ^ 41 + ra * 2 ^ 35 + rb * 2 ^ 29 + size * 2 ^ 26 + scope * 2 ^ 23 + ord * 2 ^ 21 + hint * 2 ^ 19
def wC (op rd rb cq scope n : Nat) : Nat := wOp op + rd * 2 ^ 41 + rb * 2 ^ 35 + cq * 2 ^ 31 + scope * 2 ^ 28 + n
def wS (op rd ra num rest : Nat) : Nat := wOp op + rd * 2 ^ 41 + ra * 2 ^ 35 + num * 2 ^ 23 + rest

def spellsB (s : State) (c : CoreIx) (p : Prog) (a : Nat) (i : Instr) : Bool :=
  match icWord (Machine.core s c.val) p.ctx a with
  | some w => decide (decodeWord c w = some i)
  | none => false

theorem spells_of {s : State} {c : CoreIx} {p : Prog} {a : Nat} {i : Instr} (h : spellsB s c p a i = true) : SpelledAt s c p a i := by
  unfold spellsB at h
  split at h
  · exact ⟨_, ‹_›, of_decide_eq_true h⟩
  · exact Bool.noConfusion h

def executesB (s : State) (h : Hdr) (p : Prog) : Bool :=
  decide (prog? s h.core.val = some p) && seqReady s h.core.val p
    && decide ((Machine.core s h.core.val).bundle = []) && (decide (p.pend = []) || p.inexc) && h.stop && decide (p.pc.toNat < 2 ^ 51)
    && (segCheck s p.ctx p.pc.toNat 8 .x).isOk && !isHole s (canon p.pc.toNat) && !isHole s (canon (p.pc.toNat + 7))
    && (mapFind? (Machine.core s h.core.val).icache (icKey p.ctx p.pc.toNat)).isSome
    && decide (mapGet (fun _ => 0) s.inject (blkNo (bCore h.core.val)) = 0)
    && !p.injig && qualified p h

theorem executes_of {s : State} {h : Hdr} {p : Prog} (hb : executesB s h p = true) : ExecutesQueue s h p := by
  simp only [executesB, Bool.and_eq_true, Bool.or_eq_true, decide_eq_true_eq, Bool.not_eq_true'] at hb
  obtain ⟨⟨⟨⟨⟨⟨⟨⟨⟨⟨⟨⟨h1, h2⟩, h3⟩, h4⟩, h5⟩, h6⟩, h7⟩, h8⟩, h9⟩, h10⟩, h11⟩, h12⟩, h13⟩ := hb
  exact ⟨⟨⟨h1, h2, h3, h4, h5, h6, h7, h8, h9, h10, h11, fun x => by simp [h12] at x⟩, h13⟩, h12⟩

/-- Core 0 runs `p`, has fetched the word of `i`, and executes it. -/
def runsB (s : State) (p : Prog) (x : Nat × Instr) : Bool :=
  executesB (spell s p [x.1]) h0 p && spellsB (spell s p [x.1]) h0.core p p.pc.toNat x.2

/-- The words of `l` are fetched and executed one by one. -/
def RunsAll (s : State) (p : Prog) (l : List (Nat × Instr)) : Prop :=
  ∀ x ∈ l, ExecutesQueue (spell s p [x.1]) h0 p ∧ Spells (spell s p [x.1]) h0 p x.2

theorem runs_all {s : State} {p : Prog} {l : List (Nat × Instr)} (h : l.all (runsB s p) = true) : RunsAll s p l := fun x hx => by
  have g := List.all_eq_true.mp h x hx
  simp only [runsB, Bool.and_eq_true] at g
  exact ⟨executes_of g.1, spells_of g.2⟩

/-! The sequencer. -/

/-- R170's example: ADDI s5, s5, 64. -/
theorem test_word_addi : decodeWord 0 0x82100A2800000040 = some (.addi h0 ⟨5, 5, 64⟩) := by decide +kernel
/-- R170, R171: an opcode between two listed ones spells nothing. -/
theorem test_word_unlisted : decodeWord 0 (wR 0x19 0 0 0 0 0) = none := by decide +kernel
theorem test_word_header : (hdrOf 3 (wOp 0 + 5 * 2 ^ 59 + 7 * 2 ^ 48 + 2 ^ 47)) = { core := 3, stop := true, wait := 5, qp := 7, qn := true } := by decide

/-- ScalarOperationsCompute: each row of R171's arithmetic, and the bit fields at both ends of a word. -/
theorem wit_scalar : RunsAll up prog0 ((aluTable.zipIdx.flatMap fun (row, k) =>
    [(wR (k + 1) 4 1 2 0 0, row.1 h0 ⟨4, 1, 2, 0, 0⟩), (wI (k + 0x21) 4 1 64, row.2.1 h0 ⟨4, 1, 64⟩)])
    ++ [(wR 0x17 4 2 0 0 (64 * 63), .bfx h0 ⟨4, 2, 0, 0, 64 * 63⟩), (wR 0x18 4 2 0 0 63, .bfi h0 ⟨4, 2, 0, 0, 63⟩)]) :=
  runs_all (by decide +kernel)
theorem wit_bit_fields : (⟨4, 2, 0, 0, 64 * 63⟩ : FmtR).fn.toNat = 64 * 63 + (1 - 1) ∧ (⟨4, 2, 0, 0, 63⟩ : FmtR).fn.toNat = 64 * 0 + (64 - 1) := by decide

theorem wit_simple : RunsAll up prog0 [(wR 0 0 0 0 0 0, .nop h0 ⟨0, 0, 0, 0, 0⟩), (wR 0x14 4 1 2 0 15, .psel h0 ⟨4, 1, 2, 0, 15⟩),
    (wR 0x15 4 1 0 0 0, .clz h0 ⟨4, 1, 0, 0, 0⟩), (wR 0x16 4 2 0 0 0, .popc h0 ⟨4, 2, 0, 0, 0⟩),
    (wL 0x40 4 0 0 0x80000000, .movi h0 ⟨4, 0, false, 0x80000000⟩), (wL 0x41 4 0 1 9, .movk h0 ⟨4, 0, true, 9⟩),
    (wL 0x41 4 0 0 9, .movk h0 ⟨4, 0, false, 9⟩)] := runs_all (by decide +kernel)

/-- ConditionsSetPredicates, with the two that raise ILLEGAL. -/
theorem wit_conditions : RunsAll up prog0 ((List.range 8).map (fun k => (wP 0x42 1 0 1 2 k 0, .cmp h0 ⟨1, 0, 1, 2, BitVec.ofNat 3 k, 0, 0⟩))
    ++ [(wP 0x43 1 2 1 0 2 5, .cmpi h0 ⟨1, 2, 1, 0, 2, 0, 5⟩), (wPlog 1 2 3 3, .plog h0 ⟨1, 2, 3, 3, 0⟩),
      (wP 0x42 1 1 1 2 0 0, .cmp h0 ⟨1, 1, 1, 2, 0, 0, 0⟩), (wPlog 1 2 3 4, .plog h0 ⟨1, 2, 3, 4, 0⟩)]) := runs_all (by decide +kernel)

/-- BranchesSetTheCounter: BRI to an aligned, a misaligned and a far value, ERET outside and inside a handler. -/
theorem wit_branches : RunsAll up prog0 [(wB 0x48 0 0 16, .br h0 ⟨0, 0, 0, 16⟩), (wB 0x4A 4 0 0xFFFFFFFF, .call h0 ⟨4, 0, 0, 0xFFFFFFFF⟩),
    (wB 0x49 0 3 0, .bri h0 ⟨0, 3, 0, 0⟩), (wB 0x49 0 1 0, .bri h0 ⟨0, 1, 0, 0⟩), (wB 0x49 0 2 0, .bri h0 ⟨0, 2, 0, 0⟩),
    (wB 0x4C 0 0 0, .eret h0 ⟨0, 0, 0, 0⟩)]
    ∧ RunsAll (withProg { prog0 with inexc := true }) { prog0 with inexc := true } [(wB 0x4C 0 0 0, .eret h0 ⟨0, 0, 0, 0⟩)] :=
  ⟨runs_all (by decide +kernel), runs_all (by decide +kernel)⟩
theorem wit_branch_targets : (sreg prog0 3).toNat % 8 = 0 ∧ (sreg prog0 1).toNat % 8 ≠ 0 ∧ 2 ^ 52 ≤ (sreg prog0 2).toNat := by decide
/-- A program without segments fails its fetch. -/
theorem wit_fetch_fails : view (.br h0 ⟨0, 0, 0, 16⟩) = some (h0, .br ⟨0, 0, 0, 16⟩)
    ∧ prog? (withProg { prog0 with ctx := 2 }) 0 = some { prog0 with ctx := 2 } ∧ seqReady (withProg { prog0 with ctx := 2 }) 0 { prog0 with ctx := 2 } = true
    ∧ (Machine.core (withProg { prog0 with ctx := 2 }) 0).bundle = [] ∧ prog0.pend = [] ∧ prog0.injig = false ∧ prog0.pc.toNat < 2 ^ 51
    ∧ mapGet (fun _ => 0) (withProg { prog0 with ctx := 2 }).inject (blkNo (bCore 0)) = 0
    ∧ segCheck (withProg { prog0 with ctx := 2 }) 2 0x1000 8 .x = .error 1 := by decide +kernel

/-- RegisterInstructionFrame and every other statement whose hypothesis is that an instruction executes outside a region. -/
theorem wit_executes : ExecutesQueue up h0 prog0 := executes_of (by decide +kernel)

/-- R172: 5 + 0xFFFFFFFFFFFFFFFF wraps to 4. -/
theorem test_add_wraps : (prog? (nextOf (exec (.add h0 ⟨4, 1, 2, 0, 0⟩) (spell up prog0 [wR 1 4 1 2 0 0]))) 0).map (fun q => (sreg q 4, q.pc))
    = some (4, 0x1008) := by decide +kernel

theorem test_up_phase : phase up = 2 ∧ running up = true := by decide +kernel

theorem wit_step : ({ State.reset with pending := [.linkRetrain] } : State).pending = .linkRetrain :: [] := rfl
theorem wit_idle : State.reset.pending = [] ∧ State.reset.atsInv = [] ∧ railLost (tick State.reset) = false ∧ mapWf (fun _ => coreInit) State.reset.cores = true := by
  decide +kernel

theorem wit_qualify : (preg prog0 1 ^^ false) = false ∧ decodes (.nop ⟨0, 0, 0, 0, 0⟩) = true ∧ decodes (.nop ⟨1, 0, 0, 0, 0⟩) = false
    ∧ runsB up prog0 (wR 0 1 0 0 0 0, .nop h0 ⟨1, 0, 0, 0, 0⟩) = true := by decide +kernel
theorem wit_qualify_false : runsB (spell up prog0 []) prog0 (wR 0 0 0 0 0 0, .nop h0 ⟨0, 0, 0, 0, 0⟩) = true
    ∧ spellsB (spell up prog0 [wR 0 0 0 0 0 0 + 2 ^ 48]) 0 prog0 0x1000 (.nop { h0 with qp := 1 } ⟨0, 0, 0, 0, 0⟩) = true
    ∧ (preg prog0 1 ^^ ({ h0 with qp := 1 } : Hdr).qn) = false := by decide +kernel
theorem wit_unlisted : executesB (spell up prog0 [wR 0x19 0 0 0 0 0]) h0 prog0 = true
    ∧ icWord (Machine.core (spell up prog0 [wR 0x19 0 0 0 0 0]) 0) prog0.ctx 0x1000 = some (wR 0x19 0 0 0 0 0)
    ∧ h0 = hdrOf 0 (wR 0x19 0 0 0 0 0) := by decide +kernel
theorem wit_hold : view (.add { h0 with stop := false } ⟨4, 1, 2, 0, 0⟩) = some ({ h0 with stop := false }, .alu .add ⟨4, 1, 2, 0, 0⟩)
    ∧ bundleFull 0x1000 (Machine.core up 0).bundle = false ∧ seqReady up 0 prog0 = true ∧ prog0.pend = []
    ∧ (Machine.core up 0).bundle.length < 3 ∧ (0x1000 + 8 * (Machine.core up 0).bundle.length) % 64 ≠ 56 := by decide +kernel

/-- A bundle whose first instruction has come: ADD R4 = R1 + R2, before ADD R5 = R4 + R1. -/
def second : State :=
  { up with cores := [(0, { noCore with prog := some prog0, icache := codeAt prog0 [wR 1 4 1 2 0 0 - 2 ^ 63, wR 1 5 4 1 0 0],
                                        bundle := [.add { h0 with stop := false } ⟨4, 1, 2, 0, 0⟩] })] }
theorem wit_bundle : prog? second 0 = some prog0 ∧ seqReady second 0 prog0 = true
    ∧ (Machine.core second 0).bundle = [.add { h0 with stop := false } ⟨4, 1, 2, 0, 0⟩] ∧ (segCheck second 1 0x1000 8 .x).isOk = true
    ∧ (segCheck second 1 0x1008 8 .x).isOk = true ∧ isHole second (canon 0x1000) = false ∧ isHole second (canon 0x1007) = false
    ∧ isHole second (canon 0x1008) = false ∧ isHole second (canon 0x100F) = false
    ∧ (mapFind? (Machine.core second 0).icache (icKey 1 0x1000)).isSome = true ∧ mapGet (fun _ => 0) second.inject (blkNo (bCore 0)) = 0
    ∧ spellsB second 0 prog0 0x1000 (.add { h0 with stop := false } ⟨4, 1, 2, 0, 0⟩) = true
    ∧ spellsB second 0 prog0 0x1008 (.add h0 ⟨5, 4, 1, 0, 0⟩) = true
    ∧ qualified prog0 h0 = true ∧ qualified prog0 { h0 with stop := false } = true := by decide +kernel
/-- R166: the second ADD reads R4 as it stood before the bundle. -/
theorem test_bundle_old : (prog? (nextOf (exec (.add h0 ⟨5, 4, 1, 0, 0⟩) second)) 0).map (fun q => (sreg q 4, sreg q 5)) = some (4, 5) := by
  decide +kernel
/-- Log entry 134: a row that is not the word the core fetches is not executed. -/
theorem test_strange : (prog? (nextOf (exec (.sub h0 ⟨4, 1, 2, 0, 0⟩) (spell up prog0 [wR 1 4 1 2 0 0]))) 0).map (fun q => (sreg q 4, q.pc))
    = some (0, 0x1000) := by decide +kernel

/-! Memory accesses of the sequencer: R3 is 0x2000, whose line the core holds in M or lacks. -/

def segW : Word := place 51 48 15 ||| place 39 0 (2 ^ 40 - 1)
def line0 : CLine := { line := 0x80, host := false, st := .m, data := 0x11 :: List.replicate 63 0x80, poison := false, cc := false, key := none,
                       stamp := 0, pres := 0 }
def withLine (l : CLine) (w : Nat) : State :=
  { runs with cores := [(0, { noCore with prog := some prog0, icache := codeAt prog0 [w], dcache := [(0, l)] })] }
def held (w : Nat) : State := withLine line0 w
def ldF : FmtM := { rd := 4, ra := 3, rb := 0, size := 3, scope := 0, ord := 0, hint := 0, off := 0 }
def wLd : Nat := wM 0x50 4 3 0 3 0 0 0
def wSt : Nat := wM 0x51 4 3 0 3 0 0 0
def ldS : State := fetched (held wLd) h0 (.ld h0 ldF) prog0
def stS : State := fetched (held wSt) h0 (.st h0 ldF) prog0
def tgt0 : Target := segTarget 0x2000 segW

theorem wit_local : LocalAccess ldS prog0 0x2000 8 .r false tgt0 :=
  ⟨by decide, by decide, by decide, ⟨segW, by decide +kernel, rfl⟩, by decide +kernel, by decide +kernel, by decide +kernel⟩
theorem wit_local_store : LocalAccess stS prog0 0x2000 8 .w true tgt0 :=
  ⟨by decide, by decide, by decide, ⟨segW, by decide +kernel, rfl⟩, by decide +kernel, by decide +kernel, by decide +kernel⟩
/-- Loads and stores, also misaligned and beyond bit 51, a line operation, an AMO and a barrier. -/
theorem wit_held : RunsAll (held 0) prog0 [(wLd, .ld h0 ldF), (wSt, .st h0 ldF), (wLd + 1, .ld h0 { ldF with off := 1 }), (wSt + 1, .st h0 { ldF with off := 1 }),
    (wM 0x50 4 2 0 3 0 0 0, .ld h0 { ldF with ra := 2 }), (wM 0x51 4 2 0 3 0 0 0, .st h0 { ldF with ra := 2 })] := runs_all (by decide +kernel)
theorem wit_load : decodes (.ld ldF) = true ∧ offset (sreg prog0 3) (0 : BitVec 19) = 0x2000 ∧ sizeBytes 3 = 8 ∧ mirrorOff tgt0 = none
    ∧ bufFind (Machine.core (held wLd) 0).sbuf tgt0 8 = none ∧ allocates tgt0 = true ∧ ownCopy ldS 0 tgt0 = some (0, line0)
    ∧ bufFind [{ tgt := tgt0, named := 0x2000, nc := false, data := List.replicate 8 7 }] tgt0 8 = some (some (List.replicate 8 7)) := by decide +kernel
theorem wit_load_misaligned : decodes (.ld { ldF with off := 1 }) = true ∧ offset (sreg prog0 3) (1 : BitVec 19) < 2 ^ 52
    ∧ offset (sreg prog0 3) (1 : BitVec 19) % 8 ≠ 0 ∧ 2 ^ 52 ≤ offset (sreg prog0 2) (0 : BitVec 19) := by decide +kernel
/-- R176: a doubleword is little-endian. -/
theorem test_load : (prog? (nextOf (exec (.ld h0 ldF) (held wLd))) 0).map (fun q => sreg q 4) = some 0x8080808080808011 := by decide +kernel
theorem test_load_poison : (prog? (nextOf (exec (.ld h0 ldF) (withLine { line0 with poison := true } wLd))) 0) = none := by decide +kernel

theorem wit_store : decodes (.st ldF) = true ∧ ownCopy stS 0 tgt0 = some (0, line0) ∧ hasOwn line0 = true ∧ isOrdered 0 = false
    ∧ mirrorOff { tgt0 with addr := 0x30000000100 } ≠ none ∧ decodes (.st { ldF with ord := 1, scope := 5 }) = true
    ∧ spellsB (held (wM 0x51 4 3 0 3 5 1 0)) 0 prog0 0x1000 (.st h0 { ldF with ord := 1, scope := 5 }) = true
    ∧ isOrdered 1 = true
    ∧ releaseOk (fetched (held (wM 0x51 4 3 0 3 5 1 0)) h0 (.st h0 { ldF with ord := 1, scope := 5 }) prog0)
        (coreBefore (held (wM 0x51 4 3 0 3 5 1 0)) h0 (.st h0 { ldF with ord := 1, scope := 5 }) prog0) 0 5 = true := by decide +kernel
theorem test_store_waits_in_the_buffer :
    ((Machine.core (nextOf (exec (.st h0 ldF) (held wSt))) 0).sbuf).map BufStore.data = [[0, 0, 0, 0, 0, 0, 0, 0]] := by decide +kernel

/-- Core 0 in a region over its code, with way 0 locked. -/
def jig0 : Jig := { lo := 0x1000, hi := 0x1080, line := none, lead := 0, parts := [0], slip := none, cycle := 0, last := none, fmt0 := [], cb0 := [],
                    curves0 := [], rules0 := [] }
def progJ : Prog := { prog0 with injig := true, jig := some jig0, lockMask := 1 }
def inJig (w : Nat) : State := { runs with cores := [(0, { noCore with prog := some progJ, icache := codeAt progJ [w], dcache := [(0, line0)] })] }
def executesJ (w : Nat) : Bool :=
  decide (prog? (inJig w) 0 = some progJ) && seqReady (inJig w) 0 progJ && decide ((Machine.core (inJig w) 0).bundle = [])
    && (segCheck (inJig w) 1 0x1000 8 .x).isOk && !isHole (inJig w) (canon 0x1000) && !isHole (inJig w) (canon 0x1007)
    && (mapFind? (Machine.core (inJig w) 0).icache (icKey 1 0x1000)).isSome
    && decide (mapGet (fun _ => 0) (inJig w).inject (blkNo (bCore 0)) = 0)

theorem runs_jig {w : Nat} (h : executesJ w = true) : Executes (inJig w) h0 progJ := by
  simp only [executesJ, Bool.and_eq_true, decide_eq_true_eq, Bool.not_eq_true'] at h
  obtain ⟨⟨⟨⟨⟨⟨⟨h1, h2⟩, h3⟩, h4⟩, h5⟩, h6⟩, h7⟩, h8⟩ := h
  refine ⟨⟨h1, h2, h3, .inl rfl, rfl, by decide, h4, h5, h6, h7, h8, fun _ j hj => ?_⟩, by decide +kernel⟩
  cases Option.some.inj (show some jig0 = some j from hj)
  decide

theorem wit_region : ∀ x ∈ [(wLd, Instr.ld h0 ldF), (wSt, .st h0 ldF), (wL 0x72 0 0 0 0, .brk h0 ⟨0, 0, false, 0⟩), (wL 0x6D 0 0 0 0, .jigSeal h0 ⟨0, 0, false, 0⟩)],
    Executes (inJig x.1) h0 progJ ∧ Spells (inJig x.1) h0 progJ x.2 := fun x hx => by
  have g := List.all_eq_true.mp (show List.all [(wLd, Instr.ld h0 ldF), (wSt, .st h0 ldF), (wL 0x72 0 0 0 0, .brk h0 ⟨0, 0, false, 0⟩),
    (wL 0x6D 0 0 0 0, .jigSeal h0 ⟨0, 0, false, 0⟩)] (fun x => executesJ x.1 && spellsB (inJig x.1) 0 progJ 0x1000 x.2) = true by decide +kernel) x hx
  simp only [Bool.and_eq_true] at g
  exact ⟨runs_jig g.1, spells_of g.2⟩
theorem wit_region_local : LocalAccess (fetched (inJig wLd) h0 (.ld h0 ldF) progJ) progJ 0x2000 8 .r false tgt0
    ∧ LocalAccess (fetched (inJig wSt) h0 (.st h0 ldF) progJ) progJ 0x2000 8 .w true tgt0 :=
  ⟨⟨by decide, by decide, by decide, ⟨segW, by decide +kernel, rfl⟩, by decide +kernel, by decide +kernel, by decide +kernel⟩,
    ⟨by decide, by decide, by decide, ⟨segW, by decide +kernel, rfl⟩, by decide +kernel, by decide +kernel, by decide +kernel⟩⟩
theorem wit_region_locked : lockedCopy (fetched (inJig wLd) h0 (.ld h0 ldF) progJ) 0 tgt0 = some (0, line0)
    ∧ lockedCopy (fetched (inJig wSt) h0 (.st h0 ldF) progJ) 0 tgt0 = some (0, line0)
    ∧ lockedCopy (fetched up h0 (.ld h0 ldF) progJ) 0 tgt0 = none ∧ progJ.injig = true := by decide +kernel
theorem wit_region_forbids : view (.brk h0 ⟨0, 0, false, 0⟩) = some (h0, .brk ⟨0, 0, false, 0⟩) ∧ decodes (.brk ⟨0, 0, false, 0⟩) = true
    ∧ notInJig (.brk ⟨0, 0, false, 0⟩) = true := by decide +kernel

def amoF : FmtA := { rd := 4, ra := 3, rb := 1, size := 3, scope := 0, ord := 0, hint := 0, aop := 2, off := 0 }
def wAmo : Nat := wM 0x52 4 3 1 3 0 0 0 + 2 * 2 ^ 15
theorem wit_amo : decodes (.amo amoF) = true ∧ LocalAccess (fetched (held wAmo) h0 (.amo h0 amoF) prog0) prog0 0x2000 8 .a true tgt0
    ∧ isMirror 0x2000 = false ∧ amoF.scope.toNat ≤ 1 ∧ ownCopy (fetched (held wAmo) h0 (.amo h0 amoF) prog0) 0 tgt0 = some (0, line0) :=
  ⟨by decide +kernel, ⟨by decide, by decide, by decide, ⟨segW, by decide +kernel, rfl⟩, by decide +kernel, by decide +kernel, by decide +kernel⟩,
    by decide +kernel, by decide, by decide +kernel⟩
/-- An AMO, one of SYSTEM scope, and a misaligned one. -/
theorem wit_amo_words : RunsAll (held 0) prog0 [(wAmo, .amo h0 amoF), (wAmo + 5 * 2 ^ 23, .amo h0 { amoF with scope := 5 }),
    (wAmo + 1, .amo h0 { amoF with off := 1 })] := runs_all (by decide +kernel)
/-- R178: fetch-and-add returns the old value. -/
theorem test_amo_add : (prog? (nextOf (exec (.amo h0 amoF) (held wAmo))) 0).map (fun q => sreg q 4) = some 0x8080808080808011 := by decide +kernel

def lineF : FmtM := { ldF with rd := 0, size := 0 }
theorem wit_cache_words : RunsAll up prog0 [(wM 0x53 0 3 0 0 0 0 0, .pf h0 lineF), (wM 0x53 0 2 0 0 0 0 0, .pf h0 { lineF with ra := 2 }),
    (wM 0x54 0 3 0 4 0 0 0, .cacheIinv h0 { lineF with size := 4 }), (wL 0x55 0 0 0 1, .dlock h0 ⟨0, 0, false, 1⟩),
    (wM 0x56 0 0 0 0 0 1 0, .fence h0 { lineF with ra := 0, ord := 1 }), (wM 0x56 0 0 0 0 5 2 0, .fence h0 { lineF with ra := 0, ord := 2, scope := 5 })]
    ∧ RunsAll (held 0) prog0 [(wM 0x54 0 3 0 0 0 0 0, .cacheZl h0 lineF), (wM 0x54 0 3 0 1 0 0 0, .cacheWb h0 { lineF with size := 1 }),
      (wM 0x54 0 3 0 2 0 0 0, .cacheWbinv h0 { lineF with size := 2 }), (wM 0x54 0 3 0 3 0 0 0, .cacheInv h0 { lineF with size := 3 })] :=
  ⟨runs_all (by decide +kernel), runs_all (by decide +kernel)⟩
def wPf : Nat := wM 0x53 0 3 0 0 0 0 0
theorem wit_prefetch : decodes (.pf lineF) = true ∧ 2 ^ 51 ≤ offset (sreg prog0 2) (0 : BitVec 19)
    ∧ segCheck (fetched (spell up prog0 [wPf]) h0 (.pf h0 lineF) prog0) 1 0x2000 1 .r = .ok segW
    ∧ isHole (fetched (spell up prog0 [wPf]) h0 (.pf h0 lineF) prog0) tgt0.addr = false
    ∧ ownCopy (fetched (spell up prog0 [wPf]) h0 (.pf h0 lineF) prog0) 0 tgt0 = none
    ∧ needsFullWb (fetched (spell up prog0 [wPf]) h0 (.pf h0 lineF) prog0) 0 0x2000 = false := by decide +kernel
/-- A prefetch beyond a segment of two pages, which holds the code. -/
def short : State := setWk up (.ctx 1) 0x8208 (place 51 48 15 ||| place 39 0 2)
theorem wit_prefetch_dropped : runsB short prog0 (wPf, .pf h0 lineF) = true ∧ segCheck (fetched (spell short prog0 [wPf]) h0 (.pf h0 lineF) prog0) 1 0x2000 1 .r = .error 1 := by
  decide +kernel
theorem wit_cache : seqHeld (noWait prog0) 0x2000 64 true = false
    ∧ ((Machine.core (held 0) 0).sbuf.any fun x => bufOverlaps x { tgt0 with addr := lineOf tgt0 * 64 } 64) = false
    ∧ decodes (.dlock ⟨0, 0, false, 1⟩) = true ∧ decodes (.fence { lineF with ra := 0, ord := 1 }) = true
    ∧ decodes (.fence { lineF with ra := 0, ord := 2, scope := 5 }) = true := by decide +kernel
theorem wit_cache_local : LocalAccess (fetched (held (wM 0x54 0 3 0 0 0 0 0)) h0 (.cacheZl h0 lineF) prog0) prog0 0x2000 1 .w false tgt0
    ∧ ownCopy (fetched (held (wM 0x54 0 3 0 0 0 0 0)) h0 (.cacheZl h0 lineF) prog0) 0 tgt0 = some (0, line0) :=
  ⟨⟨by decide, by decide, by decide, ⟨segW, by decide +kernel, rfl⟩, by decide +kernel, by decide +kernel, by decide +kernel⟩, by decide +kernel⟩
/-- R181: ZL zeroes the line that the core holds. -/
theorem test_zl : (mapFind? (Machine.core (nextOf (exec (.cacheZl h0 lineF) (held (wM 0x54 0 3 0 0 0 0 0)))) 0).dcache 0).map CLine.data
    = some (List.replicate 64 0) := by decide +kernel

def pldF : FmtM := { ldF with rb := 1, scope := 5 }
def wPld : Nat := wM 0x57 4 3 1 3 5 0 0
def wPst : Nat := wM 0x58 4 3 1 3 5 0 0
theorem wit_peer_words : RunsAll up prog0 [(wPld, .pld h0 pldF), (wPst, .pst h0 pldF)]
    ∧ RunsAll (withProg { prog0 with reply := some (.data 1 false) }) { prog0 with reply := some (.data 1 false) }
      [(wPld, .pld h0 pldF)]
    ∧ RunsAll (withProg { prog0 with reply := some .dead }) { prog0 with reply := some .dead } [(wPld, .pld h0 pldF)] :=
  ⟨runs_all (by decide +kernel), runs_all (by decide +kernel), runs_all (by decide +kernel)⟩
theorem wit_peer : decodes (.pld pldF) = true ∧ decodes (.pst pldF) = true ∧ 0x2000 < 2 ^ 52
    ∧ pldOut (fetched (spell up prog0 [wPld]) h0 (.pld h0 pldF) prog0) 0 (noWait prog0) = false
    ∧ peerAlive (fetched (spell up prog0 [wPld]) h0 (.pld h0 pldF) prog0) 5 = false := by decide +kernel

/-- R4 names the scratchpad of core 0. -/
def progS : Prog := { prog0 with s := [(1, 5), (3, 0x2000), (4, BitVec.ofNat 64 (spadBase 0))] }
def ftF : FmtM := { ldF with ra := 4, rb := 1, rd := 16, size := 0 }
def wFt : Nat := wM 0x59 16 4 1 0 0 0 0
def wCb : Nat := wM 0x5A 0 4 1 0 0 0 0
def issF : FmtE := ⟨1, 0, 0, 0, false, 0, false, 0, 0⟩
def wIss : Nat := wOp 0x60 + 2 ^ 44
theorem wit_spad_words : RunsAll (withProg progS) progS [(wFt, .ftld h0 ftF), (wCb, .cbld h0 { ftF with rd := 0 }), (wIss, .issue h0 issF),
    (wIss + 2 ^ 38, .issue h0 { issF with ra := 1 })] := runs_all (by decide +kernel)

/-- The scratchpad read of `n` bytes at the base of core 0's scratchpad succeeds, with bytes and state for which `k` holds. -/
def givesB (S : State) (p : Prog) (n : Nat) (k : List Byte → State → Bool) : Bool :=
  match segCheck S p.ctx (spadBase 0) n .r with
  | .ok w => decide (n ≤ spadSize) && !seqHeld (noWait p) (spadBase 0) n false
      && !((Machine.core S 0).sbuf.any fun b => bufOverlaps b (segTarget (spadBase 0) w) n)
      && (match readParts (whoCore S 0) (segTarget (spadBase 0) w) (parts (segTarget (spadBase 0) w).addr n) S with
        | .ok r t => !r.bad && k r.bytes t
        | .error .. => false)
  | .error _ => false

theorem gives_of {S : State} {p : Prog} {n : Nat} {k : List Byte → State → Bool} (h : givesB S p n k = true) :
    ∃ bs t, SpadGives S 0 p (spadBase 0) n bs t ∧ k bs t = true := by
  unfold givesB at h
  split at h
  · rename_i w hw
    simp only [Bool.and_eq_true, decide_eq_true_eq, Bool.not_eq_true'] at h
    obtain ⟨⟨⟨h1, h2⟩, h3⟩, h4⟩ := h
    split at h4
    · rename_i r t hr
      simp only [Bool.and_eq_true, Bool.not_eq_true'] at h4
      exact ⟨r.bytes, t, ⟨Nat.le_refl _, Nat.add_le_add_left h1 _, h2, w, r, hw, h3, hr, h4.1, rfl⟩, h4.2⟩
    · exact Bool.noConfusion h4
  · exact Bool.noConfusion h

theorem wit_format_loads : decodes (.ftld ftF) = true ∧ decodes (.cbld { ftF with rd := 0 }) = true ∧ offset (sreg progS 4) (0 : BitVec 19) = spadBase 0
    ∧ spadBase 0 % 8 = 0
    ∧ (∃ bs t, SpadGives (fetched (spell (withProg progS) progS [wFt]) h0 (.ftld h0 ftF) progS) 0 progS (spadBase 0) (8 * 1) bs t ∧ true = true)
    ∧ (∃ bs t, SpadGives (fetched (spell (withProg progS) progS [wCb]) h0 (.cbld h0 { ftF with rd := 0 }) progS) 0 progS (spadBase 0) (32 * 1) bs t ∧ true = true) :=
  ⟨by decide +kernel, by decide +kernel, by decide +kernel, by decide,
    gives_of (k := fun _ _ => true) (by decide +kernel), gives_of (k := fun _ _ => true) (by decide +kernel)⟩

theorem wit_issue : decodes (.issue issF) = true ∧ decodes (.issue { issF with ra := 1 }) = true ∧ (sreg progS 0).toNat % 64 = 0 ∧ (sreg progS 1).toNat % 64 ≠ 0
    ∧ (queue progS 1).length < queueDepth 1
    ∧ ∃ bs t, SpadGives (fetched (spell (withProg progS) progS [wIss]) h0 (.issue h0 issF) progS) 0 progS (spadBase 0) 64 bs t
        ∧ ((Machine.core t 0).engOn.getLsbD 1 && decide (prog? t 0 = some (atIssue progS))
          && !bufHeld (coreBefore (spell (withProg progS) progS [wIss]) h0 (.issue h0 issF) progS) (issueOp t 0 (noWait progS) issF (wordsOf 8 bs) (atIssue progS))) = true :=
  ⟨by decide +kernel, by decide +kernel, by decide +kernel, by decide +kernel, by decide +kernel, gives_of (by decide +kernel)⟩

/-- An operation of opcode `code` with the descriptor `d`. -/
def opOf (d : List Word) : EngOp :=
  newOp { prog0 with fmt := [(16, fmtWord fmtFp32)] } issF d 0 0
def progQ (e : Nat) (op : EngOp) : Prog := { prog0 with queues := [(e, [op])] }
theorem wit_ewait : RunsAll up prog0 [(wS 0x61 1 0 0 0, .ewait h0 ⟨1, 0, 0, 0⟩)]
    ∧ RunsAll (withProg (progQ 0 (opOf []))) (progQ 0 (opOf [])) [(wS 0x61 1 0 0 0, .ewait h0 ⟨1, 0, 0, 0⟩)] :=
  ⟨runs_all (by decide +kernel), runs_all (by decide +kernel)⟩
theorem wit_ewait_queues : queue prog0 0 = [] ∧ queue (progQ 0 (opOf [])) 0 ≠ [] ∧ decodes (.ewait ⟨1, 0, 0, 0⟩) = true := by decide +kernel

def cwF : FmtC := { rd := 0, rb := 0, cq := 1, scope := 0, z := 0, n := 3 }
def csF : FmtC := { cwF with scope := 1, rb := 1 }
theorem wit_credit_words : RunsAll up prog0 [(wC 0x62 0 0 1 0 3, .cwait h0 cwF), (wC 0x64 1 0 1 0 3, .ctest h0 { cwF with rd := 1 }),
    (wC 0x65 4 0 1 0 0, .crd h0 { cwF with rd := 4, n := 0 }), (wC 0x66 0 1 1 0 0, .cset h0 { cwF with n := 0, rb := 1 }),
    (wC 0x63 0 1 1 1 3, .csig h0 csF)] ∧ RunsAll (withProg (setCredit prog0 1 3)) (setCredit prog0 1 3) [(wC 0x62 0 0 1 0 3, .cwait h0 cwF)] :=
  ⟨runs_all (by decide +kernel), runs_all (by decide +kernel)⟩
theorem wit_credits : decodes (.cwait cwF) = true ∧ decodes (.ctest { cwF with rd := 1 }) = true ∧ decodes (.crd { cwF with rd := 4, n := 0 }) = true
    ∧ decodes (.cset { cwF with n := 0, rb := 1 }) = true ∧ decodes (.csig csF) = true
    ∧ (credit prog0 1).toNat < 3 ∧ 3 ≤ (credit (setCredit prog0 1 3) 1).toNat ∧ prog0.blocked = false
    ∧ 2 ^ 32 ≤ (credit (setCredit prog0 1 0xFFFFFFFF) 1).toNat + 1 := by decide +kernel
def csS : State := spell up prog0 [wC 0x63 0 1 1 1 3]
/-- Core 5 of the same cluster has no task of the context, core 8 lies outside the scope. -/
theorem wit_csig : scopeHolds 1 0 8 = false ∧ scopeHolds 1 0 5 = true ∧ signalTask csS 1 5 = none
    ∧ releaseOk (fetched csS h0 (.csig h0 csF) prog0) (coreBefore csS h0 (.csig h0 csF) prog0) 0 1 = true := by decide +kernel
theorem test_credit_saturates : credit (addCredit (setCredit prog0 1 0xFFFFFFFF) 1 1) 1 = 0xFFFFFFFF := by decide +kernel

def progM : Prog := { prog0 with s := [(1, 0x10), (2, 0)] }
theorem wit_special_words : RunsAll up prog0 ([0, 1, 2, 0x10, 0x11, 0x20, 0x21, 0x22, 0x23, 0x30, 0x31, 0x32, 0x33, 0x34, 0x40, 0x50, 0x60].map fun k =>
    (wS 0x68 4 0 k 0, .mfs h0 ⟨4, 0, BitVec.ofNat 12 k, 0⟩))
    ∧ RunsAll up prog0 [(wS 0x69 0 3 0x30 0, .mts h0 ⟨0, 3, 0x30, 0⟩), (wS 0x69 0 0 0x20 0, .mts h0 ⟨0, 0, 0x20, 0⟩), (wS 0x69 0 0 0x21 0, .mts h0 ⟨0, 0, 0x21, 0⟩),
      (wS 0x6A 0 1 0 0, .preheat h0 ⟨0, 1, 0, 0⟩), (wL 0x6E 0 0 0 9, .mark h0 ⟨0, 0, false, 9⟩), (wL 0x71 0 0 0 9, .waitI h0 ⟨0, 0, false, 9⟩)]
    ∧ RunsAll (withProg progM) progM [(wS 0x69 0 1 0x20 0, .mts h0 ⟨0, 1, 0x20, 0⟩)] :=
  ⟨runs_all (by decide +kernel), runs_all (by decide +kernel), runs_all (by decide +kernel)⟩
theorem wit_special : (sreg progM 1).getLsbD 4 = true ∧ (sreg prog0 0).toNat % 32 = 0 ∧ prog0.pend = [] ∧ decodes (.preheat ⟨0, 1, 0, 0⟩) = true
    ∧ decodes (.mark ⟨0, 0, false, 9⟩) = true
    ∧ tracePass (fetched (spell up prog0 [wL 0x6E 0 0 0 9]) h0 (.mark h0 ⟨0, 0, false, 9⟩) prog0) 3 1 = false
    ∧ decodes (.waitI ⟨0, 0, false, 9⟩) = true := by decide +kernel
/-- R163: MFS of TASK reads the task's number. -/
theorem test_mfs_task : (prog? (nextOf (exec (.mfs h0 ⟨4, 0, 0x002, 0⟩) (spell up prog0 [wS 0x68 4 0 2 0]))) 0).map (fun q => sreg q 4) = some 7 := by decide +kernel

/-- The task of `prog0` holds strike line 9. -/
def task0 (lines : List Nat) : Task :=
  { id := 0, ctx := 1, words := [], placed := true, cores := [0], started := [0], ended := [], lines, caps := [], capWords := [], args := [], faulted := false, tStart := 0, tEnd := 0, exc := none, status := .ok, numsum := 0, poisonCnt := 0, missCnt := 0, saved := [],
    finished := false, issuedRec := none, early := [] }
def struck (p : Prog) (w : Nat) : State := { spell (withProg p) p [w] with tasks := [task0 [9]] }
def wStrike : Nat := wS 0x6B 0 1 0 0
def wOpen (sw : Nat) : Nat := wL 0x6C 0 0 sw 0x10000
theorem wit_strike : executesB (struck prog0 wStrike) h0 prog0 = true ∧ spellsB (struck prog0 wStrike) 0 prog0 0x1000 (.strike h0 ⟨0, 1, 0, 0⟩) = true
    ∧ decodes (.strike ⟨0, 1, 0, 0⟩) = true ∧ physLine (fetched (struck prog0 wStrike) h0 (.strike h0 ⟨0, 1, 0, 0⟩) prog0) (noWait prog0) 0 = some 9
    ∧ ((strikeLine (fetched (struck prog0 wStrike) h0 (.strike h0 ⟨0, 1, 0, 0⟩) prog0) 9).strikers.any fun k => k.1 = 0) = false
    ∧ executesB (struck { prog0 with granted := true } wStrike) h0 { prog0 with granted := true } = true := by decide +kernel
theorem wit_jig_words : RunsAll up prog0 [(wOpen 0, .jigOpen h0 ⟨0, 0, false, 0x10000⟩), (wL 0x6D 0 0 0 0, .jigSeal h0 ⟨0, 0, false, 0⟩),
    (wL 0x72 0 0 0 5, .brk h0 ⟨0, 0, false, 5⟩), (wL 0x6F 0 0 0 0, .yieldI h0 ⟨0, 0, false, 0⟩), (wL 0x70 0 0 0 0, .endTask h0 ⟨0, 0, false, 0⟩)]
    ∧ executesB (struck prog0 (wOpen 1)) h0 prog0 = true
    ∧ spellsB (struck prog0 (wOpen 1)) 0 prog0 0x1000 (.jigOpen h0 ⟨0, 0, true, 0x10000⟩) = true := ⟨runs_all (by decide +kernel), by decide +kernel⟩
def openS : State := fetched (spell up prog0 [wOpen 0]) h0 (.jigOpen h0 ⟨0, 0, false, 0x10000⟩) prog0
/-- JIG.OPEN finds the lines it pins in the cache or fills them. -/
theorem wit_open : decodes (.jigOpen ⟨0, 0, false, 0x10000⟩) = true ∧ (match icPin 0 (noWait prog0)
      ((List.range (0x1080 / 64 - 0x1008 / 64)).map fun i => icKey 1 (0x1008 / 64 * 64 + 64 * i)) (0x1008 / 64 * 64) (0x1080 / 64 - 0x1008 / 64) openS with
    | .ok () _ => true
    | .error .. => false) = true ∧ (0x1000 + 8 + 64 * jLen ⟨0, 0, false, 0x10000⟩ + 63) / 64 * 64 = 0x1080 := by decide +kernel
theorem wit_jig : decodes (.jigSeal ⟨0, 0, false, 0⟩) = true ∧ decodes (.brk ⟨0, 0, false, 5⟩) = true
    ∧ physLine (fetched (struck prog0 (wOpen 1)) h0 (.jigOpen h0 ⟨0, 0, true, 0x10000⟩) prog0) (noWait prog0) (jLine ⟨0, 0, true, 0x10000⟩) = some 9 := by decide +kernel
def endS : State := spell up prog0 [wL 0x70 0 0 0 0]
theorem wit_yield : decodes (.yieldI ⟨0, 0, false, 0⟩) = true ∧ decodes (.endTask ⟨0, 0, false, 0⟩) = true ∧ (∀ e : Nat, e < 6 → queue prog0 e = [])
    ∧ releaseOk (fetched endS h0 (.endTask h0 ⟨0, 0, false, 0⟩) prog0) (coreBefore endS h0 (.endTask h0 ⟨0, 0, false, 0⟩) prog0) 0 5 = true := by
  decide +kernel
theorem wit_yield_waits : RunsAll (withProg (progQ 0 (opOf []))) (progQ 0 (opOf [])) [(wL 0x6F 0 0 0 0, .yieldI h0 ⟨0, 0, false, 0⟩),
    (wL 0x70 0 0 0 0, .endTask h0 ⟨0, 0, false, 0⟩)] := runs_all (by decide +kernel)
theorem wit_handler : ({ prog0 with ehnd := 0x4000 } : Prog).ehnd ≠ 0 ∧ prog0.ehnd = 0 ∧ (spell up prog0 [wL 0x72 0 0 0 5]).raised = []
    ∧ mapWf (fun _ => coreInit) (spell up prog0 [wL 0x72 0 0 0 5]).cores = true
    ∧ mapWf (fun _ => (0 : Word)) prog0.s = true ∧ mapWf (fun _ => false) prog0.p = true
    ∧ runsB (withProg { prog0 with ehnd := 0x4000 }) { prog0 with ehnd := 0x4000 } (wL 0x72 0 0 0 5, .brk h0 ⟨0, 0, false, 5⟩) = true := by decide +kernel
/-- R199: a BREAK with a handler saves the CA of the next bundle and enters the handler. -/
theorem test_break : (prog? (nextOf (exec (.brk h0 ⟨0, 0, false, 5⟩) (spell (withProg { prog0 with ehnd := 0x4000 }) prog0 [wL 0x72 0 0 0 5]))) 0).map
    (fun q => (q.pc, q.epc, q.ecode, q.einfo, q.inexc)) = some (0x4000, 0x1008, 0x0A, 5, true) := by decide +kernel

theorem seg_any (s : State) (a n : Nat) (perm : Perm) (h : a + n ≤ 2 ^ 51) (h0 : wk s (.ctx 1) 0x8200 = place 63 63 1)
    (h1 : wk s (.ctx 1) 0x8208 = segW) : segCheck s 1 a n perm = .ok segW := by
  have g : govSeg s 1 a = some (0, (2 ^ 40 - 1) * 4096, segW) := by
    unfold govSeg
    rw [show List.range 16 = 0 :: (List.range 15).map (· + 1) by decide, List.findSome?_cons]
    simp only [Nat.mul_zero, Nat.add_zero, h0, h1]
    rw [show fld (place 63 63 1) 51 12 = 0 by decide, show fld segW 39 0 = 2 ^ 40 - 1 by decide +kernel,
      show flag (place 63 63 1) 63 = true by decide]
    have ha : decide (a < 0 * 4096 + (2 ^ 40 - 1) * 4096) = true := by rw [decide_eq_true_eq]; omega
    rw [ha, show decide (0 * 4096 ≤ a) = true by simp]
    rfl
  have hn : ¬ (0 + (2 ^ 40 - 1) * 4096 < a + n) := by omega
  unfold segCheck
  rw [g]
  simp only [hn, if_false]
  cases perm <;> rfl

theorem wk_cores (s : State) (x : SMap Core) (b : Blk) (o : Nat) : wk { s with cores := x } b o = wk s b o := rfl

theorem seg_up (p : Prog) (a n : Nat) (perm : Perm) (h : a + n ≤ 2 ^ 51) : segCheck (withProg p) 1 a n perm = .ok segW :=
  seg_any _ a n perm h ((wk_cores ..).trans (by decide +kernel)) ((wk_cores ..).trans (by decide +kernel))

theorem open_up (p : Prog) (k : Nat) (hk : k < 384) : OpenSpad (withProg p) k 1 := fun a n perm _ h2 => by
  rw [seg_up p a n perm (by unfold spadBase spadSize at h2; omega)]; rfl
theorem hole_spad {s : State} {x : Nat} (h1 : spadBase 0 ≤ x) (h2 : x < spadBase 0 + spadSize) (he : coreEnabled s 0 = true)
    (hf : clusterFenced s 0 = false) : isHole s (canon x) = false ∧ isMirror x = false := by
  unfold spadBase spadSize at h1 h2
  have hc : canon x = x := by
    unfold canon
    rw [if_neg (by omega), if_neg (by omega), if_neg (by omega)]
  have hk : caKind x = .spad 0 (x % 0x400000) := by
    unfold caKind stackSize drawerSize spadSize
    rw [if_neg (by omega), if_neg (by omega), if_pos (by omega)]
    have e1 : (x - 0x11000000000) / 0x400000 = 0 := by omega
    rw [e1]
  refine ⟨?_, ?_⟩
  · rw [hc, isHole, hk]; simp [he, hf, show clusterOf 0 = 0 from rfl]
  · rw [isMirror, hc, hk]

/-- The scratchpad of core 0 can be reached. -/
theorem reach_any {s : State} {a n : Nat} (h0 : wk s (.ctx 1) 0x8200 = place 63 63 1) (h1 : wk s (.ctx 1) 0x8208 = segW)
    (he : coreEnabled s 0 = true) (hf : clusterFenced s 0 = false) (hl : spadBase 0 ≤ a) (hh : a + n ≤ spadBase 0 + spadSize) :
    Reach s 1 a n := by
  have hb : spadBase 0 + spadSize ≤ 2 ^ 51 := by decide
  refine ⟨by omega, fun x l perm hl1 hx hy => ⟨?_, (hole_spad (by omega) (by omega) he hf).1,
    (hole_spad (by omega) (by omega) he hf).1, (hole_spad (by omega) (by omega) he hf).2⟩⟩
  exact ⟨segW, seg_any s x l perm (by omega) h0 h1, by rw [show flag segW 52 = false by decide +kernel]; rfl⟩

/-! The engines. -/

/-- Core 0 with `op` at the front of engine `e`; the task names table `tb` in slot 0. -/
def ctxTask (tb : List Word) : Task := { task0 [] with caps := [0x80], capWords := [tb] }

def tabled (p : Prog) (tb : List Word) : State := { withProg p with tasks := [ctxTask tb] }

theorem tabled_work (p : Prog) (tb : List Word) : (tabled p tb).work = runs.work ∧ (tabled p tb).regs = runs.regs := by
  simp only [tabled, withProg, and_self]

theorem wk_work {s t : State} (h : t.work = s.work) (b : Blk) (o : Nat) : wk t b o = wk s b o := by unfold wk; rw [h]
theorem fenced_regs {s t : State} (h : t.regs = s.regs) (cl : Nat) : clusterFenced t cl = clusterFenced s cl := by
  unfold clusterFenced rbit reg; rw [h]

theorem seg_tabled (p : Prog) (tb : List Word) : wk (tabled p tb) (.ctx 1) 0x8200 = place 63 63 1 ∧ wk (tabled p tb) (.ctx 1) 0x8208 = segW :=
  ⟨(wk_work (tabled_work p tb).1 _ _).trans (by decide +kernel), (wk_work (tabled_work p tb).1 _ _).trans (by decide +kernel)⟩

theorem open_tabled (p : Prog) (tb : List Word) : OpenSpad (tabled p tb) 0 1 := fun a n perm _ h2 => by
  rw [seg_any _ a n perm (by unfold spadBase spadSize at h2; omega) (seg_tabled p tb).1 (seg_tabled p tb).2]; rfl

theorem holds_tabled (p : Prog) (tb : List Word) : coreEnabled (tabled p tb) 0 = true ∧ clusterFenced (tabled p tb) 0 = false :=
  ⟨rfl, (fenced_regs (tabled_work p tb).2 0).trans (by decide +kernel)⟩

theorem reach_tabled (p : Prog) (tb : List Word) {a n : Nat} (h : (decide (spadBase 0 ≤ a) && decide (a + n ≤ spadBase 0 + spadSize)) = true) :
    Reach (tabled p tb) 1 a n := by
  simp only [Bool.and_eq_true, decide_eq_true_eq] at h
  exact reach_any (seg_tabled p tb).1 (seg_tabled p tb).2 (holds_tabled p tb).1 (holds_tabled p tb).2 h.1 h.2

theorem quiet_tabled (p : Prog) (tb : List Word) : Quiet (tabled p tb) := by
  refine ⟨rfl, fun k => ?_, fun c => ?_⟩
  · unfold hostBit Machine.filter; rw [show (tabled p tb).filt = [] from rfl]; simp [mapGet]
  show ((mapGet (fun _ => coreInit) [(0, { noCore with prog := some p, icache := codeAt p [] })] c).wb) = none
  unfold mapGet mapFind?
  split <;> rfl

def opAt (p : Prog) (d : List Word) : EngOp := newOp p ⟨1, 0, 0, 0, false, 0, false, 0, 0⟩ (d ++ List.replicate (8 - d.length) 0) 0 0
def withOp (p : Prog) (e : Nat) (o : EngOp) : Prog := { p with queues := [(e, [o])] }

/-- Engine `e` of core 0 is ready to run `o` of opcode `code`. -/
def readyB (p : Prog) (tb : List Word) (e code : Nat) (o : EngOp) : Bool :=
  let q := withOp p e o
  let s := tabled q tb
  engineUp s 0 e && decide (prog? s 0 = some q) && decide (nextOp q e = some o) && !opHeld q e o && !startHeld s 0 e q o
    && decide (opcodeOf o = code) && decide (parityMet s 0 e o = s)

theorem ready {p : Prog} {tb : List Word} {e code : Nat} {o : EngOp} (h : readyB p tb e code o = true) :
    EngineReady (tabled (withOp p e o) tb) 0 e code (withOp p e o) o := by
  simp only [readyB, Bool.and_eq_true, decide_eq_true_eq, Bool.not_eq_true'] at h
  obtain ⟨⟨⟨⟨⟨⟨h1, h2⟩, h3⟩, h4⟩, h5⟩, h6⟩, h7⟩ := h
  exact ⟨h1, h2, h3, h4, h5, h6, h7⟩

/-- MMA of two E4M3 elements, k = 32; RD of one FP32 element; loads of one. -/
def mmaD : List Word := [place 63 56 1 ||| place 55 51 3 ||| place 50 46 3 ||| place 31 16 32 ||| place 15 8 1 ||| place 7 0 1, 0, place 31 0 64]
def mmaOp : EngOp := opAt prog0 mmaD
theorem wit_mma : EngineReady (tabled (withOp prog0 0 mmaOp) []) 0 0 1 (withOp prog0 0 mmaOp) mmaOp ∧ mmaWords mmaOp.desc = true
    ∧ fmtUsable fmtE4m3 [] = true ∧ exactFmt fmtE4m3 = true ∧ 32 % min (blkSz 0) (blkSz 0) = 0 ∧ (bankOf (withOp prog0 0 mmaOp) 0).mode = .empty
    ∧ (∀ q ∈ bankIx 1 1, (bankElem (bankOf (withOp prog0 0 mmaOp) 0) q.1 q.2).acc.count + 1 ≤ accLimit)
    ∧ RowsFit 0 0 32 1 ∧ RowsFit 0 64 1 32 ∧ flag (wordAt mmaD 0) 35 = false :=
  ⟨ready (by decide +kernel), by decide +kernel, by decide +kernel, by decide +kernel, by decide +kernel, by decide +kernel, by decide +kernel,
    by unfold RowsFit; decide, by unfold RowsFit; decide, by decide⟩
theorem wit_mma_space : OpenSpad (tabled (withOp prog0 0 mmaOp) []) 0 1 := open_tabled _ _

def rdD (code fm xp : Nat) : List Word := [place 63 56 code ||| place 55 51 fm ||| place 50 50 xp, 0, 0, place 15 8 1 ||| place 7 0 1]
theorem wit_rd : EngineReady (tabled (withOp prog0 0 (opAt prog0 (rdD 2 0 0))) []) 0 0 2 (withOp prog0 0 (opAt prog0 (rdD 2 0 0))) (opAt prog0 (rdD 2 0 0))
    ∧ rdWords (opAt prog0 (rdD 2 0 0)).desc = true ∧ oscaleOk (wordAt (rdD 2 0 0) 0) = true ∧ fmtFp32.valid = true ∧ RowsFit 0 0 4 1 :=
  ⟨ready (by decide +kernel), by decide +kernel, by decide +kernel, by decide, by unfold RowsFit; decide⟩
theorem wit_loads : EngineReady (tabled (withOp prog0 0 (opAt prog0 (rdD 4 0 1))) []) 0 0 4 (withOp prog0 0 (opAt prog0 (rdD 4 0 1))) (opAt prog0 (rdD 4 0 1))
    ∧ readyB prog0 [] 0 3 (opAt prog0 (rdD 3 0 1)) = true ∧ readyB prog0 [] 0 5 (opAt prog0 [place 63 56 5]) = true
    ∧ accOfBytes (memBytes runs (spadBase 0) 32) = some accZero ∧ accZero.count + accZero.count ≤ accLimit ∧ RowsFit 0 0 32 1 :=
  ⟨ready (by decide +kernel), by decide +kernel, by decide +kernel, by decide +kernel, by decide, by unfold RowsFit; decide⟩

/-- A wrong opcode and a rejected operation. -/
theorem wit_engine_rejects : readyB prog0 [] 0 0x20 (opAt prog0 [place 63 56 0x20]) = true ∧ 0x20 ∉ engineOpcodes 0 ∧ runs.raised = []
    ∧ readyB prog0 [] 0 5 (opAt prog0 [place 63 56 5 ||| 1]) = true := by decide +kernel

/-- Chisel: each operation on one row of FP32 elements at offset 0 to offset 64, QNT's to E4M3 in blocks of 16 with their scales at 128. -/
def chsD (code : Nat) : List Word :=
  [place 63 56 code ||| (if code = 0x2B then place 45 41 3 ||| place 26 25 1 else if code = 0x34 then place 45 41 14 else 0), 0, 0, 0, place 63 32 64,
   place 63 48 1 ||| place 47 32 (if code = 0x2B then 16 else 1), if code = 0x2B then 128 else 0]
def progC : Prog := { prog0 with curves := [(0, { valid := true, bytes := List.replicate 1088 0, poison := false })] }
def chsS (code : Nat) : State := tabled (withOp progC 1 (opAt progC (chsD code))) []
theorem wit_chisel : ∀ e ∈ chiselRows, readyB progC [] 1 e.1 (opAt progC (chsD e.1)) = true ∧ chsWords e.1 (opAt progC (chsD e.1)).desc = true
    ∧ chsFmts e.1 (opAt progC (chsD e.1)).desc [] [] = true ∧ (curveOf progC 0).valid = true := by decide +kernel
theorem wit_chisel_space : OpenSpad (chsS 0x2B) 0 1 ∧ RowsFit 0 0 64 1 ∧ RowsFit 64 0 16 1 ∧ RowsFit 128 0 1 1 ∧ 16 % 16 = 0 ∧ (chsS 0x2B).inject = []
    ∧ (∀ x, chunkPoison (chsS 0x2B) x = false) ∧ Apart (spadBase 0 + 64) 16 (spadBase 0 + 128) 1 :=
  ⟨open_tabled _ _, by unfold RowsFit; decide, by unfold RowsFit; decide, by unfold RowsFit; decide, rfl, rfl, fun _ => rfl, by unfold Apart; decide +kernel⟩
/-- R95: the operation has run. -/
theorem test_chisel_runs : (chiselRows.all fun e => decide (((prog? (nextOf (exec (e.2 0) (chsS e.1))) 0).map fun q => (queue q 1).map EngOp.ran) = some [true])) = true := by
  decide +kernel
theorem wit_cld : readyB prog0 [] 1 0x3F (opAt prog0 [place 63 56 0x3F, 0]) = true ∧ 0 % 64 = 0 ∧ 0 + 1088 ≤ spadSize := by decide +kernel

/-- SEL: a stream of capacity 2. -/
def progStr : Prog := { prog0 with streams := [(0, { isOpen := true, inJig := false, k := 2, min := false, entries := [] })] }
def selD (code : Nat) : List Word := match code with
  | 0x61 | 0x65 => [place 63 56 code ||| place 51 47 (if code = 0x61 then 1 else 0) ||| place 31 0 1, 0, 0, 0, if code = 0x65 then place 63 32 64 else 0,
      if code = 0x65 then place 47 32 1 else 0]
  | 0x64 => [place 63 56 code ||| place 51 47 1 ||| place 31 0 1, 0, 0, 0, 0, place 63 56 1 ||| place 55 52 4]
  | 0x63 => [place 63 56 code, 0, place 63 32 64]
  | _ => [place 63 56 code ||| place 31 0 2]
theorem wit_sel : (∀ c ∈ [0x60, 0x61, 0x62, 0x63, 0x64, 0x65], readyB progStr [] 3 c (opAt progStr (selD c)) = true
      ∧ selOk c (opAt progStr (selD c)).desc = true) ∧ streamsOpen progStr 0 1 = true
    ∧ RowsFit 0 0 4 1 ∧ 0 + 16 * 2 ≤ spadSize ∧ 64 + 8 ≤ spadSize ∧ RowsFit 0 0 16 1 ∧ RowsFit 64 16 16 1
    ∧ mapWf (fun _ => streamClosed) progStr.streams = true :=
  ⟨by decide +kernel, by decide +kernel, by unfold RowsFit; decide, by decide, by decide, by unfold RowsFit; decide, by unfold RowsFit; decide,
    by decide +kernel⟩
theorem wit_sel_space : OpenSpad (tabled (withOp progStr 3 (opAt progStr (selD 0x61))) []) 0 1 := open_tabled _ _

/-- XFR0: one row of 8 bytes from 0 to 64 in the scratchpad, FILL, PCOPY to and from peer 5 and NOTE. -/
def xfrD (code : Nat) : List Word := match code with
  | 0x80 => [place 63 56 code, place 51 0 (spadBase 0), place 51 0 (spadBase 0 + 64), place 63 32 8]
  | 0x81 => [place 63 56 code, 0, place 51 0 (spadBase 0 + 64), place 63 32 8, 0, 0, 0, 0x0102030405060708]
  | 0x82 => [place 63 56 code ||| place 38 31 5 ||| place 30 30 1, place 51 0 (spadBase 0), 0, place 63 32 8]
  | _ => [place 63 56 code]
def xfrOp (code : Nat) : EngOp := opAt prog0 (xfrD code)
def xfrS (code : Nat) : State := tabled (withOp prog0 4 (xfrOp code)) []
theorem wit_xfr : (∀ c ∈ [0x80, 0x81, 0x82, 0x83], readyB prog0 [] 4 c (xfrOp c) = true ∧ xfrOk 0 c (xfrOp c).desc = true)
    ∧ xRows (xfrD 0x80) = 1 ∧ xSrcCa (xfrD 0x80) 0 = spadBase 0 ∧ xDstCa (xfrD 0x80) 0 = spadBase 0 + 64 ∧ peerAlive (xfrS 0x82) 5 = false
    ∧ xLen (xfrD 0x80) = 8 ∧ (xfrOp 0x80).sent = false := by decide +kernel
theorem wit_xfr_space : Reach (xfrS 0x80) 1 (spadBase 0) 8 ∧ Reach (xfrS 0x80) 1 (spadBase 0 + 64) 8 ∧ InSpad (spadBase 0 + 64) 8
    ∧ Quiet (xfrS 0x80) ∧ FreshOp (withOp prog0 4 (xfrOp 0x80)) 4 (xfrOp 0x80) :=
  ⟨reach_tabled _ _ (by decide), reach_tabled _ _ (by decide), ⟨0, by decide⟩, quiet_tabled _ _,
    ⟨rfl, by decide +kernel, rfl, rfl, rfl, rfl, rfl⟩⟩
theorem test_fill : memBytes (nextOf (exec (.xfrFill 0 0) (xfrS 0x81))) (spadBase 0 + 64) 8 = [8, 7, 6, 5, 4, 3, 2, 1] := by decide +kernel

/-- Tables linear in the scratchpad: two rows of four E4M3 elements; the LIVE one has pools of 64 slots. -/
def tblD (live : Nat) : List Word :=
  [0, 0, place 63 60 3 ||| place 59 59 live ||| place 57 53 3 ||| place 31 16 1 ||| place 15 0 4, place 63 28 2 ||| place 27 0 1,
   place 51 0 (spadBase 0 + 0x1000), 0, place 51 0 (spadBase 0 + 0x2000), 0, place 51 0 (spadBase 0 + 0x3000), place 63 38 64 ||| place 37 12 64,
   place 51 0 (spadBase 0 + 0x4000), 0, 0, 0, 0, 0]
def tngD (code : Nat) : List Word := match code with
  | 0x40 => [place 63 56 code ||| place 35 35 1 ||| place 31 0 1, 0, place 31 0 64]
  | 0x41 => [place 63 56 code ||| place 31 0 1, place 63 32 128, place 31 0 64]
  | 0x42 => [place 63 56 code ||| place 35 35 1 ||| place 31 0 1, 0, place 31 0 64]
  | 0x43 => [place 63 56 code ||| place 31 0 1, 0, place 31 0 64, place 31 0 256, place 63 32 1]
  | 0x44 => [place 63 56 code ||| place 35 35 1 ||| place 31 0 1, 0, place 31 0 64, 0, place 31 0 256]
  | 0x45 => [place 63 56 code ||| place 31 0 1]
  | 0x46 => [place 63 56 code ||| place 31 0 1]
  | 0x48 => [place 63 56 code, 0, 0, 0, 0, place 51 0 1]
  | 0x49 => [place 63 56 code, 0, 0, 0, 0, 0, 0, place 51 0 2]
  | _ => [place 63 56 code]
def tngOp (code : Nat) : EngOp := { opAt prog0 (tngD code) with rules := [(0, BitVec.ofNat 128 (2 ^ 64))] }
def tngS (code live : Nat) : State := tabled (withOp prog0 2 (tngOp code)) (tblD live)
theorem table_op (code live : Nat) (o : EngOp) (h : readyB prog0 (tblD live) 2 code o = true) (hf : decide (o.inJig = false ∧ o.progress = 0 ∧ o.tags = []
    ∧ o.hole = none ∧ o.deferred = [] ∧ oOk code o.desc = true ∧ tableOf (tabled (withOp prog0 2 o) (tblD live)) (withOp prog0 2 o) (oSlot o.desc)
      = some (0x80, tblD live) ∧ fmtUsable (rowFmt o (tblD live)) o.cbs = true ∧ descFmtOk (tblD live) (rowFmt o (tblD live)) = true
    ∧ ((queue (withOp prog0 2 o) 2).filter fun x => x.ord = o.ord) = [o]) = true) :
    TableOp (tabled (withOp prog0 2 o) (tblD live)) 0 code (withOp prog0 2 o) o (0x80, tblD live) := by
  obtain ⟨h0, h1, h2, h3, h4, h5, h6, h7, h8, h9⟩ := of_decide_eq_true hf
  exact ⟨ready h, open_tabled _ _, quiet_tabled _ _, ⟨rfl, h9, h0, h1, h2, h3, h4⟩, h5, h6, h7, h8⟩
theorem wit_table : TableOp (tngS 0x40 0) 0 0x40 (withOp prog0 2 (tngOp 0x40)) (tngOp 0x40) (0x80, tblD 0)
    ∧ TableOp (tngS 0x41 0) 0 0x41 (withOp prog0 2 (tngOp 0x41)) (tngOp 0x41) (0x80, tblD 0)
    ∧ TableOp (tngS 0x42 0) 0 0x42 (withOp prog0 2 (tngOp 0x42)) (tngOp 0x42) (0x80, tblD 0)
    ∧ TableOp (tngS 0x43 0) 0 0x43 (withOp prog0 2 (tngOp 0x43)) (tngOp 0x43) (0x80, tblD 0) :=
  ⟨table_op _ _ _ (by decide +kernel) (by decide +kernel), table_op _ _ _ (by decide +kernel) (by decide +kernel),
    table_op _ _ _ (by decide +kernel) (by decide +kernel), table_op _ _ _ (by decide +kernel) (by decide +kernel)⟩
theorem wit_table_rows : RowsReach (tngS 0x40 0) 1 (tblD 0) := by
  refine ⟨fun r hr => ?_, Or.inl (by decide)⟩
  have h2 : r < 2 := hr
  rcases (by omega : r = 0 ∨ r = 1) with rfl | rfl <;> exact reach_tabled _ _ (by decide +kernel)
theorem wit_table_operands : dLive (tblD 0) = false ∧ dSsp (tblD 0) = false ∧ dPlace (tblD 0) = 3 ∧ dRfmt (tblD 0) ≤ 2 ∧ encodeBarred (tblD 0) = false
    ∧ poolExact (rowFmt (tngOp 0x41) (tblD 0)) = true ∧ outFmtOk (fmtEntry [] 0) = true
    ∧ elemBits 32 (memBytes (tngS 0x41 0) (spadBase 0) 8) 0 ≤ elemBits 32 (memBytes (tngS 0x41 0) (spadBase 0) 8) 1
    ∧ ruleValid (some (BitVec.ofNat 128 (2 ^ 64))) = true ∧ ruleKind (BitVec.ofNat 128 (2 ^ 64)) ≠ 2 ∧ oCount (tngD 0x43) ≤ oWorkRows (tngD 0x43)
    ∧ ofBytes (memBytes (tngS 0x40 0) (spadBase 0) 4) < dRows (tblD 0) := by decide +kernel
theorem wit_urld_tswap : (∀ c ∈ [0x48, 0x4A], readyB prog0 (tblD 0) 2 c (tngOp c) = true ∧ oOk c (tngOp c).desc = true)
    ∧ (readDesc (tngS 0x48 0) (oArg2 (tngD 0x48))).1.map dPlace = some 0 ∧ swapMatches (tngS 0x48 0) (oCa1 (tngD 0x48)) (oArg2 (tngD 0x48)) = false := by decide +kernel

/-- Row 0 of the LIVE table is home, clean and free, or locked by the operation. -/
def lockedOp (code : Nat) : EngOp := { tngOp code with locked := true, ldesc := tblD 1, slot := some 3 }
theorem wit_live : TableOp (tabled (withOp prog0 2 (lockedOp 0x44)) (tblD 1)) 0 0x44 (withOp prog0 2 (lockedOp 0x44)) (lockedOp 0x44) (0x80, tblD 1)
    ∧ TableOp (tabled (withOp prog0 2 (lockedOp 0x46)) (tblD 1)) 0 0x46 (withOp prog0 2 (lockedOp 0x46)) (lockedOp 0x46) (0x80, tblD 1)
    ∧ TableOp (tngS 0x49 1) 0 0x49 (withOp prog0 2 (tngOp 0x49)) (tngOp 0x49) (0x80, tblD 1) ∧ liveTable (tblD 1) = true :=
  ⟨table_op _ _ _ (by decide +kernel) (by decide +kernel), table_op _ _ _ (by decide +kernel) (by decide +kernel),
    table_op _ _ _ (by decide +kernel) (by decide +kernel), by decide +kernel⟩
theorem wit_live_row : WordIs (tngS 0x49 1) (rowStateCa (tblD 1) 0) 0 ∧ Reach (tngS 0x49 1) 1 (rowStateCa (tblD 1) 0) 8
    ∧ Reach (tngS 0x49 1) 1 (slotCa (tblD 1) 1 3) (dStride (tblD 1)) ∧ moverRoom (tngS 0x49 1) 0 2 = true :=
  ⟨⟨⟨0, by decide +kernel⟩, by decide +kernel⟩, reach_tabled _ _ (by decide +kernel), reach_tabled _ _ (by decide +kernel), by decide +kernel⟩

/-- A list entry of COMMIT for row 0, slot 3 of pool 0, and the row's word: BUSY at the current boot number. -/
def commitS : State := setBytes (setBytes (tngS 0x45 1) (spadBase 0 + 8) (toBytes 8 (place 49 24 3).toNat ++ toBytes 8 (place 59 59 1).toNat))
  (rowStateCa (tblD 1) 0) (toBytes 8 (place 59 59 1).toNat)
theorem wit_commit : wordAt (wordsOf 3 (memBytes commitS (spadBase 0) 24)) 0 = 0 ∧ rsBusy commitS (wordAt (wordsOf 3 (memBytes commitS (spadBase 0) 24)) 2) = true
    ∧ BitVec.ofNat 64 (ofBytes (memBytes commitS (rowStateCa (tblD 1) 0) 8)) = place 59 59 1 ∧ rsLoc (place 59 59 1) ≤ 1 := by decide +kernel
/-- R130: the flip names pool 0, slot 3, clears BUSY, counts the version and marks the row DIRTY. -/
theorem test_commit : memBytes (nextOf (exec (.tngCommit 0) commitS)) (rowStateCa (tblD 1) 0) 8
    = toBytes 8 (place 63 62 1 ||| place 61 61 1 ||| place 49 24 3 ||| place 23 0 1).toNat := by decide +kernel

/-- RESHARD of row 0 into a table without FWD. -/
def srcD : List Word := (tblD 1).set 12 (place 51 7 (0x100 / 128))
def reshD : List Word := [place 63 56 0x47 ||| place 51 48 1, 0, 0, 0, 0, place 51 0 0x1000, 0, place 51 0 1]
def reshOp : EngOp := { opAt prog0 reshD with sent := true, locked := true, ldesc := srcD }
def reshS : State := { withProg (withOp prog0 2 reshOp) with tasks := [{ ctxTask [] with caps := [0x80, 0x100], capWords := [srcD, tblD 1] }] }
theorem wit_reshard : tableOf reshS (withOp prog0 2 reshOp) 0 = some (0x80, srcD) ∧ tableOf reshS (withOp prog0 2 reshOp) 1 = some (0x100, tblD 1)
    ∧ dFwd srcD = 0x100 ∧ dFwd (tblD 1) = 0 ∧ canon (oCa1 reshD) + 64 ≤ 12 * stackSize ∧ oOk 0x47 reshOp.desc = true ∧ oArg3 reshD = oArg2 reshD + 1
    ∧ engineUp reshS 0 2 = true ∧ nextOp (withOp prog0 2 reshOp) 2 = some reshOp ∧ rsLoc 0 = 0 ∧ reshS.slotRels = [] := by decide +kernel

/-- A row lock and a slot for a waiting operation, a copy-back, a release, and a share. -/
def waitOp : EngOp := { tngOp 0x46 with parked := true }
def slotOp : EngOp := { tngOp 0x46 with noted := true, locked := true, ldesc := tblD 1 }
theorem wit_lock : engineUp (tngS 0x46 1) 0 2 = true ∧ nextOp (withOp prog0 2 waitOp) 2 = some waitOp ∧ opcodeOf waitOp = 0x46
    ∧ rsBusy (tngS 0x46 1) 0 = false ∧ oIdx waitOp.desc + idxBytes waitOp.desc * (waitOp.progress + 1) ≤ spadSize
    ∧ (ofBytes (memBytes (setBytes (tngS 0x46 1) (bitmapCa (tblD 1) 1) [1]) (bitmapCa (tblD 1) 1) 8)).testBit 0 = true
    ∧ slotPool slotOp 0 = 1 ∧ poolCnt (tblD 1) 1 = 64 := by decide +kernel
theorem wit_bitmap : InSpad (bitmapCa (tblD 1) 1) 8 := ⟨0, by decide +kernel⟩
def back0 : CopyBack := { core := 0, ctx := 1, desc := tblD 1, row := 0, pool := 0, slot := 3, epoch := 0, len := 8 }
def rel0 : SlotRel := { core := 0, ctx := 1, desc := tblD 1, row := 0, pool := 0, slot := 3, epoch := 0 }
theorem wit_movers : moverUp (tngS 0x46 1) 0 = true ∧ back0.epoch ≤ epochDone runs ∧ rel0.epoch ≤ epochDone runs
    ∧ rsLoc (place 63 62 1 ||| place 49 24 3) = 1 ∧ rsSlot (place 63 62 1 ||| place 49 24 3) = back0.slot := by decide +kernel
def share0 : Share := { core := 0, stack := 2, bag := 0, desc := tblD 0, fmts := [], cbs := [], rows := [(0, none)], mean := false, answer := none }
theorem wit_share : ((([share0] : List Share).find? fun x => decide (x.stack = (2 : Fin 12).val) && x.answer.isNone) = some share0)
    ∧ dLive share0.desc = false ∧ dRfmt share0.desc ≤ 2 ∧ epochDue { runs with stc := 0xFFFFFFFF } = true := by decide +kernel
theorem wit_lookup : ([({ core := 0, task := 0, desc := 0x80, row := 0, tag := 1, fin := true } : Lookup)][0]?) = some { core := 0, task := 0, desc := 0x80, row := 0, tag := 1, fin := true } := rfl
/-- A retired descriptor with no reader and no mover left is drained (R110). -/
theorem wit_drain : (drainDesc (setBytes (tngS 0x48 0) 0x80 (bytesOfWords ((tblD 0).set 1 (place 63 63 1)))) 0x80).isSome = true := by decide +kernel

/-- R74: 1 + 2^-20 + 2^20 in two orders; a k-range of 33 does not end on a block. -/
def one : Machine.Num := .fin false 1 0
theorem wit_sum : List.Perm [one, .fin false 1 (-20)] [.fin false 1 (-20), one] ∧ 33 % min (blkSz 0) (blkSz 0) ≠ 0 := ⟨List.Perm.swap .., by decide⟩
theorem wit_small_floats : smallFloats ≠ [] ∧ (0x38 : Nat) < 2 ^ (fixedFmts.getD 3 fmtFp32).width ∧ isNanCode (fixedFmts.getD 3 fmtFp32) 0x38 = false := by decide
/-- R67: E4M3 code 0x38 is 1. -/
theorem test_e4m3_one : enc32 .rne (decodeEl fmtE4m3 [] false 0x38) = 0x3F800000 := by decide +kernel

/-! Registers. -/

def accB (s : State) (rq : Requester) (b : Blk) (o : Nat) : Bool :=
  requesterReaches s rq b && windowLives s b && (decide (rq ≠ .pmc) || decide (b = .pwr)) && writePerformed s b o && decide (heldAccs s b = [])
    && !writeGated s b o
theorem acc {s : State} {rq : Requester} {b : Blk} {o : Nat} (h : accB s rq b o = true) : Accepts s rq b o := by
  simp only [accB, Bool.and_eq_true, Bool.or_eq_true, decide_eq_true_eq, Bool.not_eq_true'] at h
  obtain ⟨⟨⟨⟨⟨h1, h2⟩, h3⟩, h4⟩, h5⟩, h6⟩ := h
  exact ⟨h1, h2, fun e => h3.resolve_left fun x => x e, h4, h5, h6⟩
theorem wit_register_write : accB runs .jtag (.dbg) 0x300 = true ∧ locate (rk .dbg 0x300) = some (.dbg, 0x300) ∧ regKey .bar0 0x300300 = some (rk .dbg 0x300)
    ∧ regFields .dbg 0x300 ≠ [] ∧ (0x300 : Nat) ≠ hdrOff .dbg ∧ tripleOfClear .dbg 0x300 = none ∧ mapWf regDefault runs.regs = true
    ∧ (writeGated (setRf runs .gfe 0x0 0 0 1) .gfe 0x2010 || !writeGated runs .gfe 0x2010) = true ∧ isCtxBlk (.ctx 1) = true := by decide +kernel
/-- A block whose enable gates a write; the first and the last write size that is no register access. -/
theorem wit_gated : writeGated (setRf runs .dbg 0x300 63 63 1) .dbg 0x308 = true ∧ accB runs .jtag (.stack 0) 0x70 = true
    ∧ (0 : Nat) ≠ 4 ∧ (0 : Nat) ≠ 8 ∧ (5 : Nat) ≠ 4 ∧ (9 : Nat) ≠ 8 := by decide +kernel
theorem wit_clear : mapWf regDefault runs.regs = true ∧ tripleOfClear .dbg 0x110 = some ([0x100], 0x108) ∧ regFields .dbg 0x110 ≠ []
    ∧ requesterReaches runs .jtag .dbg = true ∧ windowLives runs .dbg = true ∧ writePerformed runs .dbg 0x110 = true ∧ heldAccs runs .dbg = []
    ∧ locate (rk .dbg 0x110) = some (.dbg, 0x110) ∧ locate (rk .dbg 0x110 + 4) = some (.dbg, 0x114)
    ∧ regKey .bar0 0x300110 = some (rk .dbg 0x110) ∧ regKey .bar0 0x300114 = some (rk .dbg 0x110 + 4)
    ∧ fld (1 : Word) 15 0 ≠ rf runs .dbg 0x108 15 0 ∧ fld (0 : Word) 15 0 = rf runs .dbg 0x108 15 0 := by decide +kernel
/-- R45: a clear with the current sequence clears an event, one with another sequence does not. -/
def evented : State := raise runs .dbg 0x100 0
theorem test_clear : rbit (nextOf (exec (.statusClear .jtag .bar0 0x300110 8 1) evented)) .dbg 0x100 0 = false
    ∧ rbit (nextOf (exec (.statusClear .jtag .bar0 0x300110 8 2) evented)) .dbg 0x100 0 = true := by decide +kernel

theorem wit_register_commands : ([(Blk.gfe, 0x2010), (.ctx 1, 0x8440), (.gfe, 0x2200), (.ctx 1, 0x8088), (.ctx 1, 0x8078), (.gfe, 0x110),
      (.gfe, 0x3008), (.gfe, 0x3108), (.cluster 0, 0x608), (.cluster 0, 0x610), (.fmp 0, 0x108), (.dt, 0x150), (.dt, 0x3000), (.dt, 0x31E0),
      (.core 0, 0x70), (.pwr, 0x110), (.dbg, 0x200), (.dbg, 0x300), (.dbg, 0x400), (.dbg, 0x4E0)].all fun x => accB runs .jtag x.1 x.2) = true
    ∧ accB (setPhase runs 3) .jtag .ep 0x20008 = true ∧ accB (setPhase runs 1) .jtag .gfe 0x3108 = true ∧ runs.inv.length < 64
    ∧ fld (place 63 63 1) 11 0 < fenceCount (setWk runs (.ctx 1) 0x8058 (place 63 52 4)) 1 ∧ chanBound runs 0 = false
    ∧ flag (place 63 63 1) 63 = true ∧ fld (place 63 63 1) 62 8 = 0 := by decide +kernel

theorem wit_block : requesterReaches runs .jtag .dt = true ∧ windowLives runs .dt = true ∧ writePerformed runs .dt (hdrOff .dt) = true
    ∧ heldAccs runs .dt = [] ∧ locate (rk .dt (hdrOff .dt)) = some (.dt, hdrOff .dt) ∧ blkEn runs .dt = false ∧ rbit runs .dt (hdrOff .dt + 8) 0 = true
    ∧ flag (writtenWord runs .dt (hdrOff .dt) 1) 0 = true ∧ flag (writtenWord runs .dt (hdrOff .dt) 0) 0 = false
    ∧ blkEn (setRf runs .dt (hdrOff .dt) 0 0 1) .dt = true ∧ rbit (setRf runs .dt (hdrOff .dt + 8) 0 0 0) .dt (hdrOff .dt + 8) 0 = false
    ∧ drained runs .dt = true ∧ mapWf (fun _ => []) runs.held = true := by decide +kernel
theorem wit_key : (([(3, none)] : List (Nat × Option (BitVec 512))).find? fun x => x.1 = (3 : BitVec 10).toNat) = some (3, none) := by decide

/-! Coherence, the host and memory. -/

def txn0 (st : TxStage) : Txn := { core := 0, cluster := 0, line := 0x80, set := 0, host := false, own := false, noData := false, cc := false, key := none,
                                   stage := st, data := List.replicate 64 1, poison := false, shared := false, dirty := false }
theorem wit_lines : (∀ st ∈ [TxStage.ring, .home, .loc, .data], lineHeld { runs with txns := [txn0 st] } (txn0 st) = false)
    ∧ lineNo 0x80 = 0x80 ∧ lineHost 0x80 = false ∧ lineHost (2 ^ 52 + 0x80) = true ∧ lineNo (2 ^ 52 + 0x80) = 0x80 ∧ regionOfCluster 0 = 0
    ∧ findLine (Machine.core runs 0).dcache false 0x80 = none ∧ mapFind? (Machine.core runs 0).dcache (dcVictim [] 0 0) = none
    ∧ lineBusy runs false 0x80 = false := by decide +kernel
/-- R248: the fill leaves the line in E where no other copy stands. -/
theorem test_fill_state : ((Machine.core (nextOf (exec (.lineFillDone 0 0x80) { runs with txns := [txn0 .data] })) 0).dcache.map fun e => e.2.st) = [.e] := by
  decide +kernel

def buf0 (nc : Bool) (a : Nat) : BufStore := { tgt := { host := false, io := false, addr := a, cc := false, key := none }, named := a, nc := nc, data := [7] }
def buffered (b : BufStore) (dc : SMap CLine) : State := { runs with cores := [(0, { noCore with sbuf := [b], dcache := dc })] }
theorem wit_drains : drainable [buf0 false 0x2000, buf0 true 0x3000] 1 = some (buf0 true 0x3000)
    ∧ ownCopy (buffered (buf0 false 0x2000) [(0, line0)]) 0 (buf0 false 0x2000).tgt = some (0, line0) ∧ hasOwn line0 = true
    ∧ ownCopy (buffered (buf0 false 0x2000) []) 0 (buf0 false 0x2000).tgt = none
    ∧ uncached { whoCore (buffered (buf0 true (spadBase 0)) []) 0 with jig := false } (lineOf (buf0 true (spadBase 0)).tgt) = true := by decide +kernel

/-- The complex in RUN with its host link up. -/
def hostState : State := { runs with ep := { runs.ep with linkUp := true } }
theorem wit_hdm_h (bi : Bool) :
    hdmDpa { runs with ep := { runs.ep with linkUp := true, decoders := [(0, ⟨true, 0x10000000, 0x10000000, 0, bi, false⟩)] } } 0x10000040 = some (0x40, bi) := by cases bi <;> decide +kernel
theorem wit_host_mem : stopped hostState = false ∧ memServes hostState = true ∧ hdmDpa hostState 0 = none ∧ lineBusy hostState false 1 = false
    ∧ (snoopAll hostState false 1 false).2 = snoopNone
    ∧ (snoopAll (held 0) false 0x80 false).2 = { snoopNone with data := some (line0.data, false, none, false), dirty := true, found := true }
    ∧ (([{ line := 0x40, inv := true, answered := false, spent := false }] : List BiSnp).find? fun x => decide (x.line = 0x40) && !x.answered)
        = some { line := 0x40, inv := true, answered := false, spent := false } := by decide +kernel
def hreq (kind : Nat) : HostReq := { line := 5, kind, core := 0, off := 0, data := [], poison := false }
theorem wit_snoops : snpServes hostState 5 = true ∧ devLine hostState 5 = none
    ∧ devLine { hostState with devc := [(0x50, { line0 with line := 5, host := true })] } 5 = some (0x50, { line0 with line := 5, host := true })
    ∧ (([hreq 0] : List HostReq).find? fun x => x.line = 5 * 64 / 64) = some (hreq 0) ∧ grantFits 0 .s = true ∧ grantFits 1 .m = true
    ∧ (([hreq 7] : List HostReq).find? fun x => x.line = 5 && (x.kind = 0 || x.kind = 1 || x.kind = 2 || x.kind = 7)) = some (hreq 7)
    ∧ ctoDisable hostState = false ∧ (allHolders (flushWb hostState true 5)) = [] := by decide +kernel

/-- Memory space on; aperture window 0 maps 64 KiB of stack memory. -/
def barState : State := setRf (setRf (setCfg hostState 0x04 2) .ep 0x1000 63 63 1) .ep 0x1008 32 16 1
theorem wit_aperture : stopped barState = false ∧ apServes barState = true ∧ (apMap barState 0 4).isSome = true ∧ (apMap barState 0xFFFD 4) = none
    ∧ (apMap barState 0xFFFC 4).isSome = true ∧ Memory.wf barState.mem = true := by decide +kernel
theorem test_aperture : memBytes (nextOf (exec (.bar4Write 0x10 [1, 2, 3] false) barState)) 0x10 3 = [1, 2, 3] := by decide +kernel
theorem wit_maintenance : coreEnabled runs 5 = true ∧ running runs = true ∧ running State.reset = false
    ∧ (Machine.core { runs with cores := [(5, noCore)] } 5).power ≠ .c3 ∧ 0 < spadSize / 8
    ∧ mapWf (fun _ => 0) runs.power.refreshRow = true := by decide +kernel

/-! Translation, tasks and the front end. -/

def ent0 : RangeEnt := { ctx := 1, start := 2 ^ 51, len := 4096, rend := 2 ^ 64, host := true, io := false, target := 0, r := true, w := true, x := false,
                         a := false, cc := false, enc := false, key := 0 }
def trkOf (st : TrkStage) : Trk := { ctx := 1, page := 2 ^ 39, stage := st, ent := some ent0, gst := 0, gsize := 65536, waiters := [] }
def trkState (st : TrkStage) : State := { runs with clusters := [(0, { clusterInit with trk := [trkOf st] })] }
def pageReq : PageReq := { ctx := 1, page := 7, clusters := [0], write := false, sentWrite := false, prg := some 3, ats := false, tries := 0 }
theorem wit_translation : (cluster (trkState .walk) 0).trk[0]? = some (trkOf .walk) ∧ (trkState .ats).faults = []
    ∧ mapFind? (trkState .ats).atsCpl 1 = none ∧ mapFind? (atsFinish (trkState .ats) 0 (trkOf .ats) .failed).atsCpl 1 = none
    ∧ (atsFinish (trkState .ats) 0 (trkOf .ats) .failed).faults = []
    ∧ mapFind? ({ runs with atsCpl := [(1, { ent0 with rend := 0, start := 4096 })] }).atsCpl 1 = some { ent0 with rend := 0, start := 4096 }
    ∧ (([pageReq] : List PageReq).find? fun x => x.prg = some 3) = some pageReq
    ∧ atsEn (setCfg runs 0x1E4 (1 <<< 31)) = true ∧ pasidEn (setCfg runs 0x1F4 (1 <<< 16)) = true
    ∧ (1, 7) ∉ (trkState .ats).atsStale ∧ oldAccessesDone { runs with inv := [1] } = true ∧ runs.clusters = [] ∧ runs.migs = [] ∧ runs.faults = []
    ∧ running { invalidate runs (atsInvMatch runs none) with atsInv := runs.atsInv ++ [none] } = true
    ∧ oldAccessesDone { invalidate runs (atsInvMatch runs none) with atsInv := runs.atsInv ++ [none] } = true
    ∧ oldAccessesDone { invalidate { runs with hreqs := [hreq 2] } (atsInvMatch runs none) with atsInv := [none] } = false
    ∧ mapWf (fun _ => clusterInit) runs.clusters = true := by decide +kernel

def g0 : Gctx := { gctxInit with enabled := true, prod := 1 }
def gS (g : Gctx) : State := setWk (setWk { runs with gctx := [(1, g)] } (.ctx 1) 0x8058 (place 63 52 4)) (.ctx 1) 0x8048 (place 63 59 6)
def cmdW (code : Nat) (w1 : Word) : List Word := [place 63 56 code ||| (if code = 2 ∨ code = 3 then place 55 44 (if code = 2 then 1 else 0) else 0), w1, if code = 4 then 1 else 0, 0, 0, 0, 0, 0]
/-- Context 1 has read `w` from its ring slot; context 2 is ready too, and its turn comes first in `gT`. -/
def gW (w : List Word) : State := gS { g0 with slot := some (w, false) }
def gT (w : List Word) : State := setWk { gW w with gctx := [(1, { g0 with slot := some (w, false) }), (2, { g0 with slot := some (w, false) })], turn := 2 } (.ctx 2) 0x8048 (place 63 59 6)
theorem wit_commands : (∀ code ∈ [0, 1, 2, 3, 4, 5], (ctxReady (gW (cmdW code 1)) 1 && decide ((cmdW code 1).length = 8) && (gctx (gW (cmdW code 1)) 1).slot.isSome
      && myTurn (gW (cmdW code 1)) 1 && decide (cmdLines (gW (cmdW code 1)) 1 (cmdW code 1) = []) && decide (nextIs (gW (cmdW code 1)) 1 (cmdW code 1) = .yes)
      && decide (cmdCode (cmdW code 1) = code)) = true)
    ∧ fromRing (gS g0) 1 = true ∧ (gctx (gS g0) 1).slot = none ∧ ctxReady (gS g0) 1 = true
    ∧ ctxReady (gT (cmdW 0 0)) 1 = true ∧ myTurn (gT (cmdW 0 0)) 1 = false
    ∧ nextIs (gS { g0 with slot := some (cmdW 0 0, true) }) 1 (cmdW 0 0) = .bad := by decide +kernel
theorem wit_command_clauses : waitOk (gW (cmdW 2 1)) (cmdW 2 1) = true ∧ (gctx (gW (cmdW 2 1)) 1).enabled = true
    ∧ (0 : Word).toNat ≤ (fenceValue (gW (cmdW 2 0)) 1 0).toNat ∧ (fenceValue (gW (cmdW 2 1)) 1 0).toNat < (1 : Word).toNat
    ∧ (gctx (gW (cmdW 2 1)) 1).waitOn = none ∧ signalOk (gW (cmdW 3 1)) 1 (cmdW 3 1) = true
    ∧ (gctx (gS { g0 with waitOn := some (1, 0), front := some (cmdW 2 1) }) 1).waitOn.isSome = true
    ∧ nextIs (gS { g0 with waitOn := some (1, 0), front := some (cmdW 2 1) }) 1 (cmdW 2 1) = .yes
    ∧ flag (wordAt (cmdW 3 1) 0) 55 = false
    ∧ signalOk (gS g0) 1 ((cmdW 3 1).set 0 (place 63 56 3 ||| place 55 55 1)) = true ∧ callOk (gW (cmdW 4 0x1000)) 1 (cmdW 4 0x1000) = true := by decide +kernel
theorem test_nop_retires : rf (nextOf (exec (.cmdNop 1 (cmdW 0 0)) (gW (cmdW 0 0)))) (.ctx 1) 0 31 0 = 1 := by decide +kernel
/-- R324: the slot is read before the command is taken up. -/
theorem test_slot_read : ((nextOf (exec (.cmdNop 1 (cmdW 0 0)) (gS g0))).hreqs.map fun h => (h.core, h.kind)) = [(386, 2)] := by decide +kernel
def cap0 : Waiting := { words := [place 49 45 1, 0, 0, 0, 0, 0, 0, 0], caps := [], capWords := [] }
def task1 : Task := { ctxTask [] with started := [], args := [[11, 12]], lines := [] }
def taskS (cs : SMap Core) (t : Task) : State := { runs with cores := cs, tasks := [t] }
theorem wit_task_start : taskOf (taskS [(0, noCore)] task1) 0 = some task1 ∧ placedAt task1 0 = true ∧ task1.started.contains 0 = false
    ∧ prog? (taskS [(0, noCore)] task1) 0 = none ∧ (Machine.core (taskS [(0, noCore)] task1) 0).power = .c0
    ∧ coreStale (taskS [(0, noCore)] task1) 0 = false ∧ (Machine.core (taskS [] task1) 0).power ≠ .c0 ∧ (taskS [] task1).raised = [] := by decide +kernel
theorem wit_task_start_quiet : NoInjection (taskS [(0, noCore)] task1) (bCluster (clusterOf 0)) := by unfold NoInjection; decide +kernel
theorem wit_place : (gctx (gS { g0 with capd := some cap0 }) 1).capd = some cap0 ∧ (liveTasks (gS g0)).length < 8192
    ∧ tNlines cap0.words ≤ (freeLines (gS g0)).length ∧ ctxReady (gS { g0 with capd := some cap0 }) 1 = true := by decide +kernel
/-- R333: the arguments stand in R1 and R2. -/
theorem test_task_args : (prog? (nextOf (exec (.taskCoreStart 0 0) (taskS [(0, noCore)] task1))) 0).map (fun p => (sreg p 1, sreg p 2, sreg p 3))
    = some (11, 12, 0) := by decide +kernel
def progY : Prog := { prog0 with yielding := true }
def task2 : Task := { task1 with id := 1, started := [0], saved := [(0, (0, prog0))] }
def swS : State := setWk { runs with cores := [(0, { noCore with prog := some progY })], tasks := [{ ctxTask [] with id := 0 }, { task1 with id := 2 }] } (.ctx 1) 0x8110 (place 63 56 2)
theorem wit_switch : prog? swS 0 = some progY ∧ enginesQuiet swS 0 progY = true ∧ otherReady swS 0 progY.task = true ∧ freeSlot swS progY.ctx = some 0
    ∧ freeSlot runs 1 = none ∧ mapFind? task2.saved 0 = some (0, prog0) ∧ placedAt task2 0 = true
    ∧ canResume (taskS [(0, noCore)] task2) task2 0 = true ∧ clusterStale (taskS [(0, noCore)] task2) 0 = false
    ∧ (readSlot (taskS [(0, noCore)] task2) prog0 0).1.2 = false ∧ taskOf (taskS [(0, noCore)] task2) 1 = some task2 := by decide +kernel

/-- R314: s1 comes back as the slot holds it. -/
theorem test_slot_restores : sreg (restoreProg prog0 [(0x40, toBytes 8 0 ++ toBytes 8 7 ++ List.replicate 48 0)] 0) 1 = 7 := by decide +kernel
/-- R365, R367: a poisoned aperture write is logged as an advisory error. -/
theorem test_poisoned_tlp : cfgRead (poisonedTlp runs) 0x110 = 0x2000 ∧ (cfgWord (poisonedTlp runs) 0x04).getLsbD 31 = true := by decide +kernel

def after0 : AfterSig := { fence := 0, add := 1, tasks := [] }
def gDone : Task := { ctxTask [] with finished := true }
theorem wit_context_events : ringOk (gS g0) 1 = true ∧ (gctx (gS g0) 1).watch = false ∧ (gS g0).hreqs = []
    ∧ taskOf { gS g0 with tasks := [gDone] } 0 = some gDone ∧ taskWritesDone { gS g0 with tasks := [gDone] } gDone = true ∧ gDone.issuedRec = none
    ∧ afterReady (gS g0) after0 = true ∧ chanOf (gS g0) 1 = none ∧ chanOf (fenceAdd (setGctx (gS { g0 with after := [after0] }) 1 g0) 1 0 1) 1 = none
    ∧ ctxAborting (setRf (gS g0) (.ctx 1) 0x10 61 61 1) 1 = true ∧ abortDone (gS g0) 1 = true ∧ feeder (gS g0) 1 = none
    ∧ rf (setRf (gS g0) (.ctx 1) 0x8070 31 0 1) (.ctx 1) 0x8070 31 0 = 1 ∧ undoneWork (gS { g0 with waitOn := some (1, 0) }) 1 = true
    ∧ stallCause (gS { g0 with waitOn := some (1, 0) }) 1 = (1, 1, 0) ∧ (gctx (gS g0) 1).stalled = false
    ∧ 1000 * 1 ≤ (({ gS g0 with stc := 1000 }).stc - g0.lastProgress).toNat := by decide +kernel

/-! The endpoint, resets, bring-up. -/

/-- The stop of an outcome. -/
def stopOf (o : Out) : Option (Machine.Fault ⊕ Machine.Refusal) := match o with
  | .next _ => none
  | .fault f => some (.inl f)
  | .refused r => some (.inr r)


def cfgS : State := { hostState with ep := { hostState.ep with cfgReady := true } }
/-- Offsets where the clauses meet: 0x3FC is the last that the manual describes, 0x400 the first of the I/O die. -/
theorem wit_config : cfgUp cfgS = true ∧ (4 = 1 ∨ 4 = 2 ∨ (4 : Nat) = 4) ∧ 0x3FC % 4 = 0 ∧ (0x3FC : Nat) < 0x400 ∧ (0x400 : Nat) ≤ 0x400 ∧ (0x3FF : Nat) < 0x400
    ∧ mapWf cfgDefault cfgS.ep.cfg = true ∧ (0x98 : Nat) ∉ [0x04, 0x44, 0x50, 0x60, 0x78, 0x204] := by decide +kernel
theorem test_io_die : stopOf (exec (.configurationWrite 0x400 4 0) cfgS) = some (.inr .ioDieConfiguration) := by decide +kernel
theorem wit_rom : claims (setCfg cfgS 0x04 2) = true ∧ cfgBit (setCfg (setCfg cfgS 0x04 2) 0x30 1) 0x30 0 = true ∧ claims cfgS = false
    ∧ 0x1000000 - 1 + 1 ≤ 0x1000000 ∧ 0x1000000 < 0x1000000 + 1 := by decide +kernel
theorem wit_spdm : cfgUp { cfgS with ep := { cfgS.ep with spdm := 3 } } = true ∧ 1 ≤ (3 : Nat) ∧ 2 ≤ (3 : Nat) ∧ cfgS.ep.spdm < 3
    ∧ 1 ≤ (1 : BitVec 8).toNat ∧ (3 : BitVec 8).toNat ≤ 3 ∧ (cdatHeader :: cdatBody)[0]?.isSome = true := by decide +kernel
/-- R356: discovery of index 0 names itself and the next index. -/
theorem test_doe : (nextOf (exec (.doeDiscovery 0) cfgS)).out = (doeSend cfgS 1 0 [1, 0, 0, 1]).out := by decide +kernel
theorem wit_resets : rf runs .dbg 0x200 59 58 = 0 ∧ mapWf regDefault runs.regs = true ∧ phase runs ≠ 3 ∧ rbit runs .ep 0x20000 3 = false
    ∧ rbit (setRf (setRf runs .ep 0x20000 3 3 1) .ep 0x20018 51 12 9) .ep 0x20000 3 = true
    ∧ rf (setRf (setRf runs .ep 0x20000 3 3 1) .ep 0x20018 51 12 9) .ep 0x20018 51 12 ≠ 0 ∧ phase (setRf (setRf runs .ep 0x20000 3 3 1) .ep 0x20018 51 12 9) = 2
    ∧ intaLevel hostState = false ∧ phase (setPhase runs 3) = 3 := by decide +kernel
/-- R369: a warm reset by pin leaves PHASE INIT and cause 2. -/
theorem test_warm : phase (nextOf (exec (.warmReset .pin) up)) = 0 ∧ rf (nextOf (exec (.warmReset .pin) up)) .gfe 0x3000 3 0 = 2 := by decide +kernel
theorem wit_bringup : phase State.reset = 0 ∧ State.reset.power.plls = false ∧ State.reset.ep.cfgReady = false
    ∧ phase (setPhase State.reset 1) = 1 ∧ rbit (setPhase State.reset 1) .gfe 0x3110 8 = false
    ∧ rbit (setRf State.reset .gfe 0x3110 8 8 1) .gfe 0x3110 8 = true := by decide +kernel

/-! Power and debug. -/

def c3Wait : Core := { coreInit with power := .c3, waking := true }
def engReqd : Core := { noCore with engReq := 1, engOn := 0 }
def coreS (x : Core) : State := { runs with cores := [(0, x)], cclk := 2400, stc := 10000000 }
theorem wit_wake : mapGet (fun _ => []) ({ runs.power with wakeq := [(0, [5])] } : Power).wakeq 0 = [5]
    ∧ (recentGrants runs 0).length < tokenRate runs 0 ∧ (Machine.core (coreS c3Wait) 0).waking = true
    ∧ 2400 ≤ ((coreS c3Wait).cclk - (Machine.core (coreS c3Wait) 0).wakeAt).toNat ∧ running (coreS c3Wait) = true
    ∧ (Machine.core (coreS c3Wait) 0).power = .c3 ∧ rbit (coreS c3Wait) (bCore 0) 0x600 17 = false
    ∧ (Machine.core (coreS { c3Wait with power := .c2 }) 0).power = .c2 ∧ (Machine.core (coreS engReqd) 0).engReq.getLsbD 0 = true
    ∧ (Machine.core (coreS engReqd) 0).power = .c0 := by decide +kernel
def autoS (x : Core) : State := setReg (coreS x) .pwr 0x118 (place 31 16 1 ||| place 47 32 1 ||| place 63 48 1 ||| 1)
theorem wit_idle_power : autoOn (autoS noCore) = true ∧ rf (autoS noCore) .pwr 0x118 31 16 = 1 ∧ rf (autoS noCore) .pwr 0x118 63 48 = 1
    ∧ rf (autoS noCore) .pwr 0x118 47 32 = 1 ∧ noCore.engOn.getLsbD 0 = true ∧ queueEmpty (autoS noCore) 0 0 = true ∧ injigAt (autoS noCore) 0 = false
    ∧ 1 ≤ ((autoS noCore).cclk - mapGet (fun _ => 0) noCore.engAt 0).toNat ∧ 1000 * 1 ≤ ((autoS noCore).stc - noCore.idleAt).toNat
    ∧ nonePlaced (autoS noCore) 0 = true ∧ 1000000 * 1 ≤ ((autoS noCore).stc - noCore.freeAt).toNat := by decide +kernel
theorem wit_supply : ({ runs with power := { runs.power with computeOn := true } } : State).power.computeOn = true ∧ 680 ≤ (680 : BitVec 16).toNat ∧ rbit runs .pwr 0x108 0 = false ∧ rbit (setRf runs .pwr 0x108 0 0 1) .pwr 0x108 0 = true
    ∧ 5000 ≤ ((coreS noCore).stc - 0).toNat ∧ hourNs ≤ (({ runs with stc := BitVec.ofNat 64 hourNs }).stc - runs.power.hourAt).toNat := by decide +kernel
/-- Temperatures at the clauses' ends: the pause threshold and the one above it, 120 and 121. -/
theorem wit_thermal : tpause (noteTemp runs 0 (some 105)) < 120 ∧ 105 ≤ tpause runs ∧ tpause runs < (106 : BitVec 8).toNat
    ∧ ¬ 120 < (120 : BitVec 8).toNat ∧ 120 < (121 : BitVec 8).toNat ∧ (Machine.cluster (noteTemp runs 0 (some 120)) 0).excursion = false
    ∧ (Machine.cluster { runs with clusters := [(0, { clusterInit with excursion := true })] } 0).excursion = true := by decide +kernel

def fifoS : State := setReg { runs with fifos := [(48, { recs := [[1, 2, 3, 4]], drops := 0, first := 0, last := 0 })] } .dbg 0x300 (place 63 63 1)
theorem wit_trace : (Machine.fifo fifoS 48).recs = [[1, 2, 3, 4]] ∧ traceSlot fifoS + 32 ≤ 12 * stackSize ∧ 10 ≤ traceLog2 (setWk fifoS .dbg 0x308 (place 51 12 1 ||| place 63 59 10)) := by
  decide +kernel
def qS (st : Nat) : State := setRf runs .dbg 0x200 59 58 st
theorem wit_quench : rbit (setRf runs .dbg 0x200 61 61 1) .dbg 0x200 61 = true ∧ rbit (setRf runs .dbg 0x200 60 60 1) .dbg 0x200 60 = true
    ∧ (reg runs .dbg 0x208).toNat ≤ runs.stc.toNat ∧ rf (qS 1) .dbg 0x200 59 58 ≠ 0 ∧ rf runs .dbg 0x200 59 58 = 0 ∧ qState (qS 1) = 1
    ∧ 160 ≤ (160 : BitVec 16).toNat ∧ (473 : BitVec 16).toNat ≤ 473 ∧ qState (qS 3) = 3 ∧ claims (setCfg hostState 0x04 2) = true
    ∧ 0xFFC0 + 64 ≤ 0x10000 := by decide +kernel
theorem wit_jtag : fld ((0 : Word)) 63 56 ≠ 0xFF ∧ fld (place 63 56 0xFF) 63 56 = 0xFF ∧ locate (dbgOff 0) = some (.gfe, 0) ∧ heldAccs runs .gfe = [] := by
  decide +kernel

/-! Far memory, Dovetail, faults. -/

def slotS (st : Nat) (link : Nat) : State := setRf (setRf (setSlotState runs 0 st) (.fmp 0) 0x110 2 2 link) (.fmp 0) 0 0 0 1
theorem wit_slots : slotPresent runs 0 = false ∧ slotState (slotS 2 0) 0 = 2 ∧ slotState (slotS 3 0) 0 = 3 ∧ slotLinkUp (slotS 3 0) 0 = false
    ∧ slotState (slotS 4 1) 0 = 4 ∧ blkEn (slotS 4 1) (.fmp 0) = true ∧ slotState (slotS 6 1) 0 = 6 ∧ portBusy (slotS 6 1) 0 = false
    ∧ slotPresent (setRf runs (.fmp 0) 0x110 0 0 1) 0 = true ∧ slotLinkUp (slotS 4 1) 0 = true ∧ 2 ≤ slotState (slotS 2 0) 0 := by decide +kernel

/-- Dovetail on, package 1; peer 5 is alive or has died. -/
def dtS (alive : Nat) : State :=
  setRf (setWk (setRf runs .dt (hdrOff .dt) 0 0 1) .dt (0x1000 + 8 * 5) 1) .dt 0x200 5 5 alive
def dead5 : State := { dtS 0 with peers := [(5, { lastBeat := 0, inc := 1, known := true })] }
def reqOfKind (k : DtKind) : DtReq := { tag := 9, peer := 5, core := 0, task := 0, eng := 2, kind := k }
theorem wit_peers : dtOn (dtS 1) = true ∧ peerDeadNow (dtS 1) 5 = false ∧ peerDeadNow dead5 5 = true ∧ dtOn dead5 = true ∧ (peer dead5 5).inc = 1 ∧ (peer dead5 5).inc ≠ 2
    ∧ winCheck (dtS 1) 5 0 4 false = none ∧ winCheck (dtS 1) 5 0 4 true = none ∧ 1 ≤ (1 : Nat) ∧ (256 : Nat) ≤ 256
    ∧ aliveBit (dtS 1) 5 = true ∧ 50000 ≤ (({ dtS 1 with stc := 50000 }).stc - (peer (dtS 1) 5).lastBeat).toNat := by decide +kernel
theorem wit_replies : ∀ k ∈ [DtKind.pld 4 8, .pcopyRead 0 0 4, .pst, .pcopyWrite 0, .update, .lookup 0 [0], .plookup 0 [(0, none)]],
    reqOf { dtS 1 with dtOut := [reqOfKind k] } 9 = some (reqOfKind k) := by decide +kernel
def managerS : State := setWk (dtS 1) .dt 0x100 (place 8 8 1 ||| place 9 9 1)
theorem wit_beacons : isManager managerS = true ∧ dtOn managerS = true ∧ flag (wk managerS .dt 0x100) 9 = true ∧ isManager (dtS 1) = false
    ∧ mapWf regDefault (dtS 1).regs = true ∧ (dtS 1).beaconHeard = false ∧ anyCtxEnabled (dtS 1) = false
    ∧ rbit (dtS 1) .dt 0x140 62 = false ∧ 50000 ≤ (({ dtS 1 with stc := 50000 }).stc - (dtS 1).lastBeacon).toNat
    ∧ rbit (setRf (dtS 1) .dt 0x400 0 0 1) .dt 0x400 0 = true ∧ rbit (setRf (dtS 1) .dt 0x400 0 0 1) .dt 0x400 1 ≠ true := by decide +kernel
theorem test_second_manager : stopOf (exec (.dtBeaconReceived 5 0) managerS) = some (.inl .secondManager) := by decide +kernel

def faulted0 : EngFault := { eng := 0, opcode := 1, ecode := 6, sub := 7, eaddr := 0, detail := 0 }
theorem wit_faults : slotLinkUp (slotS 4 1) 0 = true ∧ rbit (setRf runs .dt 0x400 1 1 1) .dt 0x400 1 = true
    ∧ condHolds (setCond runs .gfe 3 true) .gfe 3 = true
    ∧ rbit runs .gfe 0x40 3 = false ∧ isCondSource .gfe 3 = true ∧ prog? (withProg { prog0 with pend := [faulted0] }) 0 = some { prog0 with pend := [faulted0] }
    ∧ (([(5, 1)] : List (Nat × Nat)).find? fun x => decide (x.2 ≤ ([0] : List Nat).length)) = some (5, 1)
    ∧ prog? (inJig 0) 0 = some progJ := by decide +kernel
def slip0 : Slip := { cause := 1, start := 0, stop := 6 }
def progSlip : Prog := { progJ with jig := some { jig0 with slip := some slip0 } }
theorem wit_slip : prog? (applySlips (withProg progSlip) 0 []) 0 = some progSlip ∧ (progSlip.jig.bind Jig.slip) = some slip0 := by
  decide +kernel
theorem wit_mem : Memory.wf State.reset.mem = true := by decide
/-- R359: an unmasked source drives INTA where MSI is off. -/
theorem test_interrupt : (nextOf (exec .linkRetrain (setRf (raise runs .gfe 0x3120 0) .gfe 0x108 9 0 0))).ep.inta = true
    ∧ (nextOf (exec .linkRetrain (raise runs .gfe 0x3120 0))).ep.inta = false := by decide +kernel
theorem test_reset_fields : blkEn State.reset .gfe = false ∧ rf State.reset .gfe 0x108 9 0 = 0x3FF := by decide +kernel

/-! The clauses beyond the plain case. -/

/-- A readout of bank 1 that has run, behind an MMA of bank 0 that has not, and a signal for the task at core 0. -/
def readOp : EngOp := { opAt prog0 [place 63 56 2 ||| place 44 44 1, 0, 0, place 15 8 1 ||| place 7 0 1] with ord := 1, ran := true }
def progO : Prog := { prog0 with queues := [(0, [mmaOp, readOp])] }
theorem wit_complete : overtaking (queue progO 0) 0 = some readOp ∧ engineUp (withProg progO) 0 0 = true ∧ prog? (withProg progO) 0 = some progO
    ∧ readOp.tags = [] ∧ notifyReady up 0 4 (xfrOp 0x80) = true ∧ engineUp (withProg (progQ 0 readOp)) 0 0 = true := by decide +kernel
theorem wit_signal : signalTask (tabled prog0 []) 1 0 = some (ctxTask []) ∧ coreEnabled (tabled prog0 []) 0 = true
    ∧ coreFenced (tabled prog0 []) 0 = false := by decide +kernel

/-- A PCOPY of 8 bytes from peer 5, fresh and with its reply. -/
def fromD : List Word := [place 63 56 0x82 ||| place 38 31 5, 0, place 51 0 (spadBase 0), place 63 32 8]
def fromOp : EngOp := opAt prog0 fromD
def gotOp : EngOp := { fromOp with noted := true, rows := [(2, some (List.replicate 8 7)), (3, some (List.replicate 8 0))] }
theorem wit_pcopy_from : (∀ o ∈ [fromOp, gotOp], readyB prog0 [] 4 0x82 o = true ∧ xfrOk 0 0x82 o.desc = true ∧ o.sent = false)
    ∧ xPside fromOp.desc = false ∧ xRows fromOp.desc = 1 ∧ xDstCa fromOp.desc 0 = spadBase 0
    ∧ (joinPieces gotOp (dtPieces (xSrcCa gotOp.desc 0) (xLen gotOp.desc))).bytes.length = xLen gotOp.desc
    ∧ peerAlive (tabled (withOp prog0 4 fromOp) []) (xPkg fromOp.desc) = false := by decide +kernel

/-- Places of the LIVE tables' rows, words, slots and journal that do not meet. -/
def dstD : List Word := ((tblD 1).set 4 (place 51 0 (spadBase 0 + 0x5000))).set 6 (place 51 0 (spadBase 0 + 0x6000))
theorem wit_apart : Apart (slotCa (tblD 1) 0 3) (dStride (tblD 1)) (spadBase 0 + oList (lockedOp 0x44).desc) 24
    ∧ Apart (slotCa (tblD 1) 1 3) (dStride (tblD 1)) (rowStateCa (tblD 1) 0) 8 ∧ Apart (homeCa dstD 0) (dStride dstD) (rowStateCa dstD 0) 8
    ∧ Apart (homeCa dstD 0) (dStride dstD) (rowStateCa (tblD 1) 0) 8 ∧ Apart (rowStateCa dstD 0) 8 (rowStateCa (tblD 1) 0) 8
    ∧ Apart (spadBase 0 + 0x7000) 64 (homeCa dstD 0) (dStride dstD) ∧ Apart (spadBase 0 + 0x7000) 64 (rowStateCa dstD 0) 8
    ∧ Apart (spadBase 0 + 0x7000) 64 (rowStateCa (tblD 1) 0) 8 := by unfold Apart; decide +kernel
theorem wit_same_rows : sameRows (tblD 1) dstD = true ∧ rowLen (tblD 1) (rowFmt reshOp (tblD 1)) ≤ dStride dstD
    ∧ payloadLen (tblD 1) (rowFmt (lockedOp 0x44) (tblD 1)) ≤ dStride (tblD 1) := by decide +kernel

/-- A debug register that holds no command, and held accesses. -/
theorem wit_plain_register : accB runs .jtag .dbg 0x218 = true ∧ locate (rk .dbg 0x218) = some (.dbg, 0x218)
    ∧ locate (rk .dbg 0x218 + 4) = some (.dbg, 0x218 + 4) ∧ regKey .bar0 0x30021C = some (rk .dbg 0x218 + 4) ∧ regFields .dbg 0x218 ≠ []
    ∧ tripleOfClear .dbg 0x218 = none ∧ plainRegister .dbg 0x218 = true := by decide +kernel
def acc0 : HeldAcc := { rq := .jtag, key := rk .dt 0, size := 8, val := 1 }
theorem wit_held_accesses : heldAccs (setHeldAccs runs .dt [acc0]) .dt = [acc0] ∧ rbit (setHeldAccs runs .dt [acc0]) .dt (hdrOff .dt + 8) 0 = true
    ∧ mapWf (fun _ => 0) runs.work = true ∧ regFields .dt 0x100 ≠ [] ∧ writePerformed runs .dt 0x100 = true
    ∧ (regFields .dbg 0x308).any (fun f => f.ty = .rwd) = true ∧ drained (setRf runs .dt 8 0 0 0) .dt = true := by decide +kernel

theorem wit_line_rooms : dirRoom runs 0 false 0x80 = true ∧ filterRoom runs 0x80 = true ∧ (Machine.core { runs with txns := [txn0 .data] } 0).wb = none := by
  decide +kernel
/-- A store to a host line whose ownership request failed. -/
def hostTgt : Target := { host := true, io := false, addr := 0x140, cc := false, key := none }
def failedS : State :=
  { runs with cores := [(0, { noCore with sbuf := [{ tgt := hostTgt, named := 0x140, nc := false, data := [7] }], ncLine := some { line0 with line := 5, host := true, poison := true } })] }
theorem wit_failed_fill : failedFill failedS 0 hostTgt = some { line0 with line := 5, host := true, poison := true } ∧ ownCopy failedS 0 hostTgt = none
    ∧ drainable (Machine.core failedS 0).sbuf 0 = some { tgt := hostTgt, named := 0x140, nc := false, data := [7] } := by decide +kernel
theorem wit_waiting_snoop : snpServes { hostState with hreqs := [hreq 0] } 5 = false ∧ hostState.ep.linkUp = true ∧ devRoom hostState 5 = true := by
  decide +kernel

/-- A granule of one line: its move begins, its only line is at hand, and it is done. -/
def mig0 : Mig := { ctx := 1, cl := 0, ent := ent0, gst := spadBase 0 + 0x100, gsize := 64, unit := some 0x40000, pos := 0, xl := none, wait := .none }
def migS (m : Mig) : State := { runs with migs := [m] }
theorem wit_granule : (∀ m ∈ [mig0, { mig0 with xl := some 0x10000 }, { mig0 with pos := 1 }],
      (((migS m).migs.find? fun m => decide (m.ctx = 1) && decide (m.ent.start ≤ 2 ^ 39 * 4096) && decide (2 ^ 39 * 4096 < m.ent.start + m.ent.len)) = some m
        ∧ gfeReady (migS m) (canon m.gst) 8 = true))
    ∧ (match (migChunk { mig0 with xl := some 0x10000 } 0x40000 0x10000).run { migS { mig0 with xl := some 0x10000 } with
          devc := [(0, { line0 with line := 0x400, host := true })] } with
        | .ok _ t => (t.migs.find? fun x => decide (x.ctx = 1) && decide (x.gst = mig0.gst)).map fun n => n.pos
        | _ => none) = some 1 := by decide +kernel
theorem wit_ats : ((cluster (trkState .ats) 0).trk.filter fun x => decide (x.ctx = 1) && decide (x.stage = .ats)
      && decide (hostPageOf x = hostPageOf (trkOf .ats))) = [trkOf .ats] ∧ mapWf (fun _ => clusterInit) (trkState .ats).clusters = true
    ∧ (atsFinish (trkState .ats) 0 (trkOf .ats) .failed).migs = []
    ∧ (([{ pageReq with prg := none, ats := true }] : List PageReq).filter fun f => decide (f.ctx = 1) && decide (f.page = 7) && f.ats)
        = [{ pageReq with prg := none, ats := true }] := by decide +kernel
theorem wit_flush : flushSent { runs with ep := { runs.ep with flushWait := [{ task := some 0, cores := [] }] } } = true ∧ arming (gS g0) 1 = false := by
  decide +kernel
def edge0 (half moved : Bool) : QuenchEdge := { edge := 0, half, moved }
theorem wit_quench_stop : ({ qS 1 with qedge := some (edge0 false false) } : State).cclk = (edge0 false false).edge ∧ (236 : BitVec 16).toNat ≤ 236
    ∧ 320 ≤ (320 : BitVec 16).toNat ∧ (edge0 true false).half = true ∧ (edge0 false true).moved = true := by decide +kernel
/-- A partial whose reserved bits are not 0 is malformed (R75). -/
theorem wit_malformed : (([BitVec.ofNat 256 (2 ^ 229)] : List (BitVec 256)).filterMap fun e => accOfBytes (toBytes 32 e.toNat)) = [] := by decide +kernel
theorem wit_jtag_port : portHeld runs 0 = false ∧ portHeld runs (dbgOff 0) = false := by decide +kernel

/-! Further clauses. -/

theorem wit_finished : opFinished (withProg progO) 0 0 readOp = true ∧ opFinished (withProg (progQ 0 readOp)) 0 0 readOp = true
    ∧ queue (progQ 0 readOp) 0 = [readOp] := by decide +kernel
/-- A pool unit's share for a program whose context has no segment. -/
def shareP : Prog := { withOp prog0 2 (tngOp 0x41) with ctx := 2 }
def shareS : State := { withProg shareP with shares := [share0] }
theorem wit_pool_unit : prog? shareS share0.core = some shareP ∧ nextOp shareP 2 = some (tngOp 0x41) ∧ running shareS = true ∧ shareS.txns = []
    ∧ (∀ n, n < 16 → flag (wk shareS (.ctx 2) (0x8200 + 16 * n)) 63 = false) := by decide +kernel
theorem wit_pool_unit_segments (x : Nat) (e : Nat × Nat × Word) (h : govSeg shareS shareP.ctx x = some e) : flag e.2.2 52 = false := by
  unfold govSeg at h
  rw [List.findSome?_eq_some_iff] at h
  obtain ⟨l, n, r, hl, hn, -⟩ := h
  have hm : n ∈ List.range 16 := by rw [hl]; simp
  have hf := wit_pool_unit.2.2.2.2 n (List.mem_range.mp hm)
  rw [show shareP.ctx = 2 from rfl] at hn
  simp at hn
  exact Bool.noConfusion (hf.symm.trans hn.1.1.1)
theorem wit_live_place : locOf (tblD 1) 0 0 = some (homeCa (tblD 1) 0) ∧ homeCa (tblD 1) 0 < 2 ^ 51 ∧ vanished (tngS 0x44 1) (homeCa (tblD 1) 0) = false
    ∧ locOf (tblD 1) 0 (place 59 59 1) = some (homeCa (tblD 1) 0) ∧ vanished commitS (homeCa (tblD 1) 0) = false := by decide +kernel
theorem wit_ack_reply : reqOf { dtS 1 with dtOut := [reqOfKind (.ack 0)] } 9 = some (reqOfKind (.ack 0)) := by decide +kernel

/-- The drawer rail has been low for 20 ns; the compute rails are off in the banked state. -/
def lowS : State := { runs with power := { runs.power with railLow := [(railNo .drawer, some 0)] }, stc := 20 }
theorem wit_rails : railWatched runs (.core 0) = true ∧ railWatched { setPhase runs 3 with power := { runs.power with computeOn := false } } (.core 0) = false
    ∧ railWatched lowS .drawer = true ∧ railLost (noteRail lowS .drawer 0) = true ∧ railLost (noteRail lowS .drawer 2000) = false
    ∧ railLost (noteRail runs (.core 1) 500) = false
    ∧ railLost (noteRail { lowS with power := { runs.power with railLow := [(railNo (.core 0), some 0)] } } (.core 0) 500) = true := by decide +kernel
theorem wit_power_sample : avgFits (wattsNext runs 50) 0 = true ∧ avgFits (wattsNext runs 50) 2 = false := by decide +kernel
theorem wit_temper : temperDue runs 3 = false ∧ temperDue { runs with stc := 0xFFFFFFFFFFFFFFF0 } 3 = true := by decide +kernel
theorem wit_pause : pauseFrameOk { runs with clusters := [(0, { clusterInit with excursion := true })] } 0 = true
    ∧ condHolds runs .pwr 3 = false ∧ (Machine.cluster runs 48).excursion = false := by decide +kernel

def goodX : Expander := { type3 := true, memActive := true, decoder := true, capacity := 0x10000000, poisoned := [5] }
theorem wit_expander : expanderCode goodX = 0 ∧ expanderCode { goodX with decoder := false } = 4 ∧ slotState (slotS 4 1) 0 = 4
    ∧ slotPresent (setRf (slotS 5 1) (.fmp 0) 0x110 0 0 1) 0 = true ∧ slotLinkUp (slotS 5 1) 0 = true := by decide +kernel

/-- The link is up, and the function is not ready; an endpoint whose flush read waits. -/
theorem wit_retry : hostState.ep.linkUp = true ∧ cfgUp hostState = false ∧ cfgUp cfgS = true ∧ 4 % 4 = 0 := by decide +kernel
def flushS : State := { hostState with ep := { hostState.ep with flushWait := [{ task := some 0, cores := [] }] } }
theorem wit_flush_timeout : (flushS.hreqs.find? fun x => x.line = 5 && (x.kind = 0 || x.kind = 1 || x.kind = 2 || x.kind = 7)) = none
    ∧ flushSent flushS = true ∧ ctoDisable flushS = false ∧ stopped flushS = false := by decide +kernel
theorem wit_decoders : decoderOk cfgS 0 0x10000000 0x10000000 0 = true ∧ decoderOk cfgS 0 0x1000 0x10000000 0 = false := by decide +kernel

/-- An image at stack address 0x1000 that no host line hides, one that cannot be read, and one of whose lines the host holds. -/
def loadS : State := setRf (setPhase runs 1) .gfe 0x3110 8 8 1
theorem wit_image : rbit loadS .gfe 0x3110 8 = true ∧ imageLines loadS = [] ∧ (readImage loadS).isSome = true
    ∧ readImage (setRf loadS .gfe 0x3100 51 12 0x1000000000) = none ∧ imageLines (setRf loadS .gfe 0x3100 51 12 0x1000000000) = []
    ∧ imageLines { loadS with filt := [(0, 256)] } ≠ [] := by decide +kernel

/-- A watch whose marks its core's engines have reached. -/
def watchS : State := { runs with watchPend := [(0, some { core := 0, ctx := 1, marks := [(0, 0)], recWord2 := 0 })] }
theorem wit_watch : (watchPendOf watchS 0).isSome = true ∧ watchReady watchS { core := 0, ctx := 1, marks := [(0, 0)], recWord2 := 0 } = true ∧ running watchS = true := by
  decide +kernel
theorem wit_async : prog? (withProg { prog0 with pend := [faulted0] }) 0 = some { prog0 with pend := [faulted0] } ∧ prog0.inexc = false ∧ prog0.armed = false
    ∧ prog0.granted = false ∧ prog0.leaving = none ∧ running (withProg { prog0 with pend := [faulted0] }) = true
    ∧ (Machine.core (withProg { prog0 with pend := [faulted0] }) 0).power = .c0 ∧ regsLive runs .dt = true
    ∧ mapGet (fun _ => 0) runs.inject (blkNo .gfe) = 0 ∧ mapGet (fun _ => 0) runs.inject (blkNo .dbg) = 0 := by decide +kernel
theorem wit_slip_ends : (slip0.stop - slip0.start).toNat ≤ (({ withProg progSlip with cclk := 12 }).cclk - slip0.start).toNat
    ∧ ((withProg progSlip).cclk - slip0.start).toNat < (slip0.stop - slip0.start).toNat ∧ running (withProg progSlip) = true := by decide +kernel
/-- A WAIT whose fence's line the host holds. -/
def heldFence : State := { gW (cmdW 2 1) with filt := [(0, 256)] }
theorem wit_command_lines : cmdLines heldFence 1 (cmdW 2 1) ≠ [] ∧ myTurn heldFence 1 = true ∧ ctxReady heldFence 1 = true := by decide +kernel
theorem wit_posted_fence : gfeReady { gS g0 with filt := [(0, 256)] } (canon (fenceCa (gS g0) 1 0)) 8 = false ∧ gfeWrites (gS g0) = false
    ∧ gfeReady (gS g0) (canon (fenceCa (gS g0) 1 0)) 8 = true := by decide +kernel
/-- The answer to a translation asked for before an invalidation. -/
theorem wit_stale : (1, 7) ∈ ({ runs with atsStale := [(1, 7)] } : State).atsStale := by decide

end Sys2Proof.Tests
end

section
/-! SUPPORT. Fields of a word bit by bit: which bits a field's mask has, and when two words hold the same field. -/

namespace Sys2Proof.Machine

theorem flag_fieldMask (hi lo i : Nat) (h : i < 64) : flag (fieldMask hi lo) i = true ↔ lo ≤ i ∧ i ≤ hi := by
  simp only [flag, fieldMask, BitVec.getLsbD_ofNat, h, Nat.testBit_shiftLeft, Nat.testBit_two_pow_sub_one, decide_true, Bool.true_and,
    Bool.and_eq_true, decide_eq_true_eq]
  omega

/-- The mask of the fields for which `p` holds has the bits of those fields. -/
theorem flag_fieldsMask (fs : List FieldDef) (p : FieldDef → Bool) (i : Nat) (h : i < 64) :
    flag (fieldsMask fs p) i = true ↔ ∃ f ∈ fs, p f = true ∧ f.lo ≤ i ∧ i ≤ f.hi := by
  suffices H : ∀ w : Word, flag (fs.foldl (fun w f => if p f then w ||| fieldMask f.hi f.lo else w) w) i = true
      ↔ flag w i = true ∨ ∃ f ∈ fs, p f = true ∧ f.lo ≤ i ∧ i ≤ f.hi by
    simpa [fieldsMask, flag] using H 0
  induction fs with
  | nil => simp
  | cons f fs ih =>
    intro w
    have hor : flag (w ||| fieldMask f.hi f.lo) i = true ↔ flag w i = true ∨ (f.lo ≤ i ∧ i ≤ f.hi) := by
      rw [← flag_fieldMask f.hi f.lo i h]
      simp [flag]
    rw [List.foldl_cons, ih]
    by_cases hp : p f = true <;> simp [hp, hor, or_assoc]

/-- Two words that agree on the bits of a field hold the same value there. -/
theorem fld_congr (v w : Word) (hi lo : Nat) (h : ∀ i, lo ≤ i → i ≤ hi → i < 64 → flag v i = flag w i) : fld v hi lo = fld w hi lo := by
  refine Nat.eq_of_testBit_eq fun j => ?_
  simp only [fld, bitsN, Nat.testBit_mod_two_pow, Nat.testBit_shiftRight, BitVec.testBit_toNat]
  by_cases hj : j < hi + 1 - lo
  · by_cases h64 : lo + j < 64
    · rw [show v.getLsbD (lo + j) = w.getLsbD (lo + j) from h _ (by omega) (by omega) h64]
    · simp [BitVec.getLsbD_of_ge, Nat.le_of_not_lt h64]
  · simp [hj]

/-- A field with no bit set is 0. -/
theorem fld_eq_zero (w : Word) (hi lo : Nat) (h : ∀ i, lo ≤ i → i ≤ hi → i < 64 → flag w i = false) : fld w hi lo = 0 := by
  rw [fld_congr w 0 hi lo fun i h1 h2 h3 => by rw [h i h1 h2 h3]; simp [flag]]
  simp [fld, bitsN]

/-- The lower four bytes of a word hold its bits [15:0]. -/
theorem fld_low_of_lowerHalf (w : Word) : fld (BitVec.ofNat 64 (w.toNat % 4294967296) &&& 4294967295#64) 15 0 = fld w 15 0 := by
  have hm : ∀ n : Nat, n &&& 4294967295 = n % 4294967296 := fun n => Nat.and_two_pow_sub_one_eq_mod n 32
  simp only [fld, bitsN, BitVec.toNat_and, BitVec.toNat_ofNat, Nat.shiftRight_zero]
  norm_num [hm]

end Sys2Proof.Machine
end

section
/-! SUPPORT. Clears of event triples (R45): what a clear leaves in each register of its block, and which writes to a clear register are
clear attempts. -/

namespace Sys2Proof.Machine

variable {s : State}

/-- The word `w` of a register with every SQC field 0. -/
def sqcCleared (b : Blk) (o : Nat) (w : Word) : Word := w &&& ~~~(fieldsMask (regFields b o) fun f => f.ty = .sqc)

theorem sqcCleared_idem (b : Blk) (o : Nat) (w : Word) : sqcCleared b o (sqcCleared b o w) = sqcCleared b o w := by
  simp [sqcCleared, BitVec.and_assoc]

theorem flag_sqcCleared (b : Blk) (o : Nat) (w : Word) (i : Nat) (h : i < 64) :
    flag (sqcCleared b o w) i = true ↔ flag w i = true ∧ ∀ f ∈ regFields b o, f.ty = .sqc → ¬(f.lo ≤ i ∧ i ≤ f.hi) := by
  have hm := flag_fieldsMask (regFields b o) (fun f => f.ty = .sqc) i h
  have hand : flag (sqcCleared b o w) i = true ↔ flag w i = true ∧ ¬flag (fieldsMask (regFields b o) fun f => f.ty = .sqc) i = true := by
    simp [sqcCleared, flag, h]
  rw [hand, hm]
  simp

theorem fld_sqcCleared (b : Blk) (o : Nat) (w : Word) (f : FieldDef) (hf : f ∈ regFields b o) (ht : f.ty = .sqc) :
    fld (sqcCleared b o w) f.hi f.lo = 0 :=
  fld_eq_zero _ _ _ fun i h1 h2 h3 => by
    rw [Bool.eq_false_iff]
    intro hi
    exact ((flag_sqcCleared b o w i h3).1 hi).2 f hf ht ⟨h1, h2⟩

theorem flag_sqcCleared_of_free (b : Blk) (o : Nat) (w : Word) (i : Nat) (h : i < 64)
    (hfree : ∀ f ∈ regFields b o, f.ty = .sqc → ¬(f.lo ≤ i ∧ i ≤ f.hi)) : flag (sqcCleared b o w) i = flag w i := by
  rw [Bool.eq_iff_iff, flag_sqcCleared b o w i h]
  exact and_iff_left hfree

/-- A clear with another value than the sequence changes nothing. -/
theorem clearStatus_of_ne (b : Blk) (sts : List Nat) (seq v : Nat) (h : v ≠ rf s b seq 15 0) : clearStatus s b sts seq v = s := if_neg h

/-- The SQC fields of the registers at `sts` become 0, one register after the other. -/
def clearSqc (s : State) (b : Blk) (sts : List Nat) : State := sts.foldl (fun s o => setReg s b o (sqcCleared b o (reg s b o))) s

/-- A clear with the current sequence clears its status registers. -/
theorem clearStatus_of_eq (b : Blk) (sts : List Nat) (seq v : Nat) (h : v = rf s b seq 15 0) :
    clearStatus s b sts seq v = clearSqc s b sts := if_pos h

theorem rk_inj (b : Blk) (o p : Nat) : rk b o = rk b p ↔ o = p := Nat.add_left_cancel_iff

theorem reg_clearSqc (b : Blk) (sts : List Nat) (o : Nat) (h : mapWf regDefault s.regs = true) :
    reg (clearSqc s b sts) b o = if o ∈ sts then sqcCleared b o (reg s b o) else reg s b o := by
  induction sts generalizing s with
  | nil => rfl
  | cons p sts ih =>
    change reg (clearSqc (setReg s b p (sqcCleared b p (reg s b p))) b sts) b o = _
    rw [ih (setReg_wf s b p _ h)]
    by_cases hp : o = p
    · subst hp
      simp [reg_setReg s b o _ h, sqcCleared_idem]
    · simp [reg_setReg_other s b b p o _ h (mt (rk_inj b o p).1 hp), hp]

/-- No clear register names its sequence register among those it clears (R43). -/
theorem seq_notMem_of_tripleOfClear (b : Blk) (r : Nat) (sts : List Nat) (seq : Nat) (h : tripleOfClear b r = some (sts, seq)) :
    seq ∉ sts := by
  unfold tripleOfClear at h
  -- One row of the table at a time: its offsets are literals, or lie at fixed distances from the header.
  repeat' split at h
  all_goals cases h <;> simp

/-- A clear leaves the sequence register as it is. -/
theorem reg_clearStatus_seq (b : Blk) (sts : List Nat) (seq v : Nat) (hm : mapWf regDefault s.regs = true) (hs : seq ∉ sts) :
    reg (clearStatus s b sts seq v) b seq = reg s b seq := by
  by_cases hv : v = rf s b seq 15 0
  · rw [clearStatus_of_eq b sts seq v hv, reg_clearSqc b sts seq hm, if_neg hs]
  · rw [clearStatus_of_ne b sts seq v hv]

theorem reg_clearStatus_of_mem (b : Blk) (sts : List Nat) (seq v o : Nat) (hm : mapWf regDefault s.regs = true) (hv : v = rf s b seq 15 0)
    (ho : o ∈ sts) : reg (clearStatus s b sts seq v) b o = sqcCleared b o (reg s b o) := by
  rw [clearStatus_of_eq b sts seq v hv, reg_clearSqc b sts o hm, if_pos ho]

/-- A write that reaches its register, with no access held at the block, is performed at the block's port. -/
theorem performWrite_reaches (h : HeldAcc) (b : Blk) (o : Nat) (hl : locate h.key = some (b, o)) (hf : regFields b (o / 8 * 8) ≠ [])
    (hr : requesterReaches s h.rq b = true) (hw : windowLives s b = true) (hpmc : h.rq = .pmc → b = .pwr)
    (hp : writePerformed s b (o / 8 * 8) = true) (hh : heldAccs s b = []) : performWrite s h = writeAt s b h o := by
  simp only [performWrite, hl]
  simp [hf, hr, hw, hp, hh]
  exact fun h1 h2 => absurd (hpmc h1) h2

/-- A write to a clear register that covers bits [15:0] is a clear attempt with the value written there (R45). -/
theorem writeAt_clear (b : Blk) (h : HeldAcc) (r : Nat) (sts : List Nat) (seq : Nat) (ht : tripleOfClear b r = some (sts, seq))
    (hne : r ≠ hdrOff b) (hr : r % 8 = 0) (hk : h.key % 8 = 0) (hs : h.size = 8 ∨ h.size = 4) :
    writeAt s b h r = clearStatus s b sts seq (fld h.val 15 0) := by
  have hr' : r / 8 * 8 = r := by omega
  have hk4 : h.key % 4 = 0 := by omega
  obtain hs | hs := hs
  · have hall : h.val &&& 18446744073709551615#64 = h.val := BitVec.and_allOnes
    simp [writeAt, hs, hk, hr', hr, hne, ht, hall]
  · simp [writeAt, hs, hk4, hr', hr, hne, ht, fld_low_of_lowerHalf]

/-- A write to the upper bytes of a clear register only does nothing (R45). -/
theorem writeAt_clear_upper (b : Blk) (h : HeldAcc) (r : Nat) (sts : List Nat) (seq : Nat) (ht : tripleOfClear b r = some (sts, seq))
    (hne : r ≠ hdrOff b) (hr : r % 8 = 0) (hk : h.key % 4 = 0) (hs : h.size = 4) : writeAt s b h (r + 4) = s := by
  have hr' : (r + 4) / 8 * 8 = r := by omega
  have ho : (r + 4) % 8 ≠ 0 := by omega
  simp [writeAt, hs, hk, hr', ho, hne, ht]

/-- STATUS_CLEAR at a register key is the end of a register write there. -/
theorem exec_statusClear (rq : Requester) (sp : RegSpace) (off size k : Nat) (val : Word) (hk : regKey sp off = some k) :
    exec (.statusClear rq sp off size val) s = afterReg s rq k size (performWrite s { rq, key := k, size, val }) := by
  change execStatusClear rq sp off size val s = _
  rw [execStatusClear, hk]
  rfl

end Sys2Proof.Machine
end

section
/-! PROOFS. The obligation on clears of event triples. -/

namespace Sys2Proof.Claims

open Sys2Proof.Machine

/-- Settles O40: the port turns the write into a clear attempt, which clears the SQC fields of the triple's status registers, among which
the sequence register is not. -/
theorem clearsCompareTheSequence : Obligations.ClearsCompareTheSequence := by
  intro s t rq b r off size v sp val sts seq hm htr hf hne h8 hr hw hpmc hp hh hl hl4 hv ht
  subst hv ht
  have hk := rk_mod b r h8
  have hr8 : r / 8 * 8 = r := by omega
  have hr4 : (r + 4) / 8 * 8 = r := by omega
  refine ⟨fun hkey hs => ?_, fun hkey => ?_, fun hv => clearStatus_of_ne b sts seq _ hv, fun hv o ho => ?_, ?_⟩
  · rw [exec_statusClear rq sp off size _ val hkey,
      performWrite_reaches _ b r hl (by rwa [hr8]) hr hw hpmc (by rwa [hr8]) hh, writeAt_clear b _ r sts seq htr hne h8 hk hs]
  · rw [exec_statusClear rq sp off 4 _ val hkey,
      performWrite_reaches _ b (r + 4) hl4 (by rwa [hr4]) hr hw hpmc (by rwa [hr4]) hh,
      writeAt_clear_upper b _ r sts seq htr hne h8 (by change (rk b r + 4) % 4 = 0; omega) rfl]
  · have hreg := reg_clearStatus_of_mem b sts seq _ o hm hv ho
    refine ⟨fun f hf ht => ?_, fun i hi hfree => ?_⟩
    · rw [rf, hreg, fld_sqcCleared b o _ f hf ht]
    · rw [hreg, flag_sqcCleared_of_free b o _ i hi hfree]
  · exact reg_clearStatus_seq b sts seq _ hm (seq_notMem_of_tripleOfClear b r sts seq htr)

end Sys2Proof.Claims
end

section
/-! SUPPORT. The two ends of an instruction alone in its bundle that accesses nothing: its effect is a change of the program state, or
its word fails the decoding checks. -/

namespace Sys2Proof.Machine

open Sys2Proof

variable {s : State} {h : Hdr} {p : Prog}

/-- The command of an instruction that may stand in a region and whose effect is the change `g` of its program state. -/
theorem exec_eq_becomes (i : Instr) (o : SOp) (g : Prog → Prog) (hx : Executes s h p) (hs : Spells s h p i) (hv : view i = some (h, o))
    (hd : decodes o = true) (hj : notInJig o = false)
    (he : effect h.core.val (coreBefore s h i p) (noWait p) p.pc.toNat (p.pc.toNat + 8) o = progM h.core.val g) :
    exec i s = becomes s h (g (atIssue p)) := by
  rw [exec_eq_seqRun i _ s hv]
  exact seqRun_prog i o g hx hs hv hd (fun _ => hj) (congrFun he _)

/-- An instruction that fails its decoding checks throws ILLEGAL, whether its predicate lets it execute or not (R168). -/
theorem perform_of_not_decodes (c : Nat) (k : Core) (q : Prog) (ca nextPc i : Nat) (o : SOp) (hd : decodes o = false) (t : State) :
    perform c k q ca nextPc i (h, o) t = .error (.exc 1 0 0 0) t := by
  simp [perform, hd]

/-- Where no fault event has been raised since and no injection has changed, no injected error has been met (R425). -/
theorem keepChecks_of_none (s t : State) (hr : t.raised = s.raised) (hi : t.inject = s.inject) : keepChecks s t = s := by
  rw [keepChecks, hr, hi, List.drop_length]
  rfl

/-- An instruction alone in its bundle whose word fails the decoding checks raises ILLEGAL. -/
theorem exec_eq_raises_illegal (i : Instr) (o : SOp) (hx : Issues s h p) (hs : Spells s h p i) (hv : view i = some (h, o))
    (hd : decodes o = false) : exec i s = raises s h i p 1 0 0 0 := by
  rw [exec_eq_seqRun i _ s hv, seqRun_raised i o (fetched s h i p) 1 0 0 0 hx hs hv (perform_of_not_decodes _ _ _ _ _ _ o hd _)]
  have hf : keepChecks (begun s h i p) (fetched s h i p) = begun s h i p := keepChecks_of_none _ _ rfl rfl
  have hb : keepChecks (begun s h i p) (begun s h i p) = begun s h i p := keepChecks_of_none _ _ rfl rfl
  rw [raises, done, bundleFault, bundleFault, hf, hb]
  rfl

end Sys2Proof.Machine
end

section
/-! SUPPORT. Values of R172 and R173: the operations of the model's ALU by the rule's formulas, the bit-field operations bit by bit, the
conditions and the predicate operations by their codes. -/

namespace Sys2Proof.Machine

variable (a b : Word)

theorem aluOp_mul : aluOp .mul a b = BitVec.ofNat 64 (a.toNat * b.toNat) := by
  simp [aluOp, BitVec.ofNat_mul]

/-- The quotient of -2^63 and -1 is 2^63, which wraps. -/
theorem aluOp_divs : aluOp .divs a b = if b = 0 then BitVec.ofInt 64 (-1)
    else if a = BitVec.ofInt 64 (-2 ^ 63) ∧ b = BitVec.ofInt 64 (-1) then BitVec.ofInt 64 (-2 ^ 63)
    else BitVec.ofInt 64 (a.toInt.tdiv b.toInt) := by
  have hov : a = BitVec.ofInt 64 (-2 ^ 63) ∧ b = BitVec.ofInt 64 (-1) → BitVec.ofInt 64 (a.toInt.tdiv b.toInt) = BitVec.ofInt 64 (-2 ^ 63) := by
    rintro ⟨rfl, rfl⟩
    decide
  simp only [aluOp]
  split_ifs with h0 h1
  · rfl
  · exact hov h1
  · rfl

theorem aluOp_remu : aluOp .remu a b = if b = 0 then a else a - b * BitVec.ofNat 64 (a.toNat / b.toNat) := by
  have hmod : BitVec.ofNat 64 (a.toNat % b.toNat) = a - b * BitVec.ofNat 64 (a.toNat / b.toNat) := by
    have hsum := congrArg (BitVec.ofNat 64) (Nat.mod_add_div a.toNat b.toNat)
    rw [BitVec.ofNat_add, BitVec.ofNat_mul, BitVec.ofNat_toNat, BitVec.ofNat_toNat, BitVec.setWidth_eq, BitVec.setWidth_eq] at hsum
    exact BitVec.eq_sub_iff_add_eq.2 hsum
  simp only [aluOp, hmod]

theorem aluOp_rems : aluOp .rems a b = if b = 0 then a else a - b * BitVec.ofInt 64 (a.toInt.tdiv b.toInt) := by
  have hmod : BitVec.ofInt 64 (a.toInt.tmod b.toInt) = a - b * BitVec.ofInt 64 (a.toInt.tdiv b.toInt) := by
    have hsum := congrArg (BitVec.ofInt 64) (Int.tmod_add_mul_tdiv a.toInt b.toInt)
    rw [BitVec.ofInt_add, BitVec.ofInt_mul, BitVec.ofInt_toInt, BitVec.ofInt_toInt] at hsum
    exact BitVec.eq_sub_iff_add_eq.2 hsum
  simp only [aluOp, hmod]

/-- At two equal keys a strict and a weak comparison choose alike where the choices are equal there. -/
theorem ite_lt_eq_ite_le {α β : Type} [LinearOrder α] (x y : α) (u v : β) (h : x = y → u = v) :
    (if x < y then u else v) = if x ≤ y then u else v := by
  rcases lt_trichotomy x y with hlt | heq | hgt
  · rw [if_pos hlt, if_pos hlt.le]
  · rw [h heq, ite_self, ite_self]
  · rw [if_neg hgt.not_gt, if_neg hgt.not_ge]

theorem aluOp_min : aluOp .min a b = if a.toInt ≤ b.toInt then a else b := by
  simp only [aluOp, BitVec.slt_iff_toInt_lt]
  exact ite_lt_eq_ite_le _ _ a b BitVec.eq_of_toInt_eq

theorem aluOp_max : aluOp .max a b = if a.toInt ≤ b.toInt then b else a := by
  simp only [aluOp, BitVec.slt_iff_toInt_lt]
  exact ite_lt_eq_ite_le _ _ b a fun h => (BitVec.eq_of_toInt_eq h).symm

theorem aluOp_minu : aluOp .minu a b = if a.toNat ≤ b.toNat then a else b := by
  simp only [aluOp, BitVec.ult_iff_toNat_lt]
  exact ite_lt_eq_ite_le _ _ a b BitVec.eq_of_toNat_eq

theorem aluOp_maxu : aluOp .maxu a b = if a.toNat ≤ b.toNat then b else a := by
  simp only [aluOp, BitVec.ult_iff_toNat_lt]
  exact ite_lt_eq_ite_le _ _ b a fun h => (BitVec.eq_of_toNat_eq h).symm

/-! Bit fields. -/

section
variable {fn : BitVec 23} {pos len : Nat} (hfn : fn.toNat = 64 * pos + (len - 1)) (hpos : pos < 64) (h1 : 1 ≤ len) (h64 : len ≤ 64)
include hfn hpos h1 h64

/-- What the FN field of BFX and BFI names. -/
theorem bitField_eq : bfPos fn = pos ∧ bfMask fn = BitVec.ofNat 64 (2 ^ len - 1) := by
  have hlen : bitsN fn.toNat 5 0 + 1 = len := by
    simp only [bitsN, hfn, Nat.shiftRight_zero]
    omega
  refine ⟨?_, by rw [bfMask, hlen]⟩
  simp only [bfPos, bitsN, hfn, Nat.shiftRight_eq_div_pow]
  omega

theorem bfxWord_eq : bfxWord a fn = BitVec.ofNat 64 (a.toNat / 2 ^ pos % 2 ^ len) := by
  obtain ⟨hp, hm⟩ := bitField_eq hfn hpos h1 h64
  have hmask : 2 ^ len - 1 < 2 ^ 64 := by
    have hle : 2 ^ len ≤ 2 ^ 64 := Nat.pow_le_pow_right (by omega) h64
    omega
  have hval : a.toNat / 2 ^ pos % 2 ^ len < 2 ^ 64 := ((Nat.mod_le _ _).trans (Nat.div_le_self _ _)).trans_lt a.isLt
  refine BitVec.eq_of_toNat_eq ?_
  rw [bfxWord, hp, hm, BitVec.toNat_and, BitVec.toNat_ushiftRight, BitVec.toNat_ofNat, Nat.mod_eq_of_lt hmask,
    Nat.and_two_pow_sub_one_eq_mod, Nat.shiftRight_eq_div_pow, BitVec.toNat_ofNat, Nat.mod_eq_of_lt hval]

theorem getLsbD_bfiWord (d : Word) (k : Nat) (hk : k < 64) :
    (bfiWord d a fn).getLsbD k = if pos ≤ k ∧ k < pos + len then a.getLsbD (k - pos) else d.getLsbD k := by
  obtain ⟨hp, hm⟩ := bitField_eq hfn hpos h1 h64
  have hmask : ((BitVec.ofNat 64 (2 ^ len - 1)) <<< pos).getLsbD k = decide (pos ≤ k ∧ k < pos + len) := by
    rw [Bool.eq_iff_iff]
    simp only [BitVec.getLsbD_shiftLeft, BitVec.getLsbD_ofNat, Nat.testBit_two_pow_sub_one, Bool.and_eq_true,
      Bool.not_eq_true', decide_eq_true_eq, decide_eq_false_iff_not]
    omega
  simp only [bfiWord, hp, hm, BitVec.getLsbD_or, BitVec.getLsbD_and, BitVec.getLsbD_not, hmask,
    BitVec.getLsbD_shiftLeft a]
  by_cases hin : pos ≤ k ∧ k < pos + len
  · simp [hin, hk, Nat.not_lt.2 hin.1]
  · simp [hin, hk]

end

/-! Predicates. -/

theorem decodes_cmp_iff (f : FmtP) : decodes (.cmp f) = true ↔ f.z = 0 ∧ f.imm = 0 ∧ (f.pd ≠ f.pe ∨ f.pd = 0) := by
  simp [decodes, and_assoc]

theorem decodes_cmpi_iff (f : FmtP) : decodes (.cmpi f) = true ↔ f.z = 0 ∧ f.rb = 0 ∧ (f.pd ≠ f.pe ∨ f.pd = 0) := by
  simp [decodes, and_assoc]

theorem decodes_plog_iff (f : FmtPlog) : decodes (.plog f) = true ↔ f.op.toNat ≤ 3 ∧ f.rest = 0 := by
  simp [decodes]

/-- The condition of each COND (R173). -/
theorem condition_spec (cond : BitVec 3) :
    (cond = 0 → (condition cond a b = true ↔ a = b)) ∧ (cond = 1 → (condition cond a b = true ↔ a ≠ b))
    ∧ (cond = 2 → (condition cond a b = true ↔ a.toInt < b.toInt)) ∧ (cond = 3 → (condition cond a b = true ↔ b.toInt ≤ a.toInt))
    ∧ (cond = 4 → (condition cond a b = true ↔ a.toNat < b.toNat)) ∧ (cond = 5 → (condition cond a b = true ↔ b.toNat ≤ a.toNat))
    ∧ (cond = 6 → (condition cond a b = true ↔ a.getLsbD (b.toNat % 64) = false))
    ∧ (cond = 7 → (condition cond a b = true ↔ a.getLsbD (b.toNat % 64) = true)) := by
  refine ⟨?_, ?_, ?_, ?_, ?_, ?_, ?_, ?_⟩ <;> rintro rfl
  · simp [condition]
  · simp [condition]
  · simp [condition, BitVec.slt_iff_toInt_lt]
  · simp [condition, BitVec.slt_eq_decide]
  · simp [condition, BitVec.ult_iff_toNat_lt]
  · simp [condition, BitVec.ult_eq_decide]
  · simp [condition]
  · simp [condition]

theorem predOp_eq (op : BitVec 4) (x y : Bool) (hop : op.toNat ≤ 3) : predOp op x y
    = if op = 0 then x && y else if op = 1 then x || y else if op = 2 then x ^^ y else x && !y := by
  have hcases : op = 0 ∨ op = 1 ∨ op = 2 ∨ op = 3 := by bv_omega
  rcases hcases with rfl | rfl | rfl | rfl <;> rfl

end Sys2Proof.Machine
end

section
/-! PROOFS. The obligations on the sequencer's arithmetic and predicates. -/

namespace Sys2Proof.Claims

open Sys2Proof.Machine

/-- The row of R172's table is the operation `op` of the model's ALU, in both its forms. -/
def RowIs (row : (Hdr → FmtR → Instr) × (Hdr → FmtI → Instr) × (Word → Word → Word)) (op : AluOp) : Prop :=
  (∀ h f, view (row.1 h f) = some (h, .alu op f)) ∧ (∀ h f, view (row.2.1 h f) = some (h, .alui op f)) ∧ ∀ a b, aluOp op a b = row.2.2 a b

theorem rowIs_of_mem_aluTable : ∀ row ∈ aluTable, ∃ op, RowIs row op := by
  simp only [aluTable, List.forall_mem_cons]
  exact ⟨⟨.add, fun _ _ => rfl, fun _ _ => rfl, fun _ _ => rfl⟩,
    ⟨.sub, fun _ _ => rfl, fun _ _ => rfl, fun _ _ => rfl⟩,
    ⟨.and, fun _ _ => rfl, fun _ _ => rfl, fun _ _ => rfl⟩,
    ⟨.or, fun _ _ => rfl, fun _ _ => rfl, fun _ _ => rfl⟩,
    ⟨.xor, fun _ _ => rfl, fun _ _ => rfl, fun _ _ => rfl⟩,
    ⟨.shl, fun _ _ => rfl, fun _ _ => rfl, fun _ _ => rfl⟩,
    ⟨.shr, fun _ _ => rfl, fun _ _ => rfl, fun _ _ => rfl⟩,
    ⟨.sar, fun _ _ => rfl, fun _ _ => rfl, fun _ _ => rfl⟩,
    ⟨.mul, fun _ _ => rfl, fun _ _ => rfl, aluOp_mul⟩,
    ⟨.mulhu, fun _ _ => rfl, fun _ _ => rfl, fun _ _ => rfl⟩,
    ⟨.mulhs, fun _ _ => rfl, fun _ _ => rfl, fun _ _ => rfl⟩,
    ⟨.divu, fun _ _ => rfl, fun _ _ => rfl, fun _ _ => rfl⟩,
    ⟨.divs, fun _ _ => rfl, fun _ _ => rfl, aluOp_divs⟩,
    ⟨.remu, fun _ _ => rfl, fun _ _ => rfl, aluOp_remu⟩,
    ⟨.rems, fun _ _ => rfl, fun _ _ => rfl, aluOp_rems⟩,
    ⟨.min, fun _ _ => rfl, fun _ _ => rfl, aluOp_min⟩,
    ⟨.max, fun _ _ => rfl, fun _ _ => rfl, aluOp_max⟩,
    ⟨.minu, fun _ _ => rfl, fun _ _ => rfl, aluOp_minu⟩,
    ⟨.maxu, fun _ _ => rfl, fun _ _ => rfl, aluOp_maxu⟩, by simp⟩

/-- Settles O3: the effect of each instruction writes one register, with the value that the rule's formula gives. -/
theorem scalarOperationsCompute : Obligations.ScalarOperationsCompute := by
  refine ⟨fun row hrow s h p hx => ?_, fun s h p f pos len hx hrb hrc hpos h1 h64 hfn => ?_⟩
  · obtain ⟨op, hvR, hvI, hval⟩ := rowIs_of_mem_aluTable row hrow
    refine ⟨fun f hrc hfn hs => ?_, fun f hs => ?_⟩
    · rw [← hval]
      exact exec_eq_becomes _ (.alu op f) (fun q => setSreg q f.rd (aluOp op (sreg p f.ra) (sreg p f.rb))) hx hs (hvR h f)
        (by simp [decodes, hrc, hfn]) rfl rfl
    · rw [← hval]
      exact exec_eq_becomes _ (.alui op f) (fun q => setSreg q f.rd (aluOp op (sreg p f.ra) (f.imm.signExtend 64))) hx hs (hvI h f) rfl rfl rfl
  · have hfit : f.fn.toNat < 4096 := by omega
    have hd : decodes (.bfx f) = true := by simp [decodes, hrb, hrc, hfit]
    refine ⟨fun hs => ?_, fun hs => ⟨bfiWord (sreg p f.rd) (sreg p f.ra) f.fn, ?_, ?_⟩⟩
    · rw [← bfxWord_eq (sreg p f.ra) hfn hpos h1 h64]
      exact exec_eq_becomes _ (.bfx f) (fun q => setSreg q f.rd (bfxWord (sreg p f.ra) f.fn)) hx hs rfl hd rfl rfl
    · exact exec_eq_becomes _ (.bfi f) (fun q => setSreg q f.rd (bfiWord (sreg p f.rd) (sreg p f.ra) f.fn)) hx hs rfl hd rfl rfl
    · exact getLsbD_bfiWord (sreg p f.ra) hfn hpos h1 h64 (sreg p f.rd)

/-- What CMP and CMPI do to a program state: PD becomes the condition and PE its inverse (R173). -/
def compared (f : FmtP) (a b : Word) (q : Prog) : Prog :=
  setPreg (setPreg q f.pd (condition f.cond a b)) f.pe (!condition f.cond a b)

/-- Settles O5: the effect of each instruction is on its predicates, and a word that R173 forbids fails its decoding checks. -/
theorem conditionsSetPredicates : Obligations.ConditionsSetPredicates := by
  refine fun s h p => ⟨fun hx f hz hpd b i hi hs => ?_, fun hx f hrest hop hs => ?_, fun hx f heq hne i hi hs => ?_, fun hx f hbad hs => ?_⟩
  · refine ⟨condition f.cond (sreg p f.ra) b, ?_, condition_spec (sreg p f.ra) b f.cond⟩
    obtain ⟨rfl, himm, rfl⟩ | ⟨rfl, hrb, rfl⟩ := hi
    · exact exec_eq_becomes _ (.cmp f) (compared f (sreg p f.ra) (sreg p f.rb)) hx hs rfl ((decodes_cmp_iff f).2 ⟨hz, himm, hpd⟩) rfl rfl
    · exact exec_eq_becomes _ (.cmpi f) (compared f (sreg p f.ra) (f.imm.signExtend 64)) hx hs rfl ((decodes_cmpi_iff f).2 ⟨hz, hrb, hpd⟩) rfl rfl
  · rw [← predOp_eq f.op _ _ hop]
    exact exec_eq_becomes _ (.plog f) (fun q => setPreg q f.pd (predOp f.op (preg p f.pa) (preg p f.pb))) hx hs rfl
      ((decodes_plog_iff f).2 ⟨hop, hrest⟩) rfl rfl
  · have hpair : ¬(f.pd ≠ f.pe ∨ f.pd = 0) := not_or.2 ⟨not_not.2 heq, hne⟩
    obtain rfl | rfl := hi
    · refine exec_eq_raises_illegal _ (.cmp f) hx hs rfl (Bool.eq_false_iff.2 fun hd => ?_)
      obtain ⟨-, -, hok⟩ := (decodes_cmp_iff f).1 hd
      exact hpair hok
    · refine exec_eq_raises_illegal _ (.cmpi f) hx hs rfl (Bool.eq_false_iff.2 fun hd => ?_)
      obtain ⟨-, -, hok⟩ := (decodes_cmpi_iff f).1 hd
      exact hpair hok
  · refine exec_eq_raises_illegal _ (.plog f) hx hs rfl (Bool.eq_false_iff.2 fun hd => ?_)
    obtain ⟨hop, hrest⟩ := (decodes_plog_iff f).1 hd
    exact hbad.elim (fun h4 => absurd hop (Nat.not_le.2 h4)) fun hne => hne hrest

end Sys2Proof.Claims
end

section
/-! SUPPORT. How a command ends: in a state whose interrupt lines have settled, but for two commands. -/

namespace Sys2Proof.Machine

open Sys2Proof

/-- The outcome is a next state whose interrupt lines have just settled. -/
def Settles (o : Out) : Prop := ∃ t, o = .next (settleIrq t)

theorem settles_done (s : State) : Settles (done s) := ⟨_, rfl⟩

theorem settles_idle (s : State) : Settles (idle s) := ⟨s, rfl⟩

theorem seqRun_settles (i : Instr) (s : State) : Settles (seqRun i s) := by
  unfold seqRun
  dsimp only
  repeat' split
  all_goals with_reducible first | exact settles_done _ | exact settles_idle _

theorem engineRun_settles (s : State) (c e code : Nat) (body : Prog → EngOp → M Unit) : Settles (engineRun s c e code body) := by
  unfold engineRun
  repeat' split
  all_goals with_reducible first | exact settles_done _ | exact settles_idle _

theorem writerRun_settles (s : State) (c : Nat) (want : EngOp → Bool) (body : Prog → EngOp → List Word → M Unit) :
    Settles (writerRun s c want body) := by
  unfold writerRun
  repeat' split
  all_goals with_reducible first | exact settles_done _ | exact settles_idle _

theorem cfgCmd_settles (s : State) (f : State → State) : Settles (cfgCmd s f) := by
  unfold cfgCmd
  repeat' split
  all_goals with_reducible first | exact settles_done _ | exact settles_idle _

theorem regWrite_settles (rq : Requester) (k n : Nat) (val : Word) (s : State) : Settles (regWrite rq k n val s) := settles_done _

theorem inbound_settles (s : State) (p : Nat) (f : State → State) : Settles (inbound s p f) := by
  unfold inbound
  repeat' split
  all_goals with_reducible first | exact settles_done _ | exact settles_idle _

theorem answer_settles (s : State) (tag : Nat) (f : DtReq → State) : Settles (answer s tag f) := by
  unfold answer
  repeat' split
  all_goals with_reducible first | exact settles_done _ | exact settles_idle _

/-- A command that is no instruction ends with its interrupt lines settled, but for the two: it is a tree of tests that ends in `done` or
`idle`, or runs through one of the frames above. -/
theorem exec_settles_of_view_none (i : Instr) (s : State) (hv : view i = none) (h1 : ∀ src t, i ≠ .dtBeaconReceived src t)
    (h2 : ∀ off size val, i ≠ .configurationWrite off size val) : Settles (exec i s) := by
  cases i
  case dtBeaconReceived => exact absurd rfl (h1 _ _)
  case configurationWrite => exact absurd rfl (h2 _ _ _)
  case anvMma | anvRd | anvLdacc | anvAddacc | anvClr | chsAdd | chsSub | chsMul | chsFma | chsMax | chsMin | chsAbs | chsSel | chsDiv
      | chsRsqrt | chsCvt | chsQnt | chsCurve | chsRsum | chsRssq | chsRmax | chsRmin | chsRargmax | chsCld | tngGather | tngPool |
      tngScatter | tngMupd | tngStage | tngCommit | tngMigrate | tngReshard | tngTswap | tngTscrub | tngUrld | selSopen | selSpush |
      selSpushl | selSread | selPqscan | selSbest | xfrCopy | xfrFill | xfrPcopy | xfrNote =>
    dsimp only [exec, execAnvMma, execAnvRd, execAnvLdacc, execAnvAddacc, execAnvClr, execChsAdd, execChsSub, execChsMul, execChsFma,
      execChsMax, execChsMin, execChsAbs, execChsSel, execChsDiv, execChsRsqrt, execChsCvt, execChsQnt, execChsCurve, execChsRsum,
      execChsRssq, execChsRmax, execChsRmin, execChsRargmax, execChsCld, execTngGather, execTngPool, execTngScatter, execTngMupd,
      execTngStage, execTngCommit, execTngMigrate, execTngReshard, execTngTswap, execTngTscrub, execTngUrld, execSelSopen,
      execSelSpush, execSelSpushl, execSelSread, execSelPqscan, execSelSbest, execXfrCopy, execXfrFill, execXfrPcopy, execXfrNote]
    exact engineRun_settles ..
  case rowLockAcquire | veneerSlotAlloc =>
    dsimp only [exec, execRowLockAcquire, execVeneerSlotAlloc]
    exact writerRun_settles ..
  case msiEnable | msiUnmask | flrInitiate | bmeClear | bmeSet | d3hotEnter | d0Return | priReenable | doeDiscovery | getVersion |
      getCapabilities | negotiateAlgorithms | getDigests | getCertificate | challenge | getMeasurements | cdatRead | doeAbort =>
    dsimp only [exec, execMsiEnable, execMsiUnmask, execFlrInitiate, execBmeClear, execBmeSet, execD3hotEnter, execD0Return, execPriReenable,
      execDoeDiscovery, execGetVersion, execGetCapabilities, execNegotiateAlgorithms, execGetDigests, execGetCertificate,
      execChallenge, execGetMeasurements, execCdatRead, execDoeAbort]
    exact cfgCmd_settles ..
  case dtRead | dtWrite | dtLookup | dtPlookup | dtUpdate =>
    dsimp only [exec, execDtRead, execDtWrite, execDtLookup, execDtPlookup, execDtUpdate]
    exact inbound_settles ..
  case dtReadReply | dtWriteAck | dtRows | dtPartial | dtUpdateAck | dtRefuse =>
    dsimp only [exec, execDtReadReply, execDtWriteAck, execDtRows, execDtPartial, execDtUpdateAck, execDtRefuse]
    exact answer_settles ..
  case blkEnable | blkDisable | tblEpochCfgWrite | stackRefresh | keyLoad | keyZero | xltInvReq | atsInvalidationRequest | ctxFset |
      ctxAbort | intAckArm | linkUp | linkRetrain | powerOnReset | hotReset | surpriseLinkDown | bankReattach | bankDiscard | mcLoad |
      clRejoin | slotPccOn | slotPccOff | slotIndicatorWrite | fmpAttentionButton | dtRevive | dtChBind | dtChUnbind | finjGo |
      clFenceSet | clFenceLift | forceHalfWrite | pllUnlock | quenchGo | quenchRelease | traceEnable | watchArm | jtagBypass |
      jtagDbgaddr | phyRetrain | thermalExcursionEnd | refreshManagementRequest =>
    exact settles_done _
  case nop | add | sub | andR | orR | xorR | shl | shr | sar | mul | mulhu | mulhs | divu | divs | remu | rems | minS | maxS | minU |
      maxU | psel | clz | popc | bfx | bfi | addi | subi | andi | ori | xori | shli | shri | sari | muli | mulhui | mulhsi | divui |
      divsi | remui | remsi | mini | maxi | minui | maxui | movi | movk | cmp | cmpi | plog | br | bri | call | eret | ld | st | amo |
      pf | cacheZl | cacheWb | cacheWbinv | cacheInv | cacheIinv | dlock | fence | pld | pst | ftld | cbld | issue | ewait | cwait |
      csig | ctest | crd | cset | mfs | mts | preheat | strike | jigOpen | jigSeal | mark | yieldI | endTask | waitI | brk => cases hv
  all_goals
    dsimp only [exec, execRegisterWrite, execBlkDrainDone, execBlkHeldEnable, execStatusClear, execAsyncEngineFault, execStrikeSent,
      execSlipEnd, execCopyBack, execVeneerSlotFree, execTblLookupRetire, execTblEpochAdvance, execDescDrained, execPoolUnitShare,
      execEngineOpComplete, execEnginePowerOn, execEnginePowerOff, execCoreEnterC2, execCoreEnterC3, execRampTokenGrant,
      execCoreWakeDone, execLineFillDone, execWbBufferDrain, execSpadPatrolScrub, execDrawerRefresh, execDrawerSelfRefresh,
      execBar4Read, execBar4Write, execKeyEffective, execRingRequestGrant, execHomeAgentRequest, execLocationRequest, execDirRecall,
      execBirsp, execHostMemrd, execHostMemwr, execSnpdata, execSnpinv, execSnpcur, execWatchRearm, execCxlGo, execCxlGoErr,
      execCompletionTimeout, execMirrorWalkDone, execAtsCompletion, execPrgResponse, execTaskSwitchOut, execTaskSwitchIn,
      execGranuleMigrate, execXltInvDone, execCmdNop, execCmdTask, execCmdWait, execCmdSignal, execCmdCall, execTaskPlace,
      execTaskCoreStart, execCplRecordIssue, execAfterSignal, execAbortComplete, execWdogStall, execFlrComplete, execHdmDecoderCommit,
      execRomRead, execWarmReset, execReattachComplete, execBringupPllLock, execBringupConfigReady, execBringupBsmReady,
      execMcLoadDone, execBringupRun, execFmpPresenceDetect, execFmpPowerGood, execFmpLinkL0, execFmpEnumerateDone,
      execFmpStateTimeout, execFmpDrainDone, execFmpSurpriseRemoval, execFmpPowerFault, execDtHeartbeatReceived, execHeartbeatSend,
      execBeaconSend, execPeerDead, execBeaconTimeout, execSyncBeaconEdge, execDtLinkChange, execConditionReevent, execDipBegin,
      execDipRestore, execPowerSample, execThermPauseBegin, execThermTrip, execTemperMeasure, execTemperHourTick, execQuenchPin,
      execQuenchAtReached, execQuenchStop, execQuenchWindowRead, execTraceFifoDrain, execWatchCopy, execJtagDbgdata,
      execJtagDbgregCapture, execJtagDbgregUpdate, execQuenchRestart, execStoreBufferDrain, execLinkLevelRetry,
      execConditionSourceEnds, execThermalClockPause, execIoflushReadComplete, execInternalLinkDown, regWrite8]
    repeat' split
    all_goals with_reducible first | exact settles_done _ | exact settles_idle _ | exact regWrite_settles ..

/-- Every command but the two ends with its interrupt lines settled. -/
theorem exec_settles (i : Instr) (s : State) (h1 : ∀ src t, i ≠ .dtBeaconReceived src t) (h2 : ∀ off size val, i ≠ .configurationWrite off size val) :
    Settles (exec i s) := by
  cases hv : view i with
  | none => exact exec_settles_of_view_none i s hv h1 h2
  | some x =>
    rw [exec_eq_seqRun i x s hv]
    exact seqRun_settles i s

/-- The levels of INTA depend on no part of the endpoint but its configuration space and the FLR. -/
theorem intaLevel_settleInta (s : State) : intaLevel (settleInta s) = intaLevel s := by
  unfold settleInta
  repeat' split
  all_goals rfl

/-- While MSI is enabled the INTA wire stays low (R359). -/
theorem intaLevel_of_msiEn (s : State) (h : msiEn s = true) : intaLevel s = false := by simp [intaLevel, h]

theorem upstream_msi_ep (s : State) (a : Nat) (d : BitVec 16) :
    (upstream s (.msi a d)).ep.inta = s.ep.inta ∧ msiEn (upstream s (.msi a d)) = msiEn s := by
  unfold upstream
  split <;> exact ⟨rfl, rfl⟩

/-- An MSI changes neither the wire nor MSI's enable. -/
theorem settleMsi_inta (s : State) : (settleMsi s).ep.inta = s.ep.inta ∧ msiEn (settleMsi s) = msiEn s := by
  unfold settleMsi
  dsimp only
  split
  · split
    · exact ⟨rfl, rfl⟩
    · exact upstream_msi_ep ..
  · exact ⟨rfl, rfl⟩

/-- Once the interrupt lines have settled, INTA has its level: MSI acts only while it is enabled, when the level is 0. -/
theorem inta_settleIrq (s : State) : (settleIrq s).ep.inta = intaLevel (settleIrq s) := by
  have hinta : (settleIrq s).ep.inta = intaLevel (settleInta s) := by
    rw [settleIrq, (settleMsi_inta _).1, settleInta_inta, intaLevel_settleInta]
  cases hm : msiEn (settleInta s) with
  | true =>
    rw [hinta, intaLevel_of_msiEn _ hm, intaLevel_of_msiEn (settleIrq s) ((settleMsi_inta _).2.trans hm)]
  | false =>
    have hid : settleIrq s = settleInta s := by simp [settleIrq, settleMsi, hm]
    rw [hinta, hid]

/-- Every command ends with its interrupt lines settled, or is one of the two that stop. -/
theorem exec_cases (i : Instr) (s : State) : Settles (exec i s)
    ∨ (∃ src t, i = .dtBeaconReceived src t ∧ dtOn s = true ∧ isManager s = true ∧ exec i s = .fault .secondManager)
    ∨ (∃ off size val, i = .configurationWrite off size val ∧ 0x400 ≤ off ∧ exec i s = .refused .ioDieConfiguration) := by
  by_cases h1 : ∃ src t, i = .dtBeaconReceived src t
  · obtain ⟨src, t, rfl⟩ := h1
    by_cases hm : dtOn s = true ∧ isManager s = true
    · exact .inr (.inl ⟨src, t, rfl, hm.1, hm.2, by simp [exec, execDtBeaconReceived, hm]⟩)
    · left
      rw [exec, execDtBeaconReceived]
      repeat' split
      · exact settles_idle _
      · next h2 h3 => exact absurd ⟨by simpa using h2, h3⟩ hm
      · exact settles_done _
      · exact settles_done _
  · by_cases h2 : ∃ off size val, i = .configurationWrite off size val
    · obtain ⟨off, size, val, rfl⟩ := h2
      rw [exec, execConfigurationWrite]
      split
      · exact .inl (settles_idle _)
      · split
        · next hc => exact .inr (.inr ⟨off, size, val, rfl, by simp at hc; exact hc.2, rfl⟩)
        · exact .inl (cfgCmd_settles ..)
    · exact .inl (exec_settles i s (fun src t h => h1 ⟨src, t, h⟩) fun off size val h => h2 ⟨off, size, val, h⟩)

/-- A next state is one whose interrupt lines have settled. -/
theorem settled_of_exec (i : Instr) (s t : State) (h : exec i s = .next t) : ∃ u, t = settleIrq u := by
  obtain ⟨u, hu⟩ | ⟨_, _, _, _, _, hu⟩ | ⟨_, _, _, _, _, hu⟩ := exec_cases i s
  · exact ⟨u, by simpa using h.symm.trans hu⟩
  · simp [hu] at h
  · simp [hu] at h

end Sys2Proof.Machine
end

section
/-! PROOFS. The obligations on the whole complex. -/

namespace Sys2Proof.Claims

open Sys2Proof.Machine

/-- Settles O57: every step ends by settling the interrupt lines, after which the wire has its level. -/
theorem interruptLineFollowsItsSources : Obligations.InterruptLineFollowsItsSources := by
  refine ⟨fun s t h => ?_, fun s t i h hi => ?_⟩
  · unfold step at h
    split at h
    · cases h
      exact inta_settleIrq _
    · obtain ⟨u, rfl⟩ := settled_of_exec _ _ t h
      exact inta_settleIrq u
  · obtain ⟨u, rfl⟩ := settled_of_exec i s t h
    rw [inta_settleIrq] at hi
    simp only [intaLevel, Bool.and_eq_true, Bool.not_eq_true'] at hi
    obtain ⟨⟨⟨hm, hq⟩, hd⟩, hf⟩ := hi
    exact ⟨hm, hd, hf, hq⟩

/-- Settles O58: every other command is a tree of tests whose leaves are next states. -/
theorem onlyTwoCommandsStop : Obligations.OnlyTwoCommandsStop := by
  intro s i
  obtain ⟨t, ht⟩ | hb | hc := exec_cases i s
  · exact .inl ⟨_, ht⟩
  · exact .inr (.inl hb)
  · exact .inr (.inr hc)

end Sys2Proof.Claims
end

section
/-! SUPPORT. An engine's command: what it does with the operation that is ready, and how an operation that its checks reject ends. -/

namespace Sys2Proof.Machine

open Sys2Proof

variable {s : State} {c e code : Nat} {p : Prog} {op : EngOp}

/-- The command performs the work of the operation that is ready. -/
theorem engineRun_ready (body : Prog → EngOp → M Unit) (hr : EngineReady s c e code p op) :
    engineRun s c e code body = done (match body p op s with
      | .ok _ t => engineParity (engineEnd c e op (.ok () t)) p c e op
      | r => engineEnd c e op r) := by
  obtain ⟨hup, hp, hn, hh, hst, hc, hpar⟩ := hr
  simp only [engineRun, hup, hp, hn, hh, hst, hc, hpar, M_run]
  rfl

/-- It runs to its end. -/
theorem engineRun_ok (body : Prog → EngOp → M Unit) (hr : EngineReady s c e code p op) {t : State} (hb : body p op s = .ok () t) :
    engineRun s c e code body = after (ranTo t p c e op) := by
  rw [engineRun_ready body hr, hb]
  rfl

theorem opcode_of_engineReady (hr : EngineReady s c e code p op) : opcodeOf op = code := by
  obtain ⟨-, -, -, -, -, hcode, -⟩ := hr
  exact hcode

/-- It stops. -/
theorem engineRun_error (body : Prog → EngOp → M Unit) (hr : EngineReady s c e code p op) {x : Stop} {t : State} (hb : body p op s = .error x t) :
    engineRun s c e code body = after (engineEnd c e op (.error x t)) := by
  rw [engineRun_ready body hr, hb]
  rfl

/-- A check that fails rejects the operation, here one of an engine with numeric events. -/
theorem require'_false (h : e < 3) : require' c e false s = .error (.exc 6 7 0 0) (numEvent s c e 128) := by
  simp [require', rejectFmt, h, rejectNum]

theorem require'_true : require' c e true s = .ok () s := rfl

end Sys2Proof.Machine
end

section
/-! SUPPORT. Exact sums: a contribution is an accumulator of its own, and accumulators add in any order and grouping (R74, R75). -/

namespace Sys2Proof.Machine

/-- A contribution joins as the partial that it alone makes. -/
theorem accAdd_eq_accMerge (a : Acc) (x : Num) : accAdd a x = accMerge a (accAdd accZero x) := by
  cases x <;> simp [accAdd, accMerge, accZero]

theorem accMerge_comm (a b : Acc) : accMerge a b = accMerge b a := by
  simp [accMerge, BitVec.add_comm, Bool.or_comm, Nat.add_comm]

theorem accMerge_assoc (a b d : Acc) : accMerge (accMerge a b) d = accMerge a (accMerge b d) := by
  simp [accMerge, BitVec.add_assoc, Bool.or_assoc, Nat.add_assoc]

theorem accMerge_zero (a : Acc) : accMerge a accZero = a := by
  simp [accMerge, accZero]

theorem accAdd_right_comm (a : Acc) (x y : Num) : accAdd (accAdd a x) y = accAdd (accAdd a y) x := by
  rw [accAdd_eq_accMerge (accAdd a x), accAdd_eq_accMerge a, accAdd_eq_accMerge (accAdd a y), accAdd_eq_accMerge a y,
    accMerge_assoc, accMerge_assoc, accMerge_comm (accAdd accZero x)]

/-- R74: the order of the contributions does not matter. -/
theorem foldl_accAdd_perm (a : Acc) {xs ys : List Num} (h : xs.Perm ys) : xs.foldl accAdd a = ys.foldl accAdd a :=
  h.foldl_eq' (fun x _ y _ z => accAdd_right_comm z x y) a

/-- R75: a partial joins as its contributions would. -/
theorem accMerge_foldl (a : Acc) (ys : List Num) : accMerge a (ys.foldl accAdd accZero) = ys.foldl accAdd a := by
  suffices h : ∀ b, accMerge a (ys.foldl accAdd b) = ys.foldl accAdd (accMerge a b) by
    rw [h, accMerge_zero]
  intro b
  induction ys generalizing b with
  | nil => rfl
  | cons y ys ih =>
    rw [List.foldl_cons, ih, List.foldl_cons, accAdd_eq_accMerge b, accAdd_eq_accMerge (accMerge a b), accMerge_assoc]

/-- The formats of 16 bits are none of exact products (R79). -/
theorem not_ordered_of_exactFmt (user : SMap Word) (n m : Nat) (h : exactFmt (fmtEntry user n) = true) :
    (decide (n = m) && (decide (n = 1) || decide (n = 2))) = false := by
  have h1 : n ≠ 1 := by
    rintro rfl
    exact absurd h (by simp [fmtEntry, fixedFmts, fmtBf16, fmtFloat, exactFmt])
  have h2 : n ≠ 2 := by
    rintro rfl
    exact absurd h (by simp [fmtEntry, fixedFmts, fmtFp16, fmtFloat, exactFmt])
  simp [h1, h2]

end Sys2Proof.Machine
end

section
/-! PROOFS. The obligation on exact sums. -/

namespace Sys2Proof.Claims

open Sys2Proof.Machine

/-- Settles O31: every contribution is a partial, partials add commutatively and associatively, and the second check of MMA rejects a
range that ends inside a block. -/
theorem exactSumIsOrderIndependent : Obligations.ExactSumIsOrderIndependent := by
  refine ⟨fun a xs ys h => foldl_accAdd_perm a h, fun a xs ys zs h => ?_, fun s k p op w0 hr hw hd ha hb hua hub hk => ?_⟩
  · rw [accMerge_foldl, ← List.foldl_append]
    exact foldl_accAdd_perm a h
  · subst hw
    have hord := not_ordered_of_exactFmt op.fmts _ (fld (wordAt op.desc 0) 50 46) ha
    have hbody : (do modify fun s => if p.injig then applySlips s k.val [] else s
                     anvMma k.val p op : M Unit) s = .error (.exc 6 7 0 0) (numEvent s k.val 0 128) := by
      have hs : (if p.injig then applySlips s k.val [] else s) = s := ite_self _
      simp only [M_bind, M_modify, hs]
      simp only [anvMma, M_bind, hd, hua, hub, ha, hb, hord, Bool.and_self, Bool.or_true, require'_true, Bool.false_eq_true,
        if_false, hk, decide_false, require'_false (show (0 : Nat) < 3 by decide)]
    exact engineRun_error (fun p op => do
      modify fun s => if p.injig then applySlips s k.val [] else s
      anvMma k.val p op) hr hbody |>.trans (by rw [engineEnd, opcode_of_engineReady hr])

end Sys2Proof.Claims
end

section
/-! SUPPORT. The passing of time: what 5 ns change beside the clocks, the registers and the clusters is the region cycles of cores inside a
region. -/

namespace Sys2Proof.Machine

/-- Core `k` runs no task inside a region. -/
def OutOfRegion (s : State) (k : Nat) : Prop := ∀ p, prog? s k = some p → p.injig = false

/-- `t` has the time, the memory and the queues of `s`, and its cores that are outside a region. -/
def RegionsOnly (s t : State) : Prop :=
  t.stc = s.stc ∧ t.mem = s.mem ∧ t.poison = s.poison ∧ t.pending = s.pending ∧ t.atsInv = s.atsInv ∧ ∀ k, OutOfRegion s k → core t k = core s k

variable {s t u : State}

theorem RegionsOnly.refl (s : State) : RegionsOnly s s := ⟨rfl, rfl, rfl, rfl, rfl, fun _ _ => rfl⟩

theorem RegionsOnly.trans (h : RegionsOnly s t) (g : RegionsOnly t u) : RegionsOnly s u := by
  obtain ⟨h1, h2, h3, h4, h5, h6⟩ := h
  obtain ⟨g1, g2, g3, g4, g5, g6⟩ := g
  refine ⟨g1.trans h1, g2.trans h2, g3.trans h3, g4.trans h4, g5.trans h5, fun k hk => ?_⟩
  have hk' : OutOfRegion t k := fun p hp => hk p (by rw [← hp, prog?, prog?, h6 k hk])
  rw [g6 k hk', h6 k hk]

theorem regionsOnly_foldl {α : Type} {f : State → α → State} (hf : ∀ t a, RegionsOnly t (f t a)) (l : List α) (s : State) :
    RegionsOnly s (l.foldl f s) := by
  induction l generalizing s with
  | nil => exact .refl s
  | cons a l ih => exact (hf s a).trans (ih _)

theorem regionsOnly_pauseCluster (n cl : Nat) : RegionsOnly s (pauseCluster n s cl) := by
  unfold pauseCluster
  dsimp only
  split <;> exact .refl s

/-- A change of a program inside a region. -/
theorem regionsOnly_updProg (c : Nat) (f : Prog → Prog) (p : Prog) (hp : prog? s c = some p) (hj : p.injig = true) :
    RegionsOnly s (updProg s c f) := by
  rw [updProg_run s c f p hp]
  refine ⟨rfl, rfl, rfl, rfl, rfl, fun k hk => core_setCore_other s c k _ _ rfl ?_⟩
  rintro rfl
  rw [hk p hp] at hj
  cases hj

theorem regionsOnly_countCore (m j c : Nat) : RegionsOnly s (countCore m j s c) := by
  unfold countCore
  dsimp only
  cases hp : prog? s c with
  | none => exact .refl s
  | some p =>
    dsimp only
    set t := if (queue p 0).isEmpty = true then ctxCtr (coreCtr s c 0 (m - j)) p.ctx 8 (m - j)
      else coreCtr (ctxCtr (coreCtr s c 0 (m - j)) p.ctx 8 (m - j)) c 1 (m - j) with ht
    have h1 : RegionsOnly s t ∧ prog? t c = some p := by rw [ht]; split <;> exact ⟨.refl s, hp⟩
    set u := if (queue p 1).isEmpty = true then t else coreCtr t c 3 (m - j) with hu
    obtain ⟨h2, hpu⟩ : RegionsOnly s u ∧ prog? u c = some p := by rw [hu]; split <;> exact h1
    split
    next hj => exact h2.trans (regionsOnly_updProg c _ p hpu hj)
    next => exact h2

/-- STC after 5 ns. -/
def stcNext (s : State) : Word := if s.stcRun then s.stc + (if s.slew = 0 then 5 else if 0 < s.slew then 6 else 4) else s.stc

theorem regionsOnly_noteSync : RegionsOnly s (noteSync s) := by
  unfold noteSync
  split <;> exact .refl s

theorem regionsOnly_advanceTime : RegionsOnly { s with stc := stcNext s } (advanceTime s) := by
  unfold advanceTime stcNext
  split
  · exact regionsOnly_noteSync
  · exact .refl s

theorem regionsOnly_tick : RegionsOnly { s with stc := stcNext s } (tick s) := by
  unfold tick
  dsimp only
  split
  · exact regionsOnly_advanceTime
  · exact (regionsOnly_advanceTime.trans (regionsOnly_foldl (fun _ _ => regionsOnly_countCore _ _ _) _ _)).trans
      (regionsOnly_foldl (fun _ _ => regionsOnly_pauseCluster _ _) _ _)

/-- With no rail lost and no invalidation of the host open, an idle step is the 5 ns alone. -/
theorem idlePass_eq_tick (hi : s.atsInv = []) (hr : railLost (tick s) = false) : idlePass s = tick s := by
  obtain ⟨-, -, -, -, hat, -⟩ := regionsOnly_tick (s := s)
  simp [idlePass, passTime, railCheck, hr, serveAtsInv, hat, hi]

theorem step_nil (h : s.pending = []) : step s = .next (settleIrq (idlePass s)) := by
  simp only [step, h]

theorem step_cons (c : Instr) (q : List Instr) (h : s.pending = c :: q) : step s = exec c { s with pending := q } := by
  simp only [step, h]

end Sys2Proof.Machine
end

section
/-! SUPPORT. Reset values: the fields of every register are disjoint, so that each holds its own reset value, and every defined register
lies inside its block's window. -/

namespace Sys2Proof.Machine

/-- Each field lies below the one before it, below bit `n`. -/
def descending : Nat → List FieldDef → Bool
  | _, [] => true
  | n, f :: fs => decide (f.hi < n) && decide (f.lo ≤ f.hi) && descending f.lo fs

/-- The fields of a register at offset `o` are disjoint, and where it has any it lies below `n`. -/
def TableRow (n o : Nat) (fs : List FieldDef) : Prop := descending 64 fs = true ∧ (fs ≠ [] → o < n)

theorem flag_place (hi lo v i : Nat) (h : i < 64) :
    flag (place hi lo v) i = decide (lo ≤ i ∧ i ≤ hi ∧ v.testBit (i - lo) = true) := by
  rw [Bool.eq_iff_iff]
  simp only [flag, place, BitVec.getLsbD_ofNat, Nat.testBit_shiftLeft, Nat.testBit_mod_two_pow, Bool.and_eq_true, decide_eq_true_eq]
  constructor
  · rintro ⟨-, h1, h2, h3⟩
    exact ⟨h1, by omega, h3⟩
  · rintro ⟨h1, h2, h3⟩
    exact ⟨h, h1, by omega, h3⟩

/-- The reset value of a register has the bits of its fields' reset values. -/
theorem flag_fieldsReset (fs : List FieldDef) (i : Nat) (h : i < 64) :
    flag (fieldsReset fs) i = true ↔ ∃ f ∈ fs, f.lo ≤ i ∧ i ≤ f.hi ∧ f.rst.testBit (i - f.lo) = true := by
  suffices H : ∀ w : Word, flag (fs.foldl (fun w f => w ||| place f.hi f.lo f.rst) w) i = true
      ↔ flag w i = true ∨ ∃ f ∈ fs, f.lo ≤ i ∧ i ≤ f.hi ∧ f.rst.testBit (i - f.lo) = true by
    simpa [fieldsReset, flag] using H 0
  induction fs with
  | nil => simp
  | cons f fs ih =>
    intro w
    have hor : flag (w ||| place f.hi f.lo f.rst) i = true ↔ flag w i = true ∨ f.lo ≤ i ∧ i ≤ f.hi ∧ f.rst.testBit (i - f.lo) = true := by
      rw [show flag (w ||| place f.hi f.lo f.rst) i = (flag w i || flag (place f.hi f.lo f.rst) i) from BitVec.getLsbD_or,
        flag_place f.hi f.lo f.rst i h]
      simp
    rw [List.foldl_cons, ih, hor]
    simp [or_assoc]

theorem fld_place (hi lo v : Nat) (h : hi < 64) : fld (place hi lo v) hi lo = v % 2 ^ (hi + 1 - lo) := by
  refine Nat.eq_of_testBit_eq fun j => ?_
  simp only [fld, bitsN, Nat.testBit_mod_two_pow, Nat.testBit_shiftRight, BitVec.testBit_toNat]
  by_cases hj : j < hi + 1 - lo
  · have hp := flag_place hi lo v (lo + j) (by omega)
    rw [flag, Nat.add_sub_cancel_left] at hp
    rw [hp]
    simp [show lo + j ≤ hi by omega]
  · simp [hj]

theorem lt_of_descending {n : Nat} {fs : List FieldDef} (h : descending n fs = true) {f : FieldDef} (hf : f ∈ fs) : f.hi < n ∧ f.lo ≤ f.hi := by
  induction fs generalizing n with
  | nil => cases hf
  | cons g fs ih =>
    simp only [descending, Bool.and_eq_true, decide_eq_true_eq] at h
    obtain ⟨⟨h1, h2⟩, h3⟩ := h
    rcases List.mem_cons.1 hf with rfl | hf
    · exact ⟨h1, h2⟩
    · obtain ⟨i1, i2⟩ := ih h3 hf
      exact ⟨by omega, i2⟩

/-- Two fields with a bit in common are the same. -/
theorem eq_of_descending {n : Nat} {fs : List FieldDef} (h : descending n fs = true) {f g : FieldDef} (hf : f ∈ fs) (hg : g ∈ fs) (i : Nat)
    (hfi : f.lo ≤ i ∧ i ≤ f.hi) (hgi : g.lo ≤ i ∧ i ≤ g.hi) : f = g := by
  induction fs generalizing n with
  | nil => cases hf
  | cons e fs ih =>
    simp only [descending, Bool.and_eq_true, decide_eq_true_eq] at h
    obtain ⟨-, h3⟩ := h
    rcases List.mem_cons.1 hf with ef | hf' <;> rcases List.mem_cons.1 hg with eg | hg'
    · rw [ef, eg]
    · subst ef
      have := lt_of_descending h3 hg'
      omega
    · subst eg
      have := lt_of_descending h3 hf'
      omega
    · exact ih h3 hf' hg'

/-- Each field of a register of disjoint fields resets to its own value. -/
theorem fld_fieldsReset {fs : List FieldDef} (h : descending 64 fs = true) {f : FieldDef} (hf : f ∈ fs) :
    fld (fieldsReset fs) f.hi f.lo = f.rst % 2 ^ (f.hi + 1 - f.lo) := by
  obtain ⟨hhi, -⟩ := lt_of_descending h hf
  rw [← fld_place f.hi f.lo f.rst hhi]
  refine fld_congr _ _ _ _ fun i h1 h2 h3 => ?_
  rw [Bool.eq_iff_iff, flag_fieldsReset fs i h3, flag_place _ _ _ _ h3, decide_eq_true_eq]
  constructor
  · rintro ⟨g, hg, g1, g2, g3⟩
    obtain rfl := eq_of_descending h hf hg i ⟨h1, h2⟩ ⟨g1, g2⟩
    exact ⟨g1, g2, g3⟩
  · exact fun hb => ⟨f, hf, hb⟩

theorem tableRow_nil (n o : Nat) : TableRow n o [] := ⟨rfl, fun h => absurd rfl h⟩

theorem TableRow.mono {n m o : Nat} {fs : List FieldDef} (h : TableRow n o fs) (hm : n ≤ m) : TableRow m o fs :=
  ⟨h.1, fun hne => (h.2 hne).trans_le hm⟩

/-- An offset in an array of registers lies below its end. -/
theorem tableRow_arr {o b st n m : Nat} {fs : List FieldDef} (h : (arr o b st n).isSome = true) (hs : 0 < st) (hm : b + st * n ≤ m)
    (hd : descending 64 fs = true) : TableRow m o fs := by
  refine ⟨hd, fun _ => ?_⟩
  unfold arr at h
  split at h
  next hc =>
    obtain ⟨h1, h2, h3⟩ := hc
    have h4 := Nat.div_add_mod (o - b) st
    have h5 : st * ((o - b) / st) < st * n := Nat.mul_lt_mul_of_pos_left h3 hs
    omega
  next => cases h

theorem tableRow_hdrFields (o : Nat) : TableRow 0x19 o (hdrFields o) := by
  unfold hdrFields
  split
  case h_5 => exact tableRow_nil _ _
  all_goals exact ⟨rfl, fun _ => by decide⟩

theorem tableRow_gfeFields (o : Nat) : TableRow 0x10000 o (gfeFields o) := by
  unfold gfeFields
  split
  case h_20 =>
    split
    next h =>
      rcases Bool.or_eq_true_iff.1 h with h | h
      · exact tableRow_arr h (by decide) (by decide) rfl
      · exact tableRow_arr h (by decide) (by decide) rfl
    next => exact tableRow_nil _ _
  all_goals exact ⟨rfl, fun _ => by decide⟩

theorem tableRow_componentFields (o : Nat) : TableRow 0x100000 o (componentFields o) := by
  unfold componentFields
  split_ifs with h1 h2 h3 h4 h5
  · rcases h1 with rfl | rfl | rfl | h1
    iterate 3 exact ⟨rfl, fun _ => by decide⟩
    exact tableRow_arr h1 (by decide) (by decide) rfl
  · exact ⟨rfl, fun _ => by omega⟩
  · exact ⟨rfl, fun _ => by omega⟩
  · exact ⟨rfl, fun _ => by omega⟩
  · exact ⟨rfl, fun _ => by omega⟩
  · exact tableRow_nil _ _

theorem tableRow_epFields (o : Nat) : TableRow 0x100000 o (epFields o) := by
  unfold epFields
  split
  case h_13 =>
    split_ifs with h1 h2 h3
    · exact tableRow_arr h1 (by decide) (by decide) rfl
    · exact tableRow_arr h2 (by decide) (by decide) rfl
    · exact tableRow_arr h3 (by decide) (by decide) rfl
    · exact tableRow_componentFields o
  all_goals exact ⟨rfl, fun _ => by decide⟩

theorem tableRow_pwrFields (o : Nat) : TableRow 0x100000 o (pwrFields o) := by
  unfold pwrFields
  split
  case h_13 =>
    split
    next h => exact tableRow_arr (Option.isSome_of_eq_some h) (by decide) (by decide) rfl
    next => exact tableRow_nil _ _
  all_goals exact ⟨rfl, fun _ => by decide⟩

theorem tableRow_dbgFields (o : Nat) : TableRow 0x100000 o (dbgFields o) := by
  unfold dbgFields
  split
  case h_14 =>
    split_ifs with h1 h2 h3 h4 h5
    · exact tableRow_arr h1 (by decide) (by decide) rfl
    · exact tableRow_arr h2 (by decide) (by decide) rfl
    · exact tableRow_arr h3 (by decide) (by decide) rfl
    · exact tableRow_arr h4 (by decide) (by decide) rfl
    · exact tableRow_arr h5 (by decide) (by decide) rfl
    · split
      next h =>
        split
        · exact tableRow_arr (Option.isSome_of_eq_some h) (by decide) (by decide) rfl
        · exact tableRow_nil _ _
      next => exact tableRow_nil _ _
  all_goals exact ⟨rfl, fun _ => by decide⟩

theorem tableRow_fmpFields (n o : Nat) : TableRow 0x10000 o (fmpFields n o) := by
  unfold fmpFields
  split
  case h_7 => exact tableRow_nil _ _
  all_goals exact ⟨rfl, fun _ => by decide⟩

theorem tableRow_dtFields (o : Nat) : TableRow 0x100000 o (dtFields o) := by
  unfold dtFields
  split
  case h_7 =>
    split_ifs with h1 h2 h3 h4 h5 h6 h7 h8 h9
    · exact tableRow_arr h1 (by decide) (by decide) rfl
    · exact tableRow_arr h2 (by decide) (by decide) rfl
    · exact tableRow_arr h3 (by decide) (by decide) rfl
    · exact tableRow_arr h4 (by decide) (by decide) rfl
    · exact tableRow_arr h5 (by decide) (by decide) rfl
    · exact tableRow_arr h6 (by decide) (by decide) rfl
    · exact tableRow_arr h7 (by decide) (by decide) rfl
    · exact tableRow_arr h8 (by decide) (by decide) rfl
    · exact tableRow_arr h9 (by decide) (by decide) rfl
    · exact tableRow_nil _ _
  all_goals exact ⟨rfl, fun _ => by decide⟩

theorem tableRow_clusterFields (o : Nat) : TableRow 0x10000 o (clusterFields o) := by
  unfold clusterFields
  split
  case h_9 =>
    split
    next h =>
      rcases Bool.or_eq_true_iff.1 h with h | h
      · exact tableRow_arr h (by decide) (by decide) rfl
      · exact tableRow_arr h (by decide) (by decide) rfl
    next => exact tableRow_nil _ _
  all_goals exact ⟨rfl, fun _ => by decide⟩

theorem tableRow_coreFields (o : Nat) : TableRow 0x10000 o (coreFields o) := by
  unfold coreFields
  split
  case h_19 =>
    split_ifs with h1 h2
    · exact tableRow_arr h1 (by decide) (by decide) rfl
    · rcases Bool.or_eq_true_iff.1 h2 with h | h
      · exact tableRow_arr h (by decide) (by decide) rfl
      · exact tableRow_arr h (by decide) (by decide) rfl
    · exact tableRow_nil _ _
  all_goals exact ⟨rfl, fun _ => by decide⟩

theorem tableRow_ctxFields (o : Nat) : TableRow 0x10000 o (ctxFields o) := by
  unfold ctxFields
  split
  case h_21 =>
    split_ifs with h1 h2 h3 h4
    · exact tableRow_arr h1 (by decide) (by decide) rfl
    · exact tableRow_arr h2 (by decide) (by decide) rfl
    · exact tableRow_arr h3 (by decide) (by decide) rfl
    · exact tableRow_arr h4 (by decide) (by decide) rfl
    · exact tableRow_nil _ _
  all_goals exact ⟨rfl, fun _ => by decide⟩

theorem tableRow_faultFields (b : Blk) (o : Nat) : TableRow 0x10000 o (faultFields b o) := by
  unfold faultFields
  split
  case h_8 =>
    split_ifs with h1 h2 h3
    · exact tableRow_arr h1 (by decide) (by decide) rfl
    · exact tableRow_arr h2 (by decide) (by decide) rfl
    · split
      next h => exact tableRow_arr (Option.isSome_of_eq_some h) (by decide) (by decide) rfl
      next => exact tableRow_arr h3 (by decide) (by decide) rfl
    · split
      next h => exact tableRow_arr (Option.isSome_of_eq_some h) (by decide) (by decide) rfl
      next => exact tableRow_nil _ _
  all_goals exact ⟨rfl, fun _ => by decide⟩

/-- Every register of a block: its fields are disjoint, and it lies inside its block's window. -/
theorem tableRow_regFields (b : Blk) (o : Nat) : TableRow (blkSize b) o (regFields b o) := by
  have hsize : 0x10000 ≤ blkSize b := by cases b <;> simp [blkSize]
  have hhdr : TableRow (blkSize b) o (if o < hdrOff b then [] else hdrFields (o - hdrOff b)) := by
    split
    next => exact tableRow_nil _ _
    next =>
      obtain ⟨hd, hlt⟩ := tableRow_hdrFields (o - hdrOff b)
      have hoff : hdrOff b ≤ 0x8000 := by cases b <;> simp [hdrOff]
      exact ⟨hd, fun hne => by have := hlt hne; omega⟩
  have hflt := (tableRow_faultFields b o).mono hsize
  unfold regFields
  split
  next h => rwa [h] at hhdr
  next =>
    cases hff : faultFields b o with
    | cons f fs =>
      rw [hff] at hflt
      cases b with
      | ctx _ => exact (tableRow_ctxFields o).mono hsize
      | _ => simpa only [hff] using hflt
    | nil =>
      cases b with
      | ctx _ => exact (tableRow_ctxFields o).mono hsize
      | gfe => simpa only [hff] using (tableRow_gfeFields o).mono hsize
      | ep => simpa only [hff, blkSize] using tableRow_epFields o
      | pwr => simpa only [hff, blkSize] using tableRow_pwrFields o
      | dbg => simpa only [hff, blkSize] using tableRow_dbgFields o
      | fmp n => simpa only [hff] using (tableRow_fmpFields n.val o).mono hsize
      | dt => simpa only [hff, blkSize] using tableRow_dtFields o
      | cluster _ => simpa only [hff] using (tableRow_clusterFields o).mono hsize
      | core _ => simpa only [hff] using (tableRow_coreFields o).mono hsize
      | stack _ => simpa only [hff] using tableRow_nil _ _
      | drawer _ => simpa only [hff] using tableRow_nil _ _

/-- A register of the state at reset holds its fields' reset values. -/
theorem reg_reset (b : Blk) (o : Nat) (h : o < blkSize b) : reg State.reset b o = fieldsReset (regFields b o) := by
  have hl : locate (rk b o) = some (b, o) := locate_rk b o (by cases b <;> exact h)
  change regDefault (rk b o) = _
  rw [regDefault, hl]

/-- Every field resets to its Reset column. -/
theorem rf_reset (b : Blk) (o : Nat) (f : FieldDef) (hf : f ∈ regFields b o) :
    rf State.reset b o f.hi f.lo = f.rst % 2 ^ (f.hi + 1 - f.lo) := by
  obtain ⟨hd, hlt⟩ := tableRow_regFields b o
  rw [rf, reg_reset b o (hlt (List.ne_nil_of_mem hf)), fld_fieldsReset hd hf]

/-- Every block is disabled and idle at reset. -/
theorem idle_reset (b : Blk) : blkEn State.reset b = false ∧ rbit State.reset b (hdrOff b + 8) 0 = true := by
  have hsize : 0x10000 ≤ blkSize b := by cases b <;> simp [blkSize]
  have hoff : hdrOff b ≤ 0x8000 := by cases b <;> simp [hdrOff]
  have h0 : regFields b (hdrOff b) = hdrFields 0 := by simp [regFields, hdrFields]
  have h8 : regFields b (hdrOff b + 8) = hdrFields 8 := by simp [regFields, hdrFields]
  constructor
  · rw [blkEn, rbit, reg_reset b _ (by omega), h0]
    rfl
  · rw [rbit, reg_reset b _ (by omega), h8]
    rfl

end Sys2Proof.Machine
end

section
/-! PROOFS. The obligations of tier 1: a step, an idle step, and the state at reset. -/

namespace Sys2Proof.Claims

open Sys2Proof.Machine

/-- Settles O1. -/
theorem stepRunsFrontCommand : Obligations.StepRunsFrontCommand := fun c q _ h => step_cons c q h

/-- Settles O2: 5 ns change the counters and the cores inside a region, and with no rail lost nothing else runs. -/
theorem idleStepAdvancesTime : Obligations.IdleStepAdvancesTime := by
  intro s hq hi hr _
  obtain ⟨hstc, hmem, hpoi, hpend, -, hcore⟩ := regionsOnly_tick (s := s)
  refine ⟨_, by rw [step_nil hq, idlePass_eq_tick hi hr], ?_, fun k hk => ?_, ?_, ?_, ?_⟩
  · rw [settleIrq_eq]
    exact hstc
  · rw [Machine.core, settleIrq_cores]
    exact hcore k hk
  · rw [settleIrq_mem, hmem]
  · rw [settleIrq_poison, hpoi]
  · rw [settleIrq_pending, hpend]
    exact hq

/-- Settles O60: the fields of every register are disjoint, so each holds its own reset value; the other parts of the state are empty. -/
theorem resetState : Obligations.ResetState := by
  refine ⟨idle_reset, rf_reset, ?_, ?_, ?_, ?_, ?_, rfl, fun c => ⟨rfl, rfl, rfl⟩, fun k => rfl, rfl, rfl, rfl, rfl, ?_, rfl, rfl, rfl, fun a => rfl⟩
  all_goals decide +kernel

end Sys2Proof.Claims
end

section
/-! SUPPORT. The ends of an instruction alone in its bundle: it issues, it has no effect, it raises an exception, its region aborts, or it
waits. Each takes what the instruction's effect does and gives what its command answers. -/

namespace Sys2Proof.Machine

open Sys2Proof

variable {s : State} {h : Hdr} {p : Prog} {i : Instr} {o : SOp}

/-- Where its word is of the list and decodes, an instruction whose predicate holds is performed by its effect, in a region only if it may
stand there. -/
theorem perform_of_decodes (hs : Spells s h p i) (hd : decodes o = true) (hq : qualified p h = true) (hj : p.injig = true → notInJig o = false)
    (t : State) : perform h.core.val (coreBefore s h i p) (noWait p) p.pc.toNat (p.pc.toNat + 8) 0 (h, o) t
      = effect h.core.val (coreBefore s h i p) (noWait p) p.pc.toNat (p.pc.toNat + 8) o t := by
  have hq' : qualified (noWait p) h = true := hq
  have hj' : ((noWait p).injig && notInJig o) = false := by
    cases hg : (noWait p).injig
    · rfl
    · exact hj hg
  have hl : listedAt (coreBefore s h i p) (noWait p) (p.pc.toNat + 8 * 0) = true := listedAt_spells i hs
  simp only [perform, hl, hd, hq', hj', Bool.not_true, Bool.or_false, Bool.false_eq_true, if_false, if_true]

theorem exec_eq_completes (t : State) (hx : Executes s h p) (hs : Spells s h p i) (hv : view i = some (h, o)) (hd : decodes o = true)
    (hj : p.injig = true → notInJig o = false)
    (he : effect h.core.val (coreBefore s h i p) (noWait p) p.pc.toNat (p.pc.toNat + 8) o (fetched s h i p) = .ok () t) :
    exec i s = completes h t := by
  rw [exec_eq_seqRun i _ s hv, seqRun_single i o t hx hs hv hd hj he]
  rfl

/-- An instruction whose predicate is false has no effect (R168). -/
theorem exec_of_not_qualified (hx : Issues s h p) (hs : Spells s h p i) (hv : view i = some (h, o)) (hd : decodes o = true)
    (hq : (preg p h.qp ^^ h.qn) = false) : exec i s = becomes s h (atIssue p) := by
  have hq' : qualified (noWait p) h = false := hq
  have hl : listedAt (coreBefore s h i p) (noWait p) (p.pc.toNat + 8 * 0) = true := listedAt_spells i hs
  rw [exec_eq_seqRun i _ s hv, seqRun_performed i o (fetched s h i p) hx hs hv (by
    simp only [perform, hl, hd, hq', Bool.not_true, Bool.or_false, Bool.false_eq_true, if_false]
    rfl)]
  exact congrArg done (bundleDone_prog i (atIssue p))

theorem keepChecks_begun (t : State) (hr : t.raised = s.raised) (hi : t.inject = s.inject) : keepChecks (begun s h i p) t = begun s h i p :=
  keepChecks_of_none _ t hr hi

theorem keepChecks_self : keepChecks s s = s := keepChecks_of_none s s rfl rfl

theorem bundleFault_exc (t : State) (ca nextPc n code sub ea d : Nat) (hr : t.raised = s.raised) (hi : t.inject = s.inject) (h7 : code ≠ 7) :
    bundleFault (begun s h i p) t h.core.val ca nextPc n (.exc code sub ea d)
      = bundleFault (begun s h i p) (begun s h i p) h.core.val ca nextPc n (.exc code sub ea d) := by
  simp only [bundleFault, keepChecks_begun t hr hi, keepChecks_self, h7, if_false]

theorem bundleFault_abort (t : State) (ca nextPc n code : Nat) (hr : t.raised = s.raised) (hi : t.inject = s.inject) (h6 : code ≠ 6) :
    bundleFault (begun s h i p) t h.core.val ca nextPc n (.abort code)
      = bundleFault (begun s h i p) (begun s h i p) h.core.val ca nextPc n (.abort code) := by
  simp only [bundleFault, keepChecks_begun t hr hi, keepChecks_self, h6, if_false]

theorem exec_eq_raises (t : State) (code sub ea d : Nat) (hx : Executes s h p) (hs : Spells s h p i) (hv : view i = some (h, o))
    (hd : decodes o = true) (hj : p.injig = true → notInJig o = false)
    (he : effect h.core.val (coreBefore s h i p) (noWait p) p.pc.toNat (p.pc.toNat + 8) o (fetched s h i p) = .error (.exc code sub ea d) t)
    (hr : t.raised = s.raised) (hi : t.inject = s.inject) (h7 : code ≠ 7) : exec i s = raises s h i p code sub ea d := by
  rw [exec_eq_seqRun i _ s hv, seqRun_raised i o t code sub ea d hx.1 hs hv (by rw [perform_of_decodes hs hd hx.2 hj, he]),
    bundleFault_exc t _ _ _ code sub ea d hr hi h7]
  rfl

theorem exec_eq_aborts (t : State) (code : Nat) (hx : Executes s h p) (hs : Spells s h p i) (hv : view i = some (h, o))
    (he : perform h.core.val (coreBefore s h i p) (noWait p) p.pc.toNat (p.pc.toNat + 8) 0 (h, o) (fetched s h i p) = .error (.abort code) t)
    (hr : t.raised = s.raised) (hi : t.inject = s.inject) (h6 : code ≠ 6) : exec i s = aborts s h i p code := by
  rw [exec_eq_seqRun i _ s hv, seqRun_one i o hx.1 hs hv, he]
  change done (bundleFault (begun s h i p) t h.core.val p.pc.toNat (p.pc.toNat + 8) 0 (.abort code)) = _
  rw [bundleFault_abort t _ _ _ code hr hi h6]
  rfl

/-- An instruction that waits is tried again on the state before its bundle, and what it asks for there stays (R167). -/
theorem exec_eq_waitsAt (t u : State) (hx : Executes s h p) (hs : Spells s h p i) (hv : view i = some (h, o)) (hd : decodes o = true)
    (hj : p.injig = true → notInJig o = false)
    (he : effect h.core.val (coreBefore s h i p) (noWait p) p.pc.toNat (p.pc.toNat + 8) o (fetched s h i p) = .error .wait t)
    (hw : effect h.core.val (coreBefore s h i p) (noWait p) p.pc.toNat (p.pc.toNat + 8) o (begun s h i p) = .error .wait u) :
    exec i s = waitsAt h o (if classOf o = .memory then u else setCore u h.core.val { core u h.core.val with ncLine := none }) := by
  rw [exec_eq_seqRun i _ s hv, seqRun_one i o hx.1 hs hv, perform_of_decodes hs hd hx.2 hj, he]
  change done (bundleWait (begun s h i p) h.core.val (coreBefore s h i p) (noWait p) p.pc.toNat (p.pc.toNat + 8) 0 (h, o) .wait) = _
  simp only [bundleWait, M_run, perform_of_decodes hs hd hx.2 hj, hw]
  rfl

theorem core_begun : core (begun s h i p) h.core.val = coreBefore s h i p := core_setCore_run s _ _ (noWait p) rfl

theorem prog?_begun : prog? (begun s h i p) h.core.val = some (noWait p) := prog?_setCore_run s _ _ (noWait p) rfl

/-- An instruction that waits, asks for nothing and accesses no memory. -/
theorem exec_eq_waits (t : State) (hx : Executes s h p) (hs : Spells s h p i) (hv : view i = some (h, o)) (hd : decodes o = true)
    (hj : p.injig = true → notInJig o = false) (hc : classOf o ≠ .memory)
    (he : effect h.core.val (coreBefore s h i p) (noWait p) p.pc.toNat (p.pc.toNat + 8) o (fetched s h i p) = .error .wait t)
    (hw : effect h.core.val (coreBefore s h i p) (noWait p) p.pc.toNat (p.pc.toNat + 8) o (begun s h i p) = .error .wait (begun s h i p)) :
    exec i s = waits s h i o p := by
  rw [exec_eq_waitsAt t _ hx hs hv hd hj he hw, if_neg hc, core_begun, begun, setCore_setCore_run s _ _ _ (noWait p) rfl]
  rfl

theorem exec_eq_progM (g : Prog → Prog) (hx : Executes s h p) (hs : Spells s h p i) (hv : view i = some (h, o))
    (hd : decodes o = true) (hj : p.injig = true → notInJig o = false)
    (he : effect h.core.val (coreBefore s h i p) (noWait p) p.pc.toNat (p.pc.toNat + 8) o (fetched s h i p)
      = progM h.core.val g (fetched s h i p)) : exec i s = becomes s h (g (atIssue p)) := by
  rw [exec_eq_seqRun i _ s hv, seqRun_prog i o g hx hs hv hd hj he]
  rfl

/-- Two changes of a program one after the other. -/
theorem updProg_updProg (s : State) (c : Nat) (f g : Prog → Prog) : updProg (updProg s c f) c g = updProg s c fun q => g (f q) := by
  cases hp : prog? s c with
  | none => rw [updProg_none s c f hp, updProg_none s c g hp, updProg_none s c _ hp]
  | some q =>
    rw [updProg_run s c f q hp, updProg_run _ c g (f q) (prog?_setProg s c (f q)), updProg_run s c _ q hp, setProg, setProg, setProg, core_setCore_prog,
      setCore_setCore_run s c _ _ (f q) rfl]

theorem progM_apply (c : Nat) (g : Prog → Prog) (t : State) : progM c g t = .ok () (updProg t c g) := rfl

/-- The end of a bundle whose effect changed nothing. -/
theorem completes_fetched : completes h (fetched s h i p) = becomes s h (atIssue p) := congrArg done (bundleDone_prog i (atIssue p))

theorem completes_updProg (g : Prog → Prog) : completes h (updProg (fetched s h i p) h.core.val g) = becomes s h (g (atIssue p)) := by
  rw [completes, updProg_fetched, bundleDone_prog]
  rfl

end Sys2Proof.Machine
end

section
/-! SUPPORT. A write of a field of a word, bit by bit: the field holds what was written and every other bit stays. -/

namespace Sys2Proof.Machine

theorem flag_setFld (w : Word) (hi lo v i : Nat) (h : i < 64) :
    flag (setFld w hi lo v) i = if lo ≤ i ∧ i ≤ hi then v.testBit (i - lo) else flag w i := by
  have hm := flag_fieldMask hi lo i h
  have hp := flag_place hi lo v i h
  have hs : flag (setFld w hi lo v) i = (flag w i && !flag (fieldMask hi lo) i || flag (place hi lo v) i) := by
    simp [setFld, flag, h]
  rw [hs, hp]
  by_cases hin : lo ≤ i ∧ i ≤ hi
  · rw [hm.2 hin]
    simp [hin]
  · rw [Bool.eq_false_iff.2 (mt hm.1 hin), if_neg hin]
    have : ¬(lo ≤ i ∧ i ≤ hi ∧ v.testBit (i - lo) = true) := fun hb => hin ⟨hb.1, hb.2.1⟩
    simp [this]

/-- A field reads back what was written there. -/
theorem fld_setFld_self (w : Word) (hi lo v : Nat) (h : hi < 64) : fld (setFld w hi lo v) hi lo = v % 2 ^ (hi + 1 - lo) := by
  rw [← fld_place hi lo v h]
  refine fld_congr _ _ _ _ fun i h1 h2 h3 => ?_
  rw [flag_setFld _ _ _ _ _ h3, if_pos ⟨h1, h2⟩, flag_place _ _ _ _ h3]
  simp [h1, h2]

/-- A field that lies apart from the written one stays. -/
theorem fld_setFld_of_apart (w : Word) (hi lo v hi' lo' : Nat) (h : hi' < lo ∨ hi < lo') : fld (setFld w hi lo v) hi' lo' = fld w hi' lo' :=
  fld_congr _ _ _ _ fun i h1 h2 h3 => by rw [flag_setFld _ _ _ _ _ h3, if_neg (by omega)]

theorem flag_setFld_of_apart (w : Word) (hi lo v i : Nat) (h : i < lo ∨ hi < i) : flag (setFld w hi lo v) i = flag w i := by
  by_cases hi64 : i < 64
  · rw [flag_setFld _ _ _ _ _ hi64, if_neg (by omega)]
  · simp [flag, BitVec.getLsbD_of_ge _ i (Nat.le_of_not_lt hi64)]

end Sys2Proof.Machine
end

section
/-! SUPPORT. Values of R171: counts of bits, moves into halves of a register. -/

namespace Sys2Proof.Machine

theorem clzWord_spec (w : Word) : clzWord w ≤ 64 ∧ (∀ k, 64 ≤ k + clzWord w → w.getLsbD k = false)
    ∧ (clzWord w < 64 → w.getLsbD (63 - clzWord w) = true) := by
  unfold clzWord
  cases hf : (List.range 64).find? fun i => w.getLsbD (63 - i) with
  | none =>
    rw [List.find?_eq_none] at hf
    refine ⟨Nat.le_refl _, fun k _ => ?_, fun hlt => absurd hlt (Nat.lt_irrefl _)⟩
    by_cases hk : k < 64
    · have hbit := hf (63 - k) (List.mem_range.2 (by omega))
      rw [show 63 - (63 - k) = k by omega] at hbit
      exact Bool.eq_false_iff.2 hbit
    · exact BitVec.getLsbD_of_ge w k (by omega)
  | some n =>
    obtain ⟨hbit, hbefore⟩ := List.find?_range_eq_some.1 hf
    obtain ⟨hn, hbefore⟩ := hbefore
    have hn64 : n < 64 := List.mem_range.1 hn
    refine ⟨hn64.le, fun k hk => ?_, fun _ => hbit⟩
    change 64 ≤ k + n at hk
    by_cases hk64 : k < 64
    · have := hbefore (63 - k) (by omega)
      rw [show 63 - (63 - k) = k by omega] at this
      simpa using this
    · exact BitVec.getLsbD_of_ge w k (by omega)

theorem popWord_eq (w : Word) : popWord w = ((List.range 64).filter (w.getLsbD ·)).length := rfl

theorem setFld_high (w : Word) (v : Nat) : setFld w 63 32 v = BitVec.ofNat 64 (v * 2 ^ 32 + w.toNat % 2 ^ 32) := by
  refine BitVec.eq_of_getLsbD_eq fun i hi => ?_
  change flag (setFld w 63 32 v) i = _
  rw [flag_setFld _ _ _ _ _ hi, BitVec.getLsbD_ofNat, Nat.mul_comm, Nat.testBit_two_pow_mul_add v (Nat.mod_lt _ (by decide)),
    Nat.testBit_mod_two_pow]
  by_cases hlo : i < 32
  · simp [hi, hlo, flag, BitVec.testBit_toNat, show ¬(32 ≤ i) by omega]
  · simp [hi, hlo, show 32 ≤ i by omega, show i ≤ 63 by omega]

theorem setFld_low (w : Word) (v : Nat) (h : v < 2 ^ 32) : setFld w 31 0 v = BitVec.ofNat 64 (w.toNat / 2 ^ 32 * 2 ^ 32 + v) := by
  refine BitVec.eq_of_getLsbD_eq fun i hi => ?_
  change flag (setFld w 31 0 v) i = _
  rw [flag_setFld _ _ _ _ _ hi, BitVec.getLsbD_ofNat, Nat.mul_comm, Nat.testBit_two_pow_mul_add _ h, Nat.testBit_div_two_pow]
  by_cases hlo : i < 32
  · simp [hi, hlo, show i ≤ 31 by omega]
  · simp [hi, hlo, show ¬(i ≤ 31) by omega, flag, BitVec.testBit_toNat, show i - 32 + 32 = i by omega]

end Sys2Proof.Machine
end

section
/-! SUPPORT. A bundle of more than one row: rows are staged until the bundle is whole, then all of it is fetched and performed. -/

namespace Sys2Proof.Machine

open Sys2Proof

variable {s : State} {h : Hdr} {p : Prog} {i : Instr} {o : SOp}

/-- A row that does not make its bundle whole is held, and nothing of the bundle has effect (R165). -/
theorem seqRun_held (hv : view i = some (h, o)) (hp : prog? s h.core.val = some p) (hr : seqReady s h.core.val p = true)
    (hold : bundleFull p.pc.toNat (core s h.core.val).bundle = false) (hpend : (core s h.core.val).bundle ≠ [] ∨ p.pend = [] ∨ p.inexc = true)
    (hnew : bundleFull p.pc.toNat ((core s h.core.val).bundle ++ [i]) = false) :
    seqRun i s = done (setCore s h.core.val { core s h.core.val with bundle := (core s h.core.val).bundle ++ [i] }) := by
  have hpe : ((core s h.core.val).bundle.isEmpty && !p.pend.isEmpty && !p.inexc) = false := by
    rcases hpend with e | e | e <;> simp [e]
  simp only [seqRun, hv, hp, hr, hold, hnew, hpe, Bool.not_true, Bool.false_eq_true, if_false]

/-- A row that makes its bundle whole runs it. -/
theorem seqRun_whole (hv : view i = some (h, o)) (hp : prog? s h.core.val = some p) (hr : seqReady s h.core.val p = true)
    (hold : bundleFull p.pc.toNat (core s h.core.val).bundle = false) (hpend : (core s h.core.val).bundle ≠ [] ∨ p.pend = [] ∨ p.inexc = true)
    (hnew : bundleFull p.pc.toNat ((core s h.core.val).bundle ++ [i]) = true) :
    seqRun i s = done (runBundle (updProg s h.core.val fun q => { q with waitTo := none }) h.core.val (noWait p)
      ((core s h.core.val).bundle ++ [i])) := by
  have hpe : ((core s h.core.val).bundle.isEmpty && !p.pend.isEmpty && !p.inexc) = false := by
    rcases hpend with e | e | e <;> simp [e]
  simp only [seqRun, hv, hp, hr, hold, hnew, hpe, Bool.not_true, Bool.false_eq_true, if_false, if_true]
  rfl

/-- The state in which the rows `l` have been collected and nothing of them has had effect. -/
def gathered (s : State) (h : Hdr) (l : List Instr) (p : Prog) : State :=
  setCore s h.core.val { core s h.core.val with bundle := l, prog := some (noWait p) }

theorem gathered_eq (hp : prog? s h.core.val = some p) (l : List Instr) :
    setCore (updProg s h.core.val fun q => { q with waitTo := none }) h.core.val
      { core (updProg s h.core.val fun q => { q with waitTo := none }) h.core.val with bundle := l } = gathered s h l p := by
  rw [updProg_run s _ _ p hp, setProg, core_setCore_prog, setCore_setCore_run s _ _ _ (noWait p) rfl]
  rfl

theorem core_gathered (l : List Instr) : core (gathered s h l p) h.core.val = { core s h.core.val with bundle := l, prog := some (noWait p) } :=
  core_setCore_run s _ _ (noWait p) rfl

theorem gathered_single : gathered s h [i] p = begun s h i p := rfl

end Sys2Proof.Machine
end

section
/-! PROOFS. The obligations on the sequencer's simple instructions, branches and bundles. -/

namespace Sys2Proof.Claims

open Sys2Proof.Machine

/-- Settles O4: the effect of each instruction writes one register with the value that the rule gives, and NOP's none. -/
theorem simpleInstructionsCompute : Obligations.SimpleInstructionsCompute := by
  refine fun s h p hx => ⟨fun f hrd hra hrb hrc hfn hs => ?_, fun f hrc hfn hs => ?_, fun f hrb hrc hfn hs => ?_, fun f hrb hrc hfn hs => ?_,
    fun f hext hflag hs => ?_, fun f hext hs => ?_⟩
  · rw [← completes_fetched (i := .nop h f)]
    exact exec_eq_completes _ hx hs rfl (by simp [decodes, hrd, hra, hrb, hrc, hfn]) (fun _ => rfl) rfl
  · exact exec_eq_becomes _ (.psel f) (fun q => setSreg q f.rd (if preg p (f.fn.setWidth 4) then sreg p f.ra else sreg p f.rb)) hx hs rfl
      (by simp [decodes, hrc, hfn]) rfl rfl
  · exact ⟨clzWord (sreg p f.ra), exec_eq_becomes _ (.clz f) (fun q => setSreg q f.rd (BitVec.ofNat 64 (clzWord (sreg p f.ra)))) hx hs rfl
      (by simp [decodes, hrb, hrc, hfn]) rfl rfl, clzWord_spec _⟩
  · rw [← popWord_eq]
    exact exec_eq_becomes _ (.popc f) (fun q => setSreg q f.rd (BitVec.ofNat 64 (popWord (sreg p f.ra)))) hx hs rfl
      (by simp [decodes, hrb, hrc, hfn]) rfl rfl
  · exact exec_eq_becomes _ (.movi f) (fun q => setSreg q f.rd (f.imm.signExtend 64)) hx hs rfl (by simp [decodes, hext, hflag]) rfl rfl
  · rw [← setFld_high, ← setFld_low _ _ f.imm.isLt]
    exact exec_eq_becomes _ (.movk f) (fun q => setSreg q f.rd
      (if f.flag then setFld (sreg p f.rd) 63 32 f.imm.toNat else setFld (sreg p f.rd) 31 0 f.imm.toNat)) hx hs rfl
      (by simp [decodes, hext]) rfl rfl

end Sys2Proof.Claims
end

section
/-! SUPPORT. Branches (R174), and fetches that fail. -/

namespace Sys2Proof.Machine

open Sys2Proof

variable {s : State} {h : Hdr} {p : Prog} {i : Instr} {o : SOp}

theorem branchTo_apply (c : Nat) (a : Int) (t : State) : branchTo c a t = .ok () (updProg t c fun q => { q with pc := BitVec.ofInt 52 a }) := rfl

/-- A segment table that does not allow the execution of a CA fails the fetch there (R174, R175). -/
theorem fetchOne_denied (c a sub : Nat) (q : Prog) (ha : a < 2 ^ 51) (hw : segCheck s q.ctx a 8 .x = .error sub) (hn : NoInjection s (bCore c))
    (hj : q.injig = false) : fetchOne c q a s = .error (.exc 4 sub a 0) s := by
  have e1 : ¬ 4503599627370496 ≤ a := by omega
  have e2 : ¬ 2251799813685248 ≤ a := by omega
  simp [fetchOne, hj, fireInjection_none _ _ _ _ hn, icLoad, seqTarget, access, e1, e2, hw]

/-- A row alone in its bundle whose fetch fails raises the exception of the fetch. -/
theorem exec_eq_raises_fetch (code sub ea d : Nat) (hv : view i = some (h, o)) (hp : prog? s h.core.val = some p)
    (hr : seqReady s h.core.val p = true) (hb : (core s h.core.val).bundle = []) (hpend : p.pend = [] ∨ p.inexc = true) (hstop : h.stop = true)
    (hf : fetchOne h.core.val (noWait p) p.pc.toNat (begun s h i p) = .error (.exc code sub ea d) (begun s h i p)) :
    exec i s = raises s h i p code sub ea d := by
  have hfull : bundleFull p.pc.toNat [i] = true := by simp [bundleFull, hv, hstop]
  have hops : [i].filterMap view = [(h, o)] := by simp [hv]
  rw [exec_eq_seqRun i _ s hv, seqRun_whole hv hp hr (by rw [hb]; rfl) (.inr hpend) (by rw [hb]; exact hfull), hb, List.nil_append]
  refine congrArg done ?_
  have hall : fetchAll h.core.val (noWait p) (noWait p).pc.toNat 1 0 (begun s h i p) = .bad 0 (.exc code sub ea d) (begun s h i p) := by
    simp only [fetchAll, M_run, Nat.mul_zero, Nat.add_zero]
    rw [show (noWait p).pc = p.pc from rfl, hf]
  simp only [runBundle, hops, gathered_eq hp, gathered_single, List.length_singleton, hall]
  rfl

end Sys2Proof.Machine
end

section
/-! PROOFS. The obligation on branches. -/

namespace Sys2Proof.Claims

open Sys2Proof.Machine

/-- Settles O6: a branch writes the counter, a return the counter and INEXC; a fetch that its segments deny stops the bundle before any of it
is performed. -/
theorem branchesSetTheCounter : Obligations.BranchesSetTheCounter := by
  refine fun s h p => ⟨fun hx => ⟨fun f hrd hra hz hs => ?_, fun f hra hz hs => ?_, fun f hrd hz hdisp hs => ?_, fun hj f hrd hra hz hdisp hs => ?_⟩,
    fun i o sub hv hp hr hb hpend hstop hj hlt hn hseg => ?_⟩
  · exact exec_eq_becomes _ (.br f) (fun q => { q with pc := BitVec.ofInt 52 (p.pc.toNat + 8 * f.disp.toInt) }) hx hs rfl
      (by simp [decodes, hrd, hra, hz]) rfl rfl
  · rw [← completes_updProg (i := .call h f) fun q =>
      { setSreg q f.rd (BitVec.ofNat 64 (p.pc.toNat + 8)) with pc := BitVec.ofInt 52 (p.pc.toNat + 8 * f.disp.toInt) }]
    refine exec_eq_completes _ hx hs rfl (by simp [decodes, hra, hz]) (fun _ => rfl) ?_
    simp only [effect, progM, M_bind, M_modify, branchTo, updProg_updProg]
  · have hd : decodes (.bri f) = true := by simp [decodes, hrd, hz, hdisp]
    have hsreg : sreg (noWait p) f.ra = sreg p f.ra := rfl
    split
    next hok =>
      obtain ⟨h8, hlt⟩ := hok
      refine exec_eq_progM (fun q => { q with pc := BitVec.ofNat 52 (sreg p f.ra).toNat }) hx hs rfl hd (fun _ => rfl) ?_
      have hgo : ¬((sreg p f.ra).toNat % 8 ≠ 0 ∨ 2 ^ 52 ≤ (sreg p f.ra).toNat) := by omega
      simp only [effect, seqBri, hsreg, hgo, if_false]
      rfl
    next hbad =>
      have hstop : (sreg p f.ra).toNat % 8 ≠ 0 ∨ 2 ^ 52 ≤ (sreg p f.ra).toNat := by omega
      refine exec_eq_raises (fetched s h (.bri h f) p) 3 0 _ 0 hx hs rfl hd (fun _ => rfl) ?_ rfl rfl (by decide)
      simp only [effect, seqBri, hsreg, hstop, if_true, M_bind, M_throw]
  · have hd : decodes (.eret f) = true := by simp [decodes, hrd, hra, hz, hdisp]
    have hinexc : (noWait p).inexc = p.inexc := rfl
    split
    next hin =>
      refine exec_eq_progM exceptionReturn hx hs rfl hd (fun hj' => absurd hj' (by simp [hj])) ?_
      simp [effect, seqEret, hinexc, hin]
    next hout =>
      refine exec_eq_raises (fetched s h (.eret h f) p) 1 0 0 0 hx hs rfl hd (fun hj' => absurd hj' (by simp [hj])) ?_ rfl rfl (by decide)
      simp [effect, seqEret, hinexc, hout]
  · exact exec_eq_raises_fetch 4 sub p.pc.toNat 0 hv hp hr hb hpend hstop (fetchOne_denied _ _ sub (noWait p) hlt hseg hn hj)

end Sys2Proof.Claims
end

section
/-! SUPPORT. A whole bundle that is fetched and breaks no rule is performed. -/

namespace Sys2Proof.Machine

open Sys2Proof

variable {s : State} {h : Hdr} {p : Prog} {i : Instr} {o : SOp}

/-- The row that makes its bundle whole performs the bundle `l`, whose instructions are `ops`. -/
theorem exec_eq_performAll (l : List Instr) (ops : List (Hdr × SOp)) (hv : view i = some (h, o)) (hp : prog? s h.core.val = some p)
    (hr : seqReady s h.core.val p = true) (hold : bundleFull p.pc.toNat (core s h.core.val).bundle = false)
    (hpend : (core s h.core.val).bundle ≠ [] ∨ p.pend = [] ∨ p.inexc = true) (hl : (core s h.core.val).bundle ++ [i] = l)
    (hfull : bundleFull p.pc.toNat l = true) (hops : l.filterMap view = ops)
    (hf : fetchAll h.core.val (noWait p) p.pc.toNat ops.length 0 (gathered s h l p) = .ok (gathered s h l p))
    (hsp : bundleSpelled (core (gathered s h l p) h.core.val) (noWait p) p.pc.toNat l = true) (he : bundleError p.pc.toNat [] ops = none) :
    exec i s = done (performAll (gathered s h l p) h.core.val (noWait p) ops p.pc.toNat (p.pc.toNat + 8 * ops.length)
      fun s1 => bundleDone s1 h.core.val) := by
  subst hl hops
  rw [exec_eq_seqRun i _ s hv, seqRun_whole hv hp hr hold hpend hfull]
  simp only [runBundle, gathered_eq hp, show (noWait p).pc = p.pc from rfl, hf, hsp, he, Bool.not_true, Bool.false_eq_true, if_false]

/-- An instruction at CA `a` that its segments let the program execute and that its cache holds is fetched. -/
theorem fetchOne_gathered (l : List Instr) (a : Nat) (hj : p.injig = false) (ha : a < 2 ^ 51) (hseg : (segCheck s p.ctx a 8 .x).isOk = true)
    (h1 : isHole s (canon a) = false) (h2 : isHole s (canon (a + 7)) = false)
    (hic : (mapFind? (core s h.core.val).icache (icKey p.ctx a)).isSome = true) (hn : NoInjection s (bCore h.core.val)) :
    fetchOne h.core.val (noWait p) a (gathered s h l p) = .ok () (gathered s h l p) := by
  obtain ⟨w, hw⟩ : ∃ w, segCheck s p.ctx a 8 .x = .ok w := by
    cases hs : segCheck s p.ctx a 8 .x with
    | ok w => exact ⟨w, rfl⟩
    | error e => simp [hs, Except.isOk, Except.toBool] at hseg
  refine fetchOne_hit _ _ _ w ha hw h1 h2 ?_ hn fun hj' => absurd hj' (by simp [noWait, hj])
  rw [core_gathered]
  exact hic

/-- A row that is the one its word comes as is spelled. -/
theorem rowSpelled_of_decodeWord (k : Core) (q : Prog) (a w : Nat) (hw : icWord k q.ctx a = some w) (hv : view i = some (h, o))
    (hd : decodeWord h.core w = some i) : rowSpelled k q a i = true := by
  simp [rowSpelled, hw, hv, rowOfWord, hd]

theorem setSreg_pc (q : Prog) (r : BitVec 6) (w : Word) (x : BitVec 52) : setSreg { q with pc := x } r w = { setSreg q r w with pc := x } := by
  unfold setSreg
  split <;> rfl

/-- Two sums that do not write one register may stand in a bundle (R165, R166). -/
theorem bundleError_adds {g : Hdr} {f e : FmtR} (ca : Nat) (hw : h.wait = 0) (h56 : ca % 64 ≠ 56) (hg : g.stop = true)
    (hrd : f.rd ≠ e.rd ∨ f.rd = 0) : bundleError ca [] [(h, .alu .add f), (g, .alu .add e)] = none := by
  have hclash : clash (.alu .add f) (.alu .add e) = false := by
    have hd : f.rd.toNat = 0 ∨ e.rd.toNat ≠ f.rd.toNat := by
      rcases hrd with hne | h0
      · exact .inr fun heq => hne (BitVec.eq_of_toNat_eq heq.symm)
      · exact .inl (by rw [h0]; rfl)
    rcases hd with hd | hd <;> simp [clash, destsOf, hd, Ne.symm]
  simp [bundleError, breaksBundle, classOf, isMulDiv, hw, h56, hg, hclash]

/-- A sum as an instruction of a bundle: it reads its sources from before the bundle (R166). -/
theorem perform_add (c : Nat) (k : Core) (q : Prog) (ca nextPc n : Nat) (g : Hdr) (f : FmtR) (hl : listedAt k q (ca + 8 * n) = true)
    (hq : qualified q g = true) (hj : q.injig = false) (hrc : f.rc = 0) (hfn : f.fn = 0) (t : State) :
    perform c k q ca nextPc n (g, .alu .add f) t = .ok () (updProg t c fun x => setSreg x f.rd (sreg q f.ra + sreg q f.rb)) := by
  have hd : decodes (.alu .add f) = true := by simp [decodes, hrc, hfn]
  simp only [perform, hl, hd, hq, hj, Bool.not_true, Bool.or_false, Bool.false_and, Bool.false_eq_true, if_false, if_true]
  rfl

theorem listedAt_of_decodeWord (k : Core) (q : Prog) (a w : Nat) (c : CoreIx) (hw : icWord k q.ctx a = some w) (hd : decodeWord c w = some i) :
    listedAt k q a = true := by
  simp only [listedAt, hw, listedWord, decodeWord_isSome 0 c w, hd, Option.isSome_some]

theorem prog?_gathered (l : List Instr) : prog? (gathered s h l p) h.core.val = some (noWait p) := prog?_setCore_run s _ _ (noWait p) rfl

/-- The end of a bundle whose only effect is the change `x` of the program state. -/
theorem bundleDone_gathered (l : List Instr) (x : Prog → Prog) :
    bundleDone (updProg (gathered s h l p) h.core.val x) h.core.val = issued s h (x (noWait p)) := by
  rw [updProg_run _ _ _ (noWait p) (prog?_gathered l), setProg, core_gathered, gathered,
    setCore_setCore_run s _ _ _ (noWait p) rfl]
  have e1 := core_setCore_run s h.core.val { core s h.core.val with bundle := l, prog := some (x (noWait p)) } _ rfl
  rw [bundleDone, e1, setCore_setCore_run s _ _ _ _ rfl,
    updProg_run _ _ _ (x (noWait p)) (prog?_setCore_run s _ _ _ rfl), setProg, core_setCore_run s _ _ (x (noWait p)) rfl,
    setCore_setCore_run s _ _ _ (x (noWait p)) rfl]
  rfl

end Sys2Proof.Machine
end

section
/-! PROOFS. The obligation on bundles. -/

namespace Sys2Proof.Claims

open Sys2Proof.Machine

theorem isSome_icache_of_icWord {k : Core} {ctx : BitVec 12} {a w : Nat} (h : icWord k ctx a = some w) :
    (mapFind? k.icache (icKey ctx a)).isSome = true := by
  unfold icWord at h
  cases hf : mapFind? k.icache (icKey ctx a) with
  | none => simp [hf] at h
  | some _ => rfl

/-- Two sums of one bundle, the second of which makes it whole. -/
theorem exec_adds {s : State} {h g : Hdr} {p : Prog} {f e : FmtR} (hp : prog? s g.core.val = some p) (hcore : h.core = g.core)
    (hr : seqReady s g.core.val p = true) (hb : (Machine.core s g.core.val).bundle = [.add h f]) (hstop : h.stop = false) (hwait : h.wait = 0)
    (h56 : p.pc.toNat % 64 ≠ 56) (h8 : p.pc.toNat % 8 = 0) (hg : g.stop = true) (hj : p.injig = false) (hf : Fetches s g.core.val p)
    (hseg : (segCheck s p.ctx (p.pc.toNat + 8) 8 .x).isOk = true) (h1 : isHole s (canon (p.pc.toNat + 8)) = false)
    (h2 : isHole s (canon (p.pc.toNat + 15)) = false) (hs : SpelledAt s g.core p p.pc.toNat (.add h f))
    (hs' : SpelledAt s g.core p (p.pc.toNat + 8) (.add g e)) (hqh : qualified p h = true) (hqg : qualified p g = true)
    (hrc : f.rc = 0) (hfn : f.fn = 0) (hrc' : e.rc = 0) (hfn' : e.fn = 0) (hrd : f.rd ≠ e.rd ∨ f.rd = 0) :
    exec (.add g e) s = becomes s g { setSreg (setSreg (atIssue p) f.rd (sreg p f.ra + sreg p f.rb)) e.rd (sreg p e.ra + sreg p e.rb) with
      pc := BitVec.ofNat 52 (p.pc.toNat + 16) } := by
  obtain ⟨w, hw, hd⟩ := hs
  obtain ⟨v, hv, hd'⟩ := hs'
  obtain ⟨hlt, hsegh, hh1, hh2, hic, hn, -⟩ := hf
  have hlt' : p.pc.toNat + 8 < 2 ^ 51 := by omega
  have hk : Machine.core (gathered s g [.add h f, .add g e] p) g.core.val
      = { Machine.core s g.core.val with bundle := [.add h f, .add g e], prog := some (noWait p) } := core_gathered _
  have hw' : icWord (Machine.core (gathered s g [.add h f, .add g e] p) g.core.val) p.ctx p.pc.toNat = some w := by rw [hk]; exact hw
  have hv' : icWord (Machine.core (gathered s g [.add h f, .add g e] p) g.core.val) p.ctx (p.pc.toNat + 8) = some v := by rw [hk]; exact hv
  rw [exec_eq_performAll [.add h f, .add g e] [(h, .alu .add f), (g, .alu .add e)] rfl hp hr
    (by rw [hb]; simp [bundleFull, view, hstop, h56]) (.inl (by rw [hb]; simp)) (by rw [hb]; rfl) (by simp [bundleFull, view, hg]) rfl ?_ ?_
    (bundleError_adds _ hwait h56 hg hrd)]
  · simp only [performAll, runOps, M_run]
    rw [perform_add _ _ (noWait p) _ _ _ h f (listedAt_of_decodeWord _ _ _ w g.core hw' hd) hqh hj hrc hfn]
    dsimp only
    rw [perform_add _ _ (noWait p) _ _ _ g e (listedAt_of_decodeWord _ _ _ v g.core hv' hd') hqg hj hrc' hfn']
    dsimp only [ranEnd]
    rw [updProg_updProg, updProg_updProg, bundleDone_gathered]
    have hreg : regionBundle (noWait p) = p.jig := by simp [regionBundle, noWait, hj]
    have hreg' : regionBundle p = p.jig := by simp [regionBundle, hj]
    rw [becomes, atIssue, hreg, hreg', ← setSreg_pc, ← setSreg_pc]
    rfl
  · have f1 := fetchOne_gathered (h := g) [.add h f, .add g e] p.pc.toNat hj hlt hsegh hh1 hh2 hic hn
    have f2 := fetchOne_gathered (h := g) [.add h f, .add g e] (p.pc.toNat + 8) hj hlt' hseg h1 h2 (isSome_icache_of_icWord hv) hn
    simp only [fetchAll, List.length_cons, List.length_nil, M_run, Nat.mul_zero, Nat.add_zero, f1]
    simp [f2]
  · have r1 := rowSpelled_of_decodeWord (h := h) (i := .add h f) _ (noWait p) p.pc.toNat w hw' rfl (by rw [hcore]; exact hd)
    have r2 := rowSpelled_of_decodeWord (h := g) (i := .add g e) _ (noWait p) (p.pc.toNat + 8) v hv' rfl hd'
    simp [bundleSpelled, r1, r2]

/-- A word whose opcode R171 does not list raises ILLEGAL, as the row that it comes as. -/
theorem exec_of_unlisted {s : State} {h : Hdr} {p : Prog} {f : FmtR} {w : Nat} (hx : Issues s h p)
    (hw : icWord (Machine.core s h.core.val) p.ctx p.pc.toNat = some w) (hd : decodeWord h.core w = none) (hh : h = hdrOf h.core w)
    (hf : f = fmtR w) : exec (.nop h f) s = raises s h (.nop h f) p 1 0 0 0 := by
  obtain ⟨hp, hr, hb, hpend, hstop, hfet⟩ := hx
  obtain ⟨hlt, hseg, hh1, hh2, hic, hn, hjig⟩ := hfet
  have hk : Machine.core (gathered s h [.nop h f] p) h.core.val = coreBefore s h (.nop h f) p := core_gathered _
  have hw' : icWord (coreBefore s h (.nop h f) p) p.ctx p.pc.toNat = some w := hw
  have hrow : rowOfWord h.core w = .nop h f := by rw [rowOfWord, hd, ← hh, ← hf]; rfl
  rw [exec_eq_performAll [.nop h f] [(h, .nop f)] rfl hp hr (by rw [hb]; rfl) (.inr hpend) (by rw [hb]; rfl) (by simp [bundleFull, view, hstop])
    rfl ?_ ?_ (bundleError_single _ h _ hstop)]
  · have hl : listedAt (coreBefore s h (.nop h f) p) (noWait p) (p.pc.toNat + 8 * 0) = false := by
      simp only [listedAt, Nat.mul_zero, Nat.add_zero, show (noWait p).ctx = p.ctx from rfl, hw', listedWord, decodeWord_isSome 0 h.core w, hd]
      rfl
    simp only [performAll, runOps, M_run, hk, perform, hl, Bool.not_false, Bool.true_or, if_true, M_bind, M_throw]
    change done (bundleFault (begun s h _ p) _ h.core.val p.pc.toNat (p.pc.toNat + 8) 0 _) = _
    rw [bundleFault_exc _ _ _ _ 1 0 0 0 (by rw [updProg_run _ _ _ (noWait p) (prog?_gathered _)]; rfl)
      (by rw [updProg_run _ _ _ (noWait p) (prog?_gathered _)]; rfl) (by decide)]
    rfl
  · obtain ⟨u, hu⟩ : ∃ u, segCheck s p.ctx p.pc.toNat 8 .x = .ok u := by
      cases hs : segCheck s p.ctx p.pc.toNat 8 .x with
      | ok w => exact ⟨w, rfl⟩
      | error e => simp [hs, Except.isOk, Except.toBool] at hseg
    have hone : fetchOne h.core.val (noWait p) p.pc.toNat (begun s h (.nop h f) p) = .ok () (begun s h (.nop h f) p) :=
      fetchOne_hit _ _ _ u hlt hu hh1 hh2 (by rw [core_begun]; exact hic) hn hjig
    exact fetchAll_single _ (noWait p) hone
  · rw [hk]
    simp [bundleSpelled, rowSpelled, show (noWait p).ctx = p.ctx from rfl, hw', view, hrow]

/-- Settles O7. -/
theorem bundlesQualifyHoldAndReadOldValues : Obligations.BundlesQualifyHoldAndReadOldValues := by
  refine ⟨fun i o s h p hv hx hs => ⟨fun hd hq => exec_of_not_qualified hx hs hv hd hq, fun hd => exec_eq_raises_illegal i o hx hs hv hd⟩,
    fun i o s h p hv hp hr hold hpend hstop hlen h56 => ?_,
    fun s h g p f e hp hcore hr hb hstop hwait h56 h8 hg hj hf hseg h1 h2 hs hs' _ hqh hqg hrc hfn hrc' hfn' hrd =>
      exec_adds hp hcore hr hb hstop hwait h56 h8 hg hj hf hseg h1 h2 hs hs' hqh hqg hrc hfn hrc' hfn' hrd,
    fun s h p f w hx hw hd hh hf => exec_of_unlisted hx hw hd hh hf⟩
  rw [exec_eq_seqRun i _ s hv, seqRun_held hv hp hr hold hpend]
  · rfl
  · simp [bundleFull, hv, hstop, h56]
    omega

end Sys2Proof.Claims
end

section
/-! SUPPORT. Credits (R190, R191), special registers (R163) and waits for engines (R185). -/

namespace Sys2Proof.Machine

open Sys2Proof

variable {s : State} {h : Hdr} {p : Prog}

theorem enginesDone_iff (q : Prog) (mask : Nat) : enginesDone q mask = true ↔ ∀ e, e < 6 → mask.testBit e = true → queue q e = [] := by
  simp [enginesDone, or_iff_not_imp_left]

theorem waitEngines_of_done (q : Prog) (mask : Nat) (hd : enginesDone q mask = true) (t : State) : waitEngines q mask t = .ok () t := by
  simp [waitEngines, hd]

theorem waitEngines_of_not_done (q : Prog) (mask : Nat) (hd : enginesDone q mask = false) (t : State) :
    waitEngines q mask t = .error .wait t := by
  simp [waitEngines, hd]

theorem enginesDone_all (q : Prog) (hq : ∀ e, e < 6 → queue q e = []) (mask : Nat) : enginesDone q mask = true :=
  (enginesDone_iff q mask).2 fun e he _ => hq e he

theorem enginesDone_63 (q : Prog) (hq : ∃ e, e < 6 ∧ queue q e ≠ []) : enginesDone q 63 = false := by
  obtain ⟨e, he, hne⟩ := hq
  refine Bool.eq_false_iff.2 fun hd => hne ((enginesDone_iff q 63).1 hd e he ?_)
  interval_cases e <;> rfl

theorem ofNat_sub_of_le {w : Nat} (a : BitVec w) (n : Nat) (h : n ≤ a.toNat) : a - BitVec.ofNat w n = BitVec.ofNat w (a.toNat - n) := by
  have ha := a.isLt
  have hn : n % 2 ^ w = n := Nat.mod_eq_of_lt (by omega)
  refine BitVec.eq_of_toNat_eq ?_
  rw [BitVec.toNat_sub, BitVec.toNat_ofNat, BitVec.toNat_ofNat, hn]
  rw [show 2 ^ w - n + a.toNat = 2 ^ w + (a.toNat - n) by omega, Nat.add_mod_left]

/-- A word of disjoint fields is the sum of what they hold. -/
theorem place_or (hi lo v : Nat) (w : Word) (hv : v < 2 ^ (hi + 1 - lo)) (hw : w.toNat < 2 ^ lo) :
    place hi lo v ||| w = BitVec.ofNat 64 (v * 2 ^ lo + w.toNat) := by
  refine BitVec.eq_of_getLsbD_eq fun i hi64 => ?_
  have hp := flag_place hi lo v i hi64
  rw [flag] at hp
  rw [BitVec.getLsbD_or, hp, BitVec.getLsbD_ofNat, Nat.mul_comm, Nat.testBit_two_pow_mul_add v hw]
  by_cases hlo : i < lo
  · simp [hi64, hlo, BitVec.testBit_toNat, show ¬(lo ≤ i) by omega]
  · have hz : w[i] = false := by
      rw [← BitVec.getLsbD_eq_getElem, ← BitVec.testBit_toNat]
      exact Nat.testBit_lt_two_pow (hw.trans_le (Nat.pow_le_pow_right (by decide) (Nat.le_of_not_lt hlo)))
    by_cases hin : i ≤ hi
    · simp [hi64, hlo, hz, hin, show lo ≤ i by omega]
    · have hvz : v.testBit (i - lo) = false :=
        Nat.testBit_lt_two_pow (hv.trans_le (Nat.pow_le_pow_right (by decide) (by omega)))
      simp [hi64, hlo, hz, hvz]

theorem boolNat_lt (b : Bool) : boolNat b < 2 := by cases b <;> decide

theorem cstat_eq (q : Prog) : cstat q = BitVec.ofNat 64 (128 * boolNat q.inexc + 64 * boolNat q.injig + 32 * boolNat q.armed + 16 * boolNat q.engf
    + 8 * boolNat q.covf + 4 * boolNat q.sigdrop + 2 * boolNat q.deadrd + boolNat q.lost) := by
  unfold cstat
  cases q.inexc <;> cases q.injig <;> cases q.armed <;> cases q.engf <;> cases q.covf <;> cases q.sigdrop <;> cases q.deadrd <;> cases q.lost <;> rfl

theorem jigstat_eq (q : Prog) : jigstat q = BitVec.ofNat 64 (q.jid.toNat * 2 ^ 48 + q.jcode.toNat * 2 ^ 40 + q.jorig.toNat * 2 ^ 32 + q.slips.toNat) := by
  have h1 := q.jid.isLt
  have h2 := q.jcode.isLt
  have h3 := q.jorig.isLt
  have h4 := q.slips.isLt
  have e4 : place 31 0 q.slips.toNat = BitVec.ofNat 64 q.slips.toNat := by simp [place, Nat.mod_eq_of_lt h4]
  have n4 : (BitVec.ofNat 64 q.slips.toNat).toNat = q.slips.toNat := by rw [BitVec.toNat_ofNat]; omega
  have e3 := place_or 39 32 q.jorig.toNat (BitVec.ofNat 64 q.slips.toNat) h3 (by omega)
  rw [n4] at e3
  have n3 : (BitVec.ofNat 64 (q.jorig.toNat * 2 ^ 32 + q.slips.toNat)).toNat = q.jorig.toNat * 2 ^ 32 + q.slips.toNat := by
    rw [BitVec.toNat_ofNat]; omega
  have e2 := place_or 47 40 q.jcode.toNat (BitVec.ofNat 64 (q.jorig.toNat * 2 ^ 32 + q.slips.toNat)) h2 (by omega)
  rw [n3] at e2
  have n2 : (BitVec.ofNat 64 (q.jcode.toNat * 2 ^ 40 + (q.jorig.toNat * 2 ^ 32 + q.slips.toNat))).toNat
      = q.jcode.toNat * 2 ^ 40 + (q.jorig.toNat * 2 ^ 32 + q.slips.toNat) := by
    rw [BitVec.toNat_ofNat]; omega
  have e1 := place_or 63 48 q.jid.toNat (BitVec.ofNat 64 (q.jcode.toNat * 2 ^ 40 + (q.jorig.toNat * 2 ^ 32 + q.slips.toNat))) h1 (by omega)
  rw [n2] at e1
  rw [jigstat, BitVec.or_assoc, BitVec.or_assoc, e4, e3, e2, e1]
  exact congrArg (BitVec.ofNat 64) (by omega)

/-- A release that waits for nothing (R264, R272). -/
theorem releaseM_ok (k0 : Core) (c sc : Nat) (hok : releaseOk s k0 c sc = true) : releaseM k0 c sc s = .ok () (released s sc) := by
  simp only [releaseM, M_bind, M_get, hok, Bool.not_true, Bool.false_eq_true, if_false, released]
  split <;> rfl

/-- A signal to a core of the scope that takes part: to the running part, to one switched out, or into the CSQ (R191). -/
theorem signalCore_some (ctx : BitVec 12) (c q n : Nat) (t : Task) (h1 : coreEnabled s c = true) (h2 : coreFenced s c = false)
    (ht : signalTask s ctx c = some t) : signalCore s ctx c q n = (true,
      if ((prog? s c).map Prog.task) = some t.id then updProg s c fun p => addCredit p q n
      else if (mapFind? t.saved c).isSome then updSaved s t.id c fun p => addCredit p q n
      else updTask s t.id fun t => { t with early := t.early ++ [(c, q, n)] }) := by
  simp only [signalCore, h1, h2, ht, Bool.not_false, Bool.and_self, if_true]
  split
  · rfl
  · split <;> rfl

/-- A signal that no task takes is discarded (R191). -/
theorem signalCore_none (ctx : BitVec 12) (c q n : Nat) (hno : coreEnabled s c = false ∨ coreFenced s c = true ∨ signalTask s ctx c = none) :
    signalCore s ctx c q n = (false, s) := by
  unfold signalCore
  rcases hno with h1 | h1 | h1 <;> simp [h1]

/-- A counter takes what it can hold, else it saturates and sets COVF (R191). -/
theorem addCredit_of_lt (q : Prog) (i n : Nat) (hlt : (credit q i).toNat + n < 2 ^ 32) :
    addCredit q i n = setCredit q i (BitVec.ofNat 32 ((credit q i).toNat + n)) := if_pos hlt

theorem addCredit_of_le (q : Prog) (i n : Nat) (hle : 2 ^ 32 ≤ (credit q i).toNat + n) :
    credit (addCredit q i n) i = BitVec.ofNat 32 (2 ^ 32 - 1) ∧ (addCredit q i n).covf = true := by
  rw [addCredit, if_neg (by omega)]
  exact ⟨mapGet_mapSet_self_of_ne _ _ _ _ (by decide), rfl⟩

end Sys2Proof.Machine
end

section
/-! PROOFS. The obligations on credits, special registers and the program registers. -/

namespace Sys2Proof.Claims

open Sys2Proof.Machine

/-- A signal of CSIG that its scope holds and that waits for nothing. -/
theorem exec_csig {s : State} {h : Hdr} {p : Prog} {f : FmtC} (hx : ExecutesQueue s h p) (hs : Spells s h p (.csig h f))
    (hd : decodes (.csig f) = true) (hsc : scopeHolds f.scope.toNat h.core.val ((sreg p f.rb).toNat % 65536) = true)
    (hok : releaseOk (fetched s h (.csig h f) p) (coreBefore s h (.csig h f) p) h.core.val f.scope.toNat = true) :
    exec (.csig h f) s = completes h
      (let r := signalCore (released (fetched s h (.csig h f) p) f.scope.toNat) p.ctx ((sreg p f.rb).toNat % 65536) f.cq.toNat f.n.toNat
       if r.1 then r.2 else updProg r.2 h.core.val fun x => { x with sigdrop := true }) := by
  refine exec_eq_completes _ hx.1 hs rfl hd (fun hj => absurd hj (by simp [hx.2])) ?_
  simp only [effect, seqCsig, show sreg (noWait p) f.rb = sreg p f.rb from rfl, hsc, Bool.not_true, Bool.false_eq_true, if_false,
    M_bind, releaseM_ok _ _ _ hok, M_get, M_set, show (noWait p).ctx = p.ctx from rfl]
  generalize signalCore _ _ _ _ _ = r
  obtain ⟨b, t⟩ := r
  cases b <;> rfl

/-- Settles O16. -/
theorem creditsAreCounted : Obligations.CreditsAreCounted := by
  refine ⟨fun s h p f => ⟨fun hx hs hd => ⟨fun hlt => ?_, fun hle hb => ?_⟩, fun hx hs hd => ?_, fun hx hs hd => ?_, fun hx hs hd => ?_,
    fun hx hs hd S R k hS hR hk => ⟨fun hsc => ?_, fun hsc hok => ⟨fun hno => ?_, fun t h1 h2 ht => ?_⟩⟩⟩,
    fun p i n => ⟨addCredit_of_lt p i n, addCredit_of_le p i n⟩⟩
  · have hlt' : (credit (noWait p) f.cq.toNat).toNat < f.n.toNat := hlt
    refine exec_eq_waits (fetched s h (.cwait h f) p) hx.1 hs rfl hd (fun hj => absurd hj (by simp [hx.2])) SClass.noConfusion ?_ ?_ <;>
      simp [effect, seqCwait, hlt']
  · have hle' : ¬(credit (noWait p) f.cq.toNat).toNat < f.n.toNat := Nat.not_lt.2 hle
    rw [← ofNat_sub_of_le _ _ hle]
    refine exec_eq_progM (fun x => setCredit x f.cq.toNat (credit x f.cq.toNat - BitVec.ofNat 32 f.n.toNat)) hx.1 hs rfl hd
      (fun hj => absurd hj (by simp [hx.2])) ?_
    simp [effect, seqCwait, hle', show (noWait p).blocked = false from hb]
  · exact exec_eq_becomes _ (.ctest f) (fun q => setPreg q (f.rd.setWidth 4) (decide (f.n.toNat ≤ (credit p f.cq.toNat).toNat))) hx hs rfl hd rfl rfl
  · rw [BitVec.ofNat_toNat]
    exact exec_eq_becomes _ (.crd f) (fun q => setSreg q f.rd ((credit p f.cq.toNat).setWidth 64)) hx hs rfl hd rfl rfl
  · rw [BitVec.ofNat_toNat]
    exact exec_eq_becomes _ (.cset f) (fun q => setCredit q f.cq.toNat ((sreg p f.rb).setWidth 32)) hx hs rfl hd rfl rfl
  · subst hS hR hk
    refine exec_eq_raises (fetched s h (.csig h f) p) 1 0 0 0 hx.1 hs rfl hd (fun hj => absurd hj (by simp [hx.2])) ?_ rfl rfl (by decide)
    simp [effect, seqCsig, show sreg (noWait p) f.rb = sreg p f.rb from rfl, hsc]
  · subst hS hR hk
    rw [exec_csig hx hs hd hsc hok, signalCore_none _ _ _ _ hno]
    rfl
  · subst hS hR hk
    rw [exec_csig hx hs hd hsc hok, signalCore_some _ _ _ _ t h1 h2 ht]
    rfl

end Sys2Proof.Claims
end

section
/-! SUPPORT. What the special registers read and take (R163), and what settling the interrupt lines leaves of the registers. -/

namespace Sys2Proof.Machine

open Sys2Proof

variable {s : State} {h : Hdr} {p : Prog}

theorem decodes_mfs (f : FmtS) (hra : f.ra = 0) (hrest : f.rest = 0) (hn : f.num.toNat ∈ specials) : decodes (.mfs f) = true := by
  simp [decodes, hra, hrest, hn]

theorem engOn_fetched (i : Instr) : (core (fetched s h i p) h.core.val).engOn = (core s h.core.val).engOn := by
  rw [core_fetched]

/-- MFS reads the register as the bundle finds it. -/
theorem exec_mfs (f : FmtS) (w : Word) (hx : Executes s h p) (hs : Spells s h p (.mfs h f)) (hra : f.ra = 0) (hrest : f.rest = 0)
    (hn : f.num.toNat ∈ specials) (hw : specialReg (fetched s h (.mfs h f) p) h.core.val (noWait p) f.num.toNat = w) :
    exec (.mfs h f) s = becomes s h (setSreg (atIssue p) f.rd w) := by
  refine exec_eq_progM (fun q => setSreg q f.rd w) hx hs rfl (decodes_mfs f hra hrest hn) (fun _ => rfl) ?_
  simp only [effect, M_bind, M_get, hw]

theorem exec_mts (f : FmtS) (hx : Executes s h p) (hs : Spells s h p (.mts h f)) (hrd : f.rd = 0) (hrest : f.rest = 0)
    (hn : f.num = 0x20 ∨ f.num = 0x30) :
    exec (.mts h f) s = becomes s h (writeSpecial f.num.toNat (sreg p f.ra) (atIssue p)) :=
  exec_eq_becomes _ (.mts f) (writeSpecial f.num.toNat (sreg p f.ra)) hx hs rfl (by rcases hn with hn | hn <;> simp [decodes, hrd, hrest, hn]) rfl rfl

theorem raise_wf (b : Blk) (st bit : Nat) (hw : mapWf regDefault s.regs = true) : mapWf regDefault (raise s b st bit).regs = true :=
  setReg_wf _ _ _ _ (setReg_wf _ _ _ _ hw)

/-- An event of a triple changes its status and sequence registers alone. -/
theorem reg_raise_other (b b' : Blk) (st bit o : Nat) (hw : mapWf regDefault s.regs = true) (h1 : rk b' o ≠ rk b st)
    (h2 : rk b' o ≠ rk b (st + 8)) : reg (raise s b st bit) b' o = reg s b' o := by
  rw [raise, raiseAt, setRf, reg_setReg_other _ _ _ _ _ _ (setReg_wf _ _ _ _ hw) h2, reg_setReg_other _ _ _ _ _ _ hw h1]

/-- A message that is held is an event of the endpoint, and sends change no register (R362). -/
theorem reg_upstream (m : Msg) (hw : mapWf regDefault s.regs = true) (b : Blk) (o : Nat) (h1 : rk b o ≠ rk .ep 0x100)
    (h2 : rk b o ≠ rk .ep 0x108) (hm : (noteSent s m).regs = s.regs) : reg (upstream s m) b o = reg s b o := by
  unfold upstream
  split
  · exact congrArg (fun l => mapGet regDefault l (rk b o)) hm
  · exact reg_raise_other (s := { s with ep := { s.ep with held := s.ep.held ++ [m] } }) .ep b 0x100 2 o hw h1 h2

/-- Settling the interrupt lines changes no register but the endpoint's event registers. -/
theorem reg_settleIrq (hw : mapWf regDefault s.regs = true) (b : Blk) (o : Nat) (h1 : rk b o ≠ rk .ep 0x100) (h2 : rk b o ≠ rk .ep 0x108) :
    reg (settleIrq s) b o = reg s b o := by
  have hregs : (settleInta s).regs = s.regs := by rw [settleInta_eq]
  have hinta : reg (settleInta s) b o = reg s b o := congrArg (fun l => mapGet regDefault l (rk b o)) hregs
  unfold settleIrq settleMsi
  dsimp only
  split
  · split
    · exact hinta
    · rw [reg_upstream _ (by exact hregs ▸ hw) b o h1 h2 rfl]
      exact hinta
  · exact hinta

theorem prog?_issued (q : Prog) : prog? (issued s h q) h.core.val = some (afterBundle q) := prog?_setCore_run s _ _ _ rfl

theorem core_issued_other (q : Prog) (k : Nat) (hk : k ≠ h.core.val) : core (issued s h q) k = core s k :=
  core_setCore_other s _ _ _ _ rfl hk

end Sys2Proof.Machine
end

section
/-! PROOFS. The obligations on special registers, regions, the program registers and the frame of a bundle. -/

namespace Sys2Proof.Claims

open Sys2Proof.Machine

/-- Settles O17. -/
theorem specialRegistersReadAndWrite : Obligations.SpecialRegistersReadAndWrite := by
  refine fun s h p hx => ⟨fun f S hs hra hrest hS e he hn => ?_, fun f hra hrest hn hs => ?_, fun f hrd hrest hn hs => ?_,
    fun f hrd hrest hn h4 hs => ?_, fun f hrd hrest hn _ hz hs => ?_, fun f h20 h30 hs => ?_, fun f hd hs => ?_, fun f S hs hd hS => ⟨?_, fun hf ht => ?_⟩,
    fun f hd hs => ?_⟩
  · have hmem : e.1 ∈ specials := by
      simp only [List.mem_cons, List.not_mem_nil, or_false] at he
      rcases he with rfl | rfl | rfl | rfl | rfl | rfl | rfl | rfl | rfl | rfl | rfl | rfl | rfl | rfl | rfl | rfl <;> simp [specials]
    refine exec_mfs f e.2 hx hs hra hrest (hn ▸ hmem) ?_
    rw [hn]
    simp only [BitVec.ofNat_toNat, ← cstat_eq, ← jigstat_eq, List.mem_cons, List.not_mem_nil, or_false] at he
    rcases he with rfl | rfl | rfl | rfl | rfl | rfl | rfl | rfl | rfl | rfl | rfl | rfl | rfl | rfl | rfl | rfl
    all_goals first
      | rfl
      | exact congrArg (BitVec.setWidth 64) (engOn_fetched (.mfs h f))
  · exact exec_mfs f _ hx hs hra hrest (by simp [hn, specials]) (by rw [hn]; rfl)
  · rw [exec_mts f hx hs hrd hrest (.inr hn), hn]
    rfl
  · rw [exec_mts f hx hs hrd hrest (.inl hn), hn]
    have h4' : flag (sreg p f.ra) 4 = true := h4
    simp only [writeSpecial, writeCstat, h4', if_true]
    rfl
  · rw [exec_mts f hx hs hrd hrest (.inl hn), hn]
    have hbit : ∀ i, i < 5 → flag (sreg p f.ra) i = false := fun i hi => by
      have hm : (sreg p f.ra).toNat % 2 ^ 5 = 0 := hz
      have := Nat.testBit_mod_two_pow (sreg p f.ra).toNat 5 i
      rw [hm, Nat.zero_testBit] at this
      simpa [flag, hi, BitVec.testBit_toNat] using this.symm
    simp only [writeSpecial, writeCstat, hbit 0 (by decide), hbit 1 (by decide), hbit 2 (by decide), hbit 3 (by decide), hbit 4 (by decide),
      Bool.and_false, Bool.false_eq_true, if_false]
    rfl
  · refine exec_eq_raises_illegal _ (.mts f) hx.1 hs rfl ?_
    simp only [decodes, h20, h30, Bool.and_eq_false_iff, decide_false, Bool.or_self, or_true]
  · have hrest : f.rest.toNat < 2 ^ 23 := f.rest.isLt
    have e1 : bitsN f.rest.toNat 22 15 = f.rest.toNat / 2 ^ 15 := by
      rw [bitsN, Nat.shiftRight_eq_div_pow]
      omega
    have e2 : bitsN f.rest.toNat 14 9 = f.rest.toNat / 2 ^ 9 % 64 := by
      rw [bitsN, Nat.shiftRight_eq_div_pow]
      rfl
    rw [← e1, ← e2]
    exact exec_eq_completes _ hx hs rfl hd (fun _ => rfl) rfl
  · subst hS
    exact exec_eq_completes _ hx hs rfl hd (fun _ => rfl) rfl
  · subst hS
    rw [← completes_updProg (i := .mark h f) fun q => { q with mark := BitVec.ofNat 33 f.imm.toNat }]
    refine exec_eq_completes _ hx hs rfl hd (fun _ => rfl) ?_
    have ht' : tracePass (updProg (fetched s h (.mark h f) p) h.core.val fun q => { q with mark := BitVec.ofNat 33 f.imm.toNat }) 3
        (noWait p).ctx.toNat = false := by
      rw [updProg_fetched]
      exact ht
    simp only [effect, M_modify, seqMark, hf, Bool.false_eq_true, if_false, Nat.add_zero, traceRec, ht']
  · rw [BitVec.ofNat_toNat]
    refine exec_eq_progM (fun q => { q with waitTo := some (cycOf s h.core.val + f.imm.setWidth 64) }) hx hs rfl hd (fun _ => rfl) ?_
    simp only [effect, M_bind, M_get]
    rfl

/-- Settles O21. -/
theorem registerZeroIsConstant : Obligations.RegisterZeroIsConstant := by
  refine fun p => ⟨fun w => ⟨rfl, rfl⟩, fun v => ⟨rfl, rfl⟩, fun hw n m w hn => ?_, fun hw n m v hn => ?_⟩
  · rw [setSreg, if_neg hn, sreg, sreg]
    split
    next hm => rw [if_neg (by rw [hm]; exact fun h => hn h.symm)]
    next hm =>
      split
      next h => rw [h]; exact mapGet_mapSet_self _ _ 0 _ _ hw
      next h => exact mapGet_mapSet_other _ _ 0 _ _ _ hw fun he => h (BitVec.eq_of_toNat_eq he)
  · rw [setPreg, if_neg hn, preg, preg]
    split
    next hm => rw [if_neg (by rw [hm]; exact fun h => hn h.symm)]
    next hm =>
      split
      next h => rw [h]; exact mapGet_mapSet_self _ _ 0 _ _ hw
      next h => exact mapGet_mapSet_other _ _ 0 _ _ _ hw fun he => h (BitVec.eq_of_toNat_eq he)

/-- Settles O22: with no fault event raised the end of the command settles the interrupt lines alone. -/
theorem registerInstructionFrame : Obligations.RegisterInstructionFrame := by
  intro s h q hq
  have hset : settle (issued s h q) = settleIrq (issued s h q) := settle_of_quiet _ hq
  have hcores : (settleIrq (issued s h q)).cores = (issued s h q).cores := settleIrq_cores _
  refine ⟨_, rfl, ?_⟩
  rw [hset]
  refine ⟨?_, fun k hk => ?_, fun a => ?_, fun k => ?_, settleIrq_tasks _, ?_, ?_, ?_, ?_, settleIrq_pending _, ?_, fun hw b o h1 h2 => ?_⟩
  · rw [prog?, Machine.core, hcores]
    exact prog?_issued q
  · rw [Machine.core, hcores]
    exact core_issued_other q k hk
  · rw [memByte, settleIrq_mem]
    rfl
  · rw [chunkPoison, settleIrq_poison]
    rfl
  · rw [settleIrq_eq]; rfl
  · rw [settleIrq_eq]; rfl
  · rw [settleIrq_eq]; rfl
  · rw [settleIrq_eq]; rfl
  · rw [settleIrq_raised]; exact hq
  · exact reg_settleIrq (s := issued s h q) hw b o h1 h2

end Sys2Proof.Claims
end

section
/-! SUPPORT. Strikes (R194), regions (R193, R195) and what a region forbids (R171, R196). -/

namespace Sys2Proof.Machine

open Sys2Proof

variable {s : State} {h : Hdr} {p : Prog} {i : Instr} {o : SOp}

/-- An instruction that a region forbids aborts it (R196). -/
theorem exec_of_notInJig (hx : Executes s h p) (hs : Spells s h p i) (hv : view i = some (h, o)) (hd : decodes o = true)
    (hj : p.injig = true) (hn : notInJig o = true) : exec i s = aborts s h i p 2 := by
  refine exec_eq_aborts (fetched s h i p) 2 hx hs hv ?_ rfl rfl (by decide)
  have hl : listedAt (coreBefore s h i p) (noWait p) (p.pc.toNat + 8 * 0) = true := listedAt_spells i hs
  have hq : qualified (noWait p) h = true := hx.2
  have hg : (noWait p).injig = true := hj
  simp only [perform, hl, hd, hq, hg, hn, Bool.not_true, Bool.or_self, Bool.and_self, Bool.false_eq_true, if_false, if_true]
  rfl

/-- A strike whose line has not granted it joins the line's strikers once. -/
theorem seqStrike_wait (c : Nat) (q : Prog) (f : FmtS) (l : Nat) (t : State) (hl : physLine t q (f.rd.toNat / 4) = some l) (hg : q.granted = false)
    (hn : ((strikeLine t l).strikers.any fun k => k.1 = c) = false) :
    seqStrike c q f t = .error .wait (setStrikeLine t l { strikeLine t l with strikers := (strikeLine t l).strikers ++ [(c, (sreg q f.ra).toNat)] }) := by
  simp [seqStrike, hl, hg, hn]

theorem seqStrike_granted (c : Nat) (q : Prog) (f : FmtS) (l : Nat) (t : State) (hl : physLine t q (f.rd.toNat / 4) = some l) (hg : q.granted = true) :
    seqStrike c q f t = .ok () t := by
  simp [seqStrike, hl, hg]

/-- A strike that waits leaves the core's line of NC accesses empty. -/
theorem setCore_setStrikeLine_begun (l : Nat) (ra : Nat) :
    setCore (setStrikeLine (begun s h i p) l { strikeLine (begun s h i p) l with strikers := (strikeLine (begun s h i p) l).strikers ++ [(h.core.val, ra)] })
      h.core.val { core (setStrikeLine (begun s h i p) l
        { strikeLine (begun s h i p) l with strikers := (strikeLine (begun s h i p) l).strikers ++ [(h.core.val, ra)] }) h.core.val with ncLine := none }
    = setStrikeLine (setCore s h.core.val { coreBefore s h i p with ncLine := none }) l
        { strikeLine (fetched s h i p) l with strikers := (strikeLine (fetched s h i p) l).strikers ++ [(h.core.val, ra)] } := by
  have hc : core (begun s h i p) h.core.val = coreBefore s h i p := core_begun
  have hss : setCore (begun s h i p) h.core.val { coreBefore s h i p with ncLine := none } = setCore s h.core.val { coreBefore s h i p with ncLine := none } :=
    setCore_setCore_run s _ _ _ (noWait p) rfl
  rw [← hss]
  change setStrikeLine (setCore (begun s h i p) h.core.val { core (begun s h i p) h.core.val with ncLine := none }) l _ = _
  rw [hc]
  rfl

/-- The region that JIG.OPEN makes ready at its core (R193). -/
def openedRegion (c : Nat) (f : FmtL) (lo hi : Nat) (line : Option Nat) (u : State) : State :=
  updProg (setReg u (bCore c) 0x2C0 0) c fun q => { q with
    jid := jJid f, slips := 0, armed := f.flag,
    jig := some { lo, hi, line, lead := c, parts := [c], slip := none, cycle := 0, last := none, fmt0 := q.fmt, cb0 := q.cb,
                  curves0 := q.curves, rules0 := q.rules } }

/-- The region starts at once, or its core arms the line on which it waits. -/
def jigOpened (c : Nat) (ctx : BitVec 12) (f : FmtL) (line : Option Nat) (r : State) : State :=
  match line with
  | some l => coreRing (setStrikeLine r l { strikeLine r l with armed := (strikeLine r l).armed ++ [c] }) c 0x0A ctx.toNat
      (place 3 0 l ||| place 31 16 (jJid f).toNat)
  | none => startRegion r c c [c]

/-- JIG.OPEN once its engines, its stores and its faults are done and its lines are pinned. -/
theorem seqJigOpen_pinned (c : Nat) (k0 : Core) (q : Prog) (f : FmtL) (nextPc hi : Nat) (line : Option Nat) (t u : State)
    (hline : line = if f.flag then physLine t q (jLine f) else none) (hsome : f.flag = true → line.isSome = true)
    (hdone : enginesDone q 63 = true) (hbuf : k0.sbuf = []) (hpend : q.pend = [] ∨ q.inexc = true)
    (hhi : hi = (nextPc + 64 * jLen f + 63) / 64 * 64)
    (hpin : icPin c q ((List.range (hi / 64 - nextPc / 64)).map fun i => icKey q.ctx (nextPc / 64 * 64 + 64 * i)) (nextPc / 64 * 64)
      (hi / 64 - nextPc / 64) t = .ok () u) :
    seqJigOpen c k0 q f nextPc t = .ok () (jigOpened c q.ctx f line (openedRegion c f nextPc hi line u)) := by
  have hpend' : (!q.pend.isEmpty && !q.inexc) = false := by
    rcases hpend with hp | hp <;> simp [hp]
  have hflag : (f.flag && (physLine t q (jLine f)).isNone) = false := by
    cases hf : f.flag
    · rfl
    · have := hsome hf
      rw [hline, hf, if_pos rfl] at this
      rw [Bool.true_and, ← Option.not_isSome, this]
      rfl
  subst hhi
  simp only [seqJigOpen, M_bind, M_get, hflag, Bool.false_eq_true, if_false, waitEngines_of_done _ _ hdone, hbuf, List.isEmpty_nil, Bool.not_true,
    hpend', Bool.or_self, hpin, M_modify, progM_apply, ← hline]
  cases line <;> rfl

end Sys2Proof.Machine
end

section
/-! PROOFS. The obligation on strikes and regions. -/

namespace Sys2Proof.Claims

open Sys2Proof.Machine

/-- Settles O18. -/
theorem regionsOpenAndClose : Obligations.RegionsOpenAndClose := by
  refine fun s h p => ⟨fun hx f S l hs hd hS hl => ?_, fun hx f S T hi hs hd hS hq hbuf hpend hhi hpin R line hR => ?_, fun hx f S hs hd hS => ?_,
    fun hx f hs hd => ?_, fun hx i o hv hj hs hd hn => exec_of_notInJig hx hs hv hd hj hn⟩
  · subst hS
    have hj : p.injig = true → notInJig (.strike f) = false := fun hj => absurd hj (by simp [hx.2])
    refine ⟨fun hg => ?_, fun T hg hT hn => ?_⟩
    · rw [exec_eq_completes _ hx.1 hs rfl hd hj (seqStrike_granted _ (noWait p) f l _ hl hg)]
      exact completes_fetched
    · subst hT
      have hb := seqStrike_wait h.core.val (noWait p) f l (begun s h (.strike h f) p) hl hg hn
      rw [exec_eq_waitsAt _ _ hx.1 hs rfl hd hj (seqStrike_wait _ (noWait p) f l _ hl hg hn) hb]
      rw [if_neg SClass.noConfusion]
      refine congrArg (waitsAt h (.strike f)) ?_
      exact setCore_setStrikeLine_begun _ _
  · subst hS hR
    have hj : p.injig = true → notInJig (.jigOpen f) = false := fun hj => absurd hj (by simp [hx.2])
    have he (h1 : line = if f.flag then physLine (fetched s h (.jigOpen h f) p) (noWait p) (jLine f) else none) (h2 : f.flag = true → line.isSome = true) :=
      exec_eq_completes (o := .jigOpen f) _ hx.1 hs rfl hd hj (seqJigOpen_pinned h.core.val (coreBefore s h (.jigOpen h f) p) (noWait p) f
        (p.pc.toNat + 8) hi line _ T h1 h2 (enginesDone_all (noWait p) hq 63) hbuf hpend hhi hpin)
    refine ⟨fun hf hl => ?_, fun l hf hp hl => ?_⟩
    · subst hl
      exact he (by simp [hf]) (by simp [hf])
    · subst hl
      exact he (by simp [hf, hp]) (fun _ => rfl)
  · subst hS
    cases hg : p.injig
    · refine exec_eq_raises (fetched s h (.jigSeal h f) p) 1 0 0 0 hx hs rfl hd (fun _ => rfl) ?_ rfl rfl (by decide)
      simp [effect, show (noWait p).injig = false from hg]
    · refine exec_eq_completes _ hx hs rfl hd (fun _ => rfl) ?_
      simp [effect, show (noWait p).injig = true from hg]
  · exact exec_eq_raises (fetched s h (.brk h f) p) 0x0A 0 0 _ hx.1 hs rfl hd (fun hj => absurd hj (by simp [hx.2])) rfl rfl rfl (by decide)

end Sys2Proof.Claims
end

section
/-! SUPPORT. Reads of the own scratchpad (R182, R183), an engine's completions (R185) and the end of a core's part (R198). -/

namespace Sys2Proof.Machine

open Sys2Proof

variable {s t : State} {h : Hdr} {p : Prog} {i : Instr}

/-- Where the first part of a run ends well, the rest goes on from its end. -/
theorem bind_of_ok {α β : Type} {x : M α} {f : α → M β} {u v : State} {a : α} (hx : x u = .ok a v) : (x >>= f) u = f a v := by
  simp only [M_bind, hx]

/-- Where it stops, the run stops. -/
theorem bind_of_error {α β : Type} {x : M α} {f : α → M β} {u v : State} {e : Stop} (hx : x u = .error e v) : (x >>= f) u = .error e v := by
  simp only [M_bind, hx]

theorem queue_noWait (p : Prog) (e : Nat) : queue (noWait p) e = queue p e := rfl

theorem queue_atIssue (p : Prog) (e : Nat) : queue (atIssue p) e = queue p e := rfl

theorem seqCa_ok {a n : Nat} (h1 : a < 2 ^ 52) (h2 : a % n = 0) : seqCa a n s = .ok () s := by
  have h1' : ¬ 2 ^ 52 ≤ a := Nat.not_le.2 h1
  simp only [seqCa, h1', if_false, h2, ne_eq, not_true_eq_false]
  rfl

/-- A read of the own scratchpad gives the bytes that lie there. -/
theorem ownSpadRead_ok {a n : Nat} {bs : List Byte} (hg : SpadGives (fetched s h i p) h.core.val p a n bs t) :
    ownSpadRead h.core.val (coreBefore s h i p) (noWait p) a n (fetched s h i p) = .ok bs t := by
  obtain ⟨hlo, hhi, hheld, w, r, hseg, hbuf, hread, hbad, rfl⟩ := hg
  have hin : ¬(a < spadBase h.core.val ∨ spadBase h.core.val + spadSize < a + n) := by omega
  have hseg' : segCheck (fetched s h i p) (noWait p).ctx a n .r = .ok w := hseg
  have hbuf' : ((coreBefore s h i p).sbuf.any fun b => bufOverlaps b (segTarget a w) n) = false := by
    rw [core_fetched] at hbuf
    exact hbuf
  simp only [ownSpadRead, M_bind, hin, if_false, M_get, hheld, Bool.false_eq_true, hseg', hbuf', hread, hbad]
  rfl

/-- FTLD once its words are read. -/
theorem seqFtld_read {c : Nat} {k0 : Core} {q : Prog} {f : FmtM} {bs : List Byte} {g : Prog → Prog}
    (hca : seqCa (offset (sreg q f.ra) f.off) 8 s = .ok () s)
    (hr : ownSpadRead c k0 q (offset (sreg q f.ra) f.off) (8 * f.rb.toNat) s = .ok bs t)
    (hg : g = fun q => { q with fmt := (List.range f.rb.toNat).foldl (fun m i => mapPut m (f.rd.toNat + i)
      (fmtLoaded (wordAt (wordsOf f.rb.toNat bs) i))) q.fmt }) :
    seqFtld c k0 q f s = match firstBad f.rd.toNat ((wordsOf f.rb.toNat bs).map fmtLoadOk) with
      | some i => .error (.exc 7 0 (offset (sreg q f.ra) f.off) i) (updProg t c g)
      | none => .ok () (updProg t c g) := by
  refine (bind_of_ok hca).trans ((bind_of_ok hr).trans ((bind_of_ok (progM_apply _ _ _)).trans ?_))
  rw [← hg]
  cases firstBad f.rd.toNat ((wordsOf f.rb.toNat bs).map fmtLoadOk) <;> rfl

/-- CBLD once its slots are read. -/
theorem seqCbld_read {c : Nat} {k0 : Core} {q : Prog} {f : FmtM} {bs : List Byte} {g : Prog → Prog}
    (hca : seqCa (offset (sreg q f.ra) f.off) 8 s = .ok () s)
    (hr : ownSpadRead c k0 q (offset (sreg q f.ra) f.off) (32 * f.rb.toNat) s = .ok bs t)
    (hg : g = fun q => { q with cb := (List.range f.rb.toNat).foldl (fun m i => mapPut m (f.rd.toNat + i)
      { valid := cbOk ((bs.drop (32 * i)).take 32), base := (((bs.drop (32 * i)).take 32).getD 16 0).getLsbD 0,
        bytes := ((bs.drop (32 * i)).take 32).take 16 }) q.cb }) :
    seqCbld c k0 q f s = match firstBad f.rd.toNat ((List.range f.rb.toNat).map fun i => cbOk ((bs.drop (32 * i)).take 32)) with
      | some i => .error (.exc 7 0 (offset (sreg q f.ra) f.off) i) (updProg t c g)
      | none => .ok () (updProg t c g) := by
  refine (bind_of_ok hca).trans ((bind_of_ok hr).trans ((bind_of_ok (progM_apply _ _ _)).trans ?_))
  rw [← hg]
  cases firstBad f.rd.toNat ((List.range f.rb.toNat).map fun i => cbOk ((bs.drop (32 * i)).take 32)) <;> rfl

/-- The numbers of operations that have not started are of the queue's. -/
theorem queued_le (q : Prog) (e : Nat) : queued q e ≤ (queue q e).length := List.length_filter_le ..

/-- ISSUE to a powered engine whose queue has room. -/
theorem seqIssue_enqueue {c off : Nat} {k0 : Core} {q r : Prog} {f : FmtE} {d : List Word} {bs : List Byte} (hal : (sreg q f.ra).toNat % 64 = 0)
    (hoff : ((sreg q f.ra).toNat + 64 * f.off64.toNat) % 2 ^ 64 = off) (hroom : off + 64 ≤ spadSize)
    (hr : ownSpadRead c k0 q (spadBase c + off) 64 s = .ok bs t) (hd : issueDesc q f bs = d) (hp : prog? t c = some r)
    (hon : (core t c).engOn.getLsbD f.eng.toNat = true) (hfree : queued r f.eng.toNat < queueDepth f.eng.toNat)
    (hok : if q.injig then jigOp t c q f.eng.toNat d = true else bufHeld k0 (issueOp t c q f d r) = false) :
    seqIssue c k0 q f s = .ok () (updProg t c (enqueue t c q f d)) := by
  subst hoff
  refine (congrFun (if_neg (not_not.2 hal)) s).trans ((congrFun (if_neg (Nat.not_lt.2 hroom)) s).trans ((bind_of_ok hr).trans ((bind_of_ok (M_get t)).trans ?_)))
  dsimp only
  rw [hd, hp, hon]
  cases hj : q.injig <;> rw [hj] at hok
  · have hok' : bufHeld k0 (issueOp t c q f d r) = false := hok
    simp only [Option.getD_some, hok', decide_eq_false (Nat.not_le.2 hfree), Bool.or_self, Bool.not_true, Bool.false_eq_true, if_false, progM_apply]
  · have hok' : jigOp t c q f.eng.toNat d = true := hok
    simp only [Option.getD_some, hok', Nat.not_le.2 hfree, Bool.not_true, Bool.false_eq_true, if_false, if_true, progM_apply]

end Sys2Proof.Machine
end

section
/-! PROOFS. The obligations on engine queues, format loads, peer accesses, YIELD and END. -/

namespace Sys2Proof.Claims

open Sys2Proof.Machine

/-- Settles O19. -/
theorem yieldAndEndGiveUpTheCore : Obligations.YieldAndEndGiveUpTheCore := by
  refine fun s h p hx => ⟨fun f S hs hd hS => ⟨fun hq => ?_, fun hq => ?_⟩, fun f S hs hd hS => ⟨fun hq hok hp => ?_, fun hq => ?_⟩⟩ <;> subst hS
  · have hj : p.injig = true → notInJig (.yieldI f) = false := fun hj => absurd hj (by simp [hx.2])
    have hdone : enginesDone (noWait p) 63 = true := enginesDone_all (noWait p) hq 63
    have he : effect h.core.val (coreBefore s h (.yieldI h f) p) (noWait p) p.pc.toNat (p.pc.toNat + 8) (.yieldI f) (fetched s h (.yieldI h f) p)
        = .ok () (if otherReady (fetched s h (.yieldI h f) p) h.core.val p.task && (freeSlot (fetched s h (.yieldI h f) p) p.ctx).isSome
          then updProg (fetched s h (.yieldI h f) p) h.core.val fun q => { q with yielding := true } else fetched s h (.yieldI h f) p) := by
      simp only [effect, seqYield, M_bind, waitEngines_of_done _ _ hdone]
      rfl
    rw [exec_eq_completes _ hx.1 hs rfl hd hj he]
    split
    · exact completes_updProg _
    · exact completes_fetched
  · have hn : enginesDone (noWait p) 63 = false := enginesDone_63 (noWait p) hq
    refine exec_eq_waits (fetched s h (.yieldI h f) p) hx.1 hs rfl hd (fun hj => absurd hj (by simp [hx.2])) SClass.noConfusion ?_ ?_ <;>
      simp only [effect, seqYield, M_bind, waitEngines_of_not_done _ _ hn]
  · have hdone : enginesDone (noWait p) 63 = true := enginesDone_all (noWait p) hq 63
    refine exec_eq_completes _ hx.1 hs rfl hd (fun hj => absurd hj (by simp [hx.2])) ?_
    simp only [effect, seqEnd, M_bind, waitEngines_of_done _ _ hdone, releaseM_ok _ _ _ hok, show (noWait p).pend = [] from hp]
    rfl
  · have hn : enginesDone (noWait p) 63 = false := enginesDone_63 (noWait p) hq
    refine exec_eq_waits (fetched s h (.endTask h f) p) hx.1 hs rfl hd (fun hj => absurd hj (by simp [hx.2])) SClass.noConfusion ?_ ?_ <;>
      simp only [effect, seqEnd, M_bind, waitEngines_of_not_done _ _ hn]

/-- Settles O13. -/
theorem peerAccessesComplete : Obligations.PeerAccessesComplete := by
  refine fun s h p f a n hx ha hn hlt hal => ⟨fun hs hd S hS => ?_, fun hs hd S hS hrel => ?_⟩
  · subst hS ha hn
    have hj : p.injig = true → notInJig (.pld f) = false := fun hj => absurd hj (by simp [hx.2])
    have hca := seqCa_ok (s := fetched s h (.pld h f) p) hlt hal
    refine ⟨fun v hv => ?_, fun hv => ?_, fun hv hout hdead => ?_⟩
    · refine exec_eq_completes _ hx.1 hs rfl hd hj ?_
      simp only [effect, seqPld, M_bind, show sreg (noWait p) f.ra = sreg p f.ra from rfl, hca, M_get,
        show (noWait p).reply = some (.data v false) from hv, Bool.false_eq_true, if_false, M_modify, progM_apply]
    · refine exec_eq_progM (fun q => { setSreg q f.rd 0 with deadrd := true }) hx.1 hs rfl hd hj ?_
      simp only [effect, seqPld, M_bind, show sreg (noWait p) f.ra = sreg p f.ra from rfl, hca, M_get, show (noWait p).reply = some .dead from hv]
    · refine exec_eq_progM (fun q => { setSreg q f.rd 0 with deadrd := true }) hx.1 hs rfl hd hj ?_
      have hdead' : peerAlive (fetched s h (.pld h f) p) (peerOf (noWait p) f.rb) = false := hdead
      simp only [effect, seqPld, M_bind, show sreg (noWait p) f.ra = sreg p f.ra from rfl, hca, M_get, show (noWait p).reply = none from hv, hout,
        hdead', Bool.false_eq_true, if_false, Bool.not_false, if_true]
  · subst ha hn
    have hj : p.injig = true → notInJig (.pst f) = false := fun hj => absurd hj (by simp [hx.2])
    have hca := seqCa_ok (s := fetched s h (.pst h f) p) hlt hal
    have he : effect h.core.val (coreBefore s h (.pst h f) p) (noWait p) p.pc.toNat (p.pc.toNat + 8) (.pst f) (fetched s h (.pst h f) p)
        = if !peerAlive S (peerOf (noWait p) f.rb) then progM h.core.val (fun q => { q with lost := true }) S
          else .ok () (countPeer (dtRequest S (peerOf (noWait p) f.rb) h.core.val p.task 0 .pst dtWRITE (offset (sreg p f.ra) f.off)
            (toBytes (sizeBytes f.size) (sreg p f.rd).toNat) false) h.core.val (sizeBytes f.size)) := by
      subst hS
      by_cases ho : f.ord = 1
      · simp only [effect, seqPst, M_bind, show sreg (noWait p) f.ra = sreg p f.ra from rfl, hca, M_get, if_pos ho, releaseM_ok _ _ _ (hrel ho)]
        split <;> rfl
      · simp only [effect, seqPst, M_bind, show sreg (noWait p) f.ra = sreg p f.ra from rfl, hca, M_get, if_neg ho]
        split <;> rfl
    have hpeer : peerOf (noWait p) f.rb = (sreg p f.rb).toNat % 256 := rfl
    rw [hpeer] at he
    cases ha : peerAlive S ((sreg p f.rb).toNat % 256)
    · rw [ha, Bool.not_false, if_pos rfl, progM_apply] at he
      exact exec_eq_completes _ hx.1 hs rfl hd hj he
    · rw [ha, Bool.not_true, if_neg Bool.false_ne_true] at he
      exact exec_eq_completes _ hx.1 hs rfl hd hj he

/-- A format load whose entries fail their checks keeps what it has written (R182). -/
theorem exec_fmtload {s : State} {h : Hdr} {p : Prog} {i : Instr} {o : SOp} (hx : Executes s h p) (hs : Spells s h p i) (hv : view i = some (h, o))
    (hd : decodes o = true) (hj : notInJig o = false) (u : State) (a j : Nat)
    (he : effect h.core.val (coreBefore s h i p) (noWait p) p.pc.toNat (p.pc.toNat + 8) o (fetched s h i p) = .error (.exc 7 0 a j) u) :
    exec i s = .next (settle (bundleFault (begun s h i p) u h.core.val p.pc.toNat (p.pc.toNat + 8) 0 (.exc 7 0 a j))) := by
  rw [exec_eq_seqRun i _ s hv, seqRun_raised i o u 7 0 a j hx.1 hs hv (by rw [perform_of_decodes hs hd hx.2 (fun hg => hj), he])]
  rfl

/-- Settles O14. -/
theorem formatLoadsWriteEveryEntry : Obligations.FormatLoadsWriteEveryEntry := by
  refine fun s h p f a n S t bs hx ha hlt hal hn => ⟨fun g hs hd hS hg hgdef => ?_, fun g hs hd hS hg hgdef => ?_⟩ <;> subst hS ha hn
  · have he := seqFtld_read (q := noWait p) (seqCa_ok hlt hal) (ownSpadRead_ok hg) hgdef
    cases hb : firstBad f.rd.toNat ((wordsOf f.rb.toNat bs).map fmtLoadOk) <;> rw [hb] at he
    · exact exec_eq_completes _ hx hs rfl hd (fun _ => rfl) he
    · exact exec_fmtload hx hs rfl hd rfl _ _ _ he
  · have he := seqCbld_read (q := noWait p) (seqCa_ok hlt hal) (ownSpadRead_ok hg) hgdef
    cases hb : firstBad f.rd.toNat ((List.range f.rb.toNat).map fun i => cbOk ((bs.drop (32 * i)).take 32)) <;> rw [hb] at he
    · exact exec_eq_completes _ hx hs rfl hd (fun _ => rfl) he
    · exact exec_fmtload hx hs rfl hd rfl _ _ _ he

/-- An operation that completes leaves its queue and then the core, where that was what its task waited for. -/
theorem exec_engineOpComplete {s : State} {k : CoreIx} {p : Prog} {x : Finisher} {e : Nat} {op : EngOp} {rest : List EngOp}
    (hp : prog? s k.val = some p) (hc : completing p x = some (e, op, rest)) (hup : engineUp s k.val e = true)
    (hfin : opFinished s k.val e op = true) :
    exec (.engineOpComplete k x) s = after (leaveDone (completeOp (setProg s k.val (setQueue p e rest)) k.val e op) k.val) := by
  change execEngineOpComplete k x s = _
  simp only [execEngineOpComplete, hp, hc, hup, hfin, Bool.and_self, if_true, updProg_run _ _ _ p hp]
  rfl

/-- Settles O15. -/
theorem engineQueuesFillAndEmpty : Obligations.EngineQueuesFillAndEmpty := by
  refine ⟨fun s h p f off e S t bs d hx hs hd hoff he hS => ⟨fun hal hroom hg hdesc hon hp hlen hok => ?_, fun hal => ?_⟩,
    fun s k e p op rest hp hq hup hfin => ?_, fun s k p op n hp ho hup hfin => ?_, fun s h p f hx hs hd => ⟨fun hq => ?_, fun hq => ?_⟩⟩
  · subst hoff he hS
    refine exec_eq_completes _ hx hs rfl hd (fun _ => rfl) ?_
    have hmod : ((sreg p f.ra).toNat + 64 * f.off64.toNat) % 2 ^ 64 = (sreg p f.ra).toNat + 64 * f.off64.toNat :=
      Nat.mod_eq_of_lt (by simp only [spadSize] at hroom; omega)
    exact seqIssue_enqueue (q := noWait p) hal hmod hroom (ownSpadRead_ok hg) hdesc.symm hp hon (lt_of_le_of_lt (queued_le _ _) hlen) hok
  · subst hoff he hS
    refine exec_eq_raises (fetched s h (.issue h f) p) 3 0 _ 0 hx hs rfl hd (fun _ => rfl) ?_ rfl rfl (by decide)
    simp only [effect, seqIssue, M_bind, show sreg (noWait p) f.ra = sreg p f.ra from rfl, ne_eq, hal, not_false_eq_true, if_true]
    rfl
  · exact exec_engineOpComplete hp (by simp only [completing, hq]) hup hfin
  · exact exec_engineOpComplete hp (by simp only [completing, ho, Option.map_some]) hup hfin
  · have hdone : enginesDone (noWait p) f.rd.toNat = true := (enginesDone_iff _ _).2 hq
    rw [exec_eq_completes _ hx hs rfl hd (fun _ => rfl) (waitEngines_of_done _ _ hdone _)]
    exact completes_fetched
  · have hn : enginesDone (noWait p) f.rd.toNat = false := by
      obtain ⟨e, he, hbit, hne⟩ := hq
      exact Bool.eq_false_iff.2 fun hd => hne ((enginesDone_iff _ _).1 hd e he hbit)
    exact exec_eq_waits _ hx hs rfl hd (fun _ => rfl) SClass.noConfusion (waitEngines_of_not_done _ _ hn _) (waitEngines_of_not_done _ _ hn _)

end Sys2Proof.Claims
end

section
/-! SUPPORT. Loads, stores and atomics of a sequencer, by the way their access takes (R175-R178, R196, R248, R264). -/

namespace Sys2Proof.Machine

open Sys2Proof

variable {s t u : State} {h : Hdr} {p : Prog} {i : Instr} {c a n : Nat} {q : Prog} {k0 : Core} {tg : Target}

@[simp] theorem length_toBytes (n v : Nat) : (toBytes n v).length = n := by
  induction n generalizing v with
  | zero => rfl
  | succ n ih => rw [toBytes, List.length_cons, ih]

/-- The target of an access that its checks allow. -/
theorem seqTarget_local {pm : Perm} {wr : Bool} (hl : LocalAccess s p a n pm wr tg) : seqTarget c (noWait p) a n pm s = .ok tg s := by
  obtain ⟨ha, hn, -, ⟨w, hw, rfl⟩, h1, h2, -⟩ := hl
  exact seqTarget_ok c a n (noWait p) pm w ha hn hw h1 h2

theorem seqCa_local {pm : Perm} {wr : Bool} (hl : LocalAccess s p a n pm wr tg) : seqCa a n t = .ok () t := by
  obtain ⟨ha, -, hal, -⟩ := hl
  exact seqCa_ok (ha.trans (by decide)) hal

theorem seqHeld_local {pm : Perm} {wr : Bool} (hl : LocalAccess s p a n pm wr tg) : seqHeld (noWait p) a n wr = false := by
  obtain ⟨-, -, -, -, -, -, hh⟩ := hl
  exact hh

theorem lt_of_local {pm : Perm} {wr : Bool} (hl : LocalAccess s p a n pm wr tg) : a < 2 ^ 51 := hl.1

theorem seqCa_misaligned (h1 : a < 2 ^ 52) (h2 : a % n ≠ 0) : seqCa a n s = .error (.exc 3 0 a 0) s := by
  simp only [seqCa, Nat.not_le.2 h1, h2, if_false, if_true, ne_eq, not_false_eq_true]
  rfl

theorem seqCa_high (h1 : 2 ^ 52 ≤ a) : seqCa a n s = .error (.exc 4 6 a 0) s := by
  simp only [seqCa, h1, if_true]
  rfl

/-! Stores. -/

section
variable {d : List Byte} {f : FmtM} {r : State}

/-- An ordered access is first a release of its scope. -/
theorem release_ordered {b : Bool} {sc : Nat} (hr : b = true → releaseOk s k0 c sc = true) (hrr : r = if b then released s sc else s)
    {g : Unit → M Unit} (hg : g () r = .ok () u) : (if b = true then releaseM k0 c sc >>= g else g ()) s = .ok () u := by
  subst hrr
  cases b
  · exact hg
  · exact (bind_of_ok (releaseM_ok _ _ _ (hr rfl))).trans hg

theorem queueStore_register {o : Nat} (hh : seqHeld q a d.length true = false) (ht : seqTarget c q a d.length .w s = .ok tg s)
    (hr : isOrdered f.ord = true → releaseOk s k0 c f.scope.toNat = true) (hrr : r = if isOrdered f.ord then released s f.scope.toNat else s)
    (hm : mirrorOff tg = some o) :
    queueStore c k0 q a d f s = .ok () (performWrite r { rq := .mirror, key := o, size := d.length, val := BitVec.ofNat 64 (ofBytes d) }) := by
  refine (congrFun (if_neg (by simp [hh])) s).trans ((bind_of_ok ht).trans (release_ordered hr hrr ((bind_of_ok (M_get r)).trans ?_)))
  rw [hm]
  rfl

theorem queueStore_bypass (hh : seqHeld q a d.length true = false) (ht : seqTarget c q a d.length .w s = .ok tg s)
    (hr : isOrdered f.ord = true → releaseOk s k0 c f.scope.toNat = true) (hrr : r = if isOrdered f.ord then released s f.scope.toNat else s)
    (hm : mirrorOff tg = none) (hv : isVolatile f.ord = true ∨ f.hint = 1 ∨ allocates tg = false) :
    queueStore c k0 q a d f s = .ok () (setCore (giveUpLine r c tg) c { core (giveUpLine r c tg) c with
      sbuf := (core (giveUpLine r c tg) c).sbuf ++ [{ tgt := tg, named := a, nc := true, data := d }] }) := by
  refine (congrFun (if_neg (by simp [hh])) s).trans ((bind_of_ok ht).trans (release_ordered hr hrr ((bind_of_ok (M_get r)).trans ?_)))
  rw [hm]
  dsimp only
  rw [if_pos (by rcases hv with h | h | h <;> simp [h])]
  rfl

theorem queueStore_owned {slot : Nat} {l : CLine} (hh : seqHeld q a d.length true = false) (ht : seqTarget c q a d.length .w s = .ok tg s)
    (hr : isOrdered f.ord = true → releaseOk s k0 c f.scope.toNat = true) (hrr : r = if isOrdered f.ord then released s f.scope.toNat else s)
    (hm : mirrorOff tg = none) (hv : isVolatile f.ord = false) (hn : f.hint = 0) (hal : allocates tg = true) (ho : ownCopy r c tg = some (slot, l))
    (hown : hasOwn l = true) (hp : l.poison = false) :
    queueStore c k0 q a d f s = .ok () (setCore (dcPut r c slot l) c { core (dcPut r c slot l) c with
      sbuf := (core (dcPut r c slot l) c).sbuf ++ [{ tgt := tg, named := a, nc := false, data := d }] }) := by
  refine (congrFun (if_neg (by simp [hh])) s).trans ((bind_of_ok ht).trans (release_ordered hr hrr ((bind_of_ok (M_get r)).trans ?_)))
  rw [hm]
  dsimp only
  rw [if_neg (by simp [hv, hn, hal]), ho]
  dsimp only
  rw [if_pos hown, hp]
  rfl

end

/-! Accesses of a region. -/

theorem regionTarget_locked {pm : Perm} {x : Nat × CLine} (ha : a < 2 ^ 51) (ht : seqTarget c q a n pm s = .ok tg s) (hl : lockedCopy s c tg = some x) :
    regionTarget c q a n pm false false s = .ok (tg, some x) s := by
  refine (congrFun (if_neg (Nat.not_le.2 ha)) s).trans ((bind_of_ok ht).trans ((bind_of_ok (M_get s)).trans ?_))
  rw [hl]
  rfl

theorem regionTarget_outside {pm : Perm} (ha : a < 2 ^ 51) (ht : seqTarget c q a n pm s = .ok tg s) (hl : lockedCopy s c tg = none)
    (hm : mirrorOff tg = none) : regionTarget c q a n pm false false s = .error (.abort (regionCode s c a)) s := by
  refine (congrFun (if_neg (Nat.not_le.2 ha)) s).trans ((bind_of_ok ht).trans ((bind_of_ok (M_get s)).trans ?_))
  rw [hl, hm]
  rfl

theorem regionLoad_locked {slot : Nat} {l : CLine} (ha : a < 2 ^ 51) (ht : seqTarget c q a n .r s = .ok tg s)
    (hl : lockedCopy s c tg = some (slot, l)) :
    regionLoad c q a n false false s = .ok ((l.data.drop (tg.addr % 64)).take n, l.poison) (dcPut s c slot l) :=
  (bind_of_ok (regionTarget_locked ha ht hl)).trans rfl

theorem regionLoad_outside (ha : a < 2 ^ 51) (ht : seqTarget c q a n .r s = .ok tg s) (hl : lockedCopy s c tg = none) (hm : mirrorOff tg = none) :
    regionLoad c q a n false false s = .error (.abort (regionCode s c a)) s :=
  bind_of_error (regionTarget_outside ha ht hl hm)

theorem regionStore_locked {slot : Nat} {l : CLine} {d : List Byte} (ha : a < 2 ^ 51) (ht : seqTarget c q a d.length .w s = .ok tg s)
    (hl : lockedCopy s c tg = some (slot, l)) (hown : hasOwn l = true) :
    regionStore c q a d false false s = .ok () (dcPut s c slot (storeLine l tg d)) := by
  refine (bind_of_ok (regionTarget_locked ha ht hl)).trans ((bind_of_ok (M_get s)).trans ?_)
  exact congrFun (if_pos hown) s

/-! Atomics. -/

theorem amoCached_owned {f : FmtA} {slot : Nat} {l : CLine} (ho : ownCopy s c tg = some (slot, l)) (hown : hasOwn l = true) (hp : l.poison = false) :
    amoCached c a q f tg n s = .ok ((l.data.drop (tg.addr % 64)).take n)
      (dcPut s c slot (storeLine l tg (amoBytes q f n ((l.data.drop (tg.addr % 64)).take n)))) := by
  refine (bind_of_ok (M_get s)).trans ?_
  rw [ho]
  dsimp only
  rw [if_pos hown, hp]
  rfl

/-- An AMO of a core's own line. -/
theorem seqAmo_cached {f : FmtA} {r : State} {old : List Byte} (hca : seqCa (offset (sreg q f.ra) f.off) (sizeBytes f.size) s = .ok () s)
    (hmi : isMirror (offset (sreg q f.ra) f.off) = false) (hh : seqHeld q (offset (sreg q f.ra) f.off) (sizeBytes f.size) true = false)
    (ht : seqTarget c q (offset (sreg q f.ra) f.off) (sizeBytes f.size) .a s = .ok tg s) (hm : mirrorOff tg = none)
    (hb : bufFind k0.sbuf tg (sizeBytes f.size) = none) (hr : f.ord.getLsbD 1 = true → releaseOk s k0 c f.scope.toNat = true)
    (hrr : r = if f.ord.getLsbD 1 then released s f.scope.toNat else s) (hsc : f.scope.toNat ≤ 1) (hhost : tg.host = false) (hal : allocates tg = true)
    (ham : amoCached c (offset (sreg q f.ra) f.off) q f tg (sizeBytes f.size) r = .ok old u) :
    seqAmo c k0 q f s = .ok () (updProg u c fun q => setSreg q f.rd (BitVec.ofNat 64 (ofBytes old))) := by
  refine (bind_of_ok hca).trans ((congrFun (if_neg (by simp [hmi])) s).trans ((congrFun (if_neg (by simp [hh])) s).trans ((bind_of_ok ht).trans ?_)))
  refine (congrFun (if_neg (by simp [hm])) s).trans ((congrFun (if_neg (by simp [hb])) s).trans ?_)
  refine release_ordered hr hrr ((congrFun (if_neg (by simp [hhost])) r).trans ((congrFun (if_pos (by simp [hsc, hal])) r).trans ?_))
  exact (bind_of_ok ham).trans rfl

end Sys2Proof.Machine
end

section
/-! PROOFS. The obligations on stores, region accesses and atomics. -/

namespace Sys2Proof.Claims

open Sys2Proof.Machine

variable {s : State} {h : Hdr} {p : Prog} {f : FmtM} {a n : Nat} {S R : State} {t : Target}

/-- A store outside a region that its CA allows is one in queue mode. -/
theorem effect_st {u : State} (hl : LocalAccess (fetched s h (.st h f) p) p (offset (sreg p f.ra) f.off) (sizeBytes f.size) .w true t)
    (hj : p.injig = false)
    (hq : queueStore h.core.val (coreBefore s h (.st h f) p) (noWait p) (offset (sreg p f.ra) f.off) (toBytes (sizeBytes f.size) (sreg p f.rd).toNat) f
      (fetched s h (.st h f) p) = .ok () u) :
    effect h.core.val (coreBefore s h (.st h f) p) (noWait p) p.pc.toNat (p.pc.toNat + 8) (.st f) (fetched s h (.st h f) p) = .ok () u :=
  (bind_of_ok (seqCa_local hl)).trans ((congrFun (if_neg (by simp [show (noWait p).injig = false from hj])) _).trans hq)

/-- Settles O9. -/
theorem storeEntersTheBuffer : Obligations.StoreEntersTheBuffer := by
  refine fun s h p f a n S R d hx hs hd hR ha hn hS hdd => ⟨fun t hl hrel => ?_, fun h1 h2 => ?_, fun h1 => ?_⟩ <;> subst ha hn hS hdd
  · have hj : p.injig = true → notInJig (.st f) = false := fun _ => rfl
    have hlen := length_toBytes (sizeBytes f.size) (sreg p f.rd).toNat
    have hheld : seqHeld (noWait p) (offset (sreg p f.ra) f.off) (toBytes (sizeBytes f.size) (sreg p f.rd).toNat).length true = false := by
      rw [hlen]
      exact seqHeld_local hl
    have ht : seqTarget h.core.val (noWait p) (offset (sreg p f.ra) f.off) (toBytes (sizeBytes f.size) (sreg p f.rd).toNat).length .w
        (fetched s h (.st h f) p) = .ok t (fetched s h (.st h f) p) := by
      rw [hlen]
      exact seqTarget_local hl
    refine ⟨fun o hm => ?_, fun hm hv => ⟨_, rfl, ?_⟩, fun slot l hm hv hnc hal ho hown hp => ⟨_, rfl, ?_⟩⟩
    · have hq := queueStore_register hheld ht hrel hR hm
      rw [hlen] at hq
      exact exec_eq_completes _ hx.1 hs rfl hd hj (effect_st hl hx.2 hq)
    · exact exec_eq_completes _ hx.1 hs rfl hd hj (effect_st hl hx.2 (queueStore_bypass hheld ht hrel hR hm hv))
    · exact exec_eq_completes _ hx.1 hs rfl hd hj (effect_st hl hx.2 (queueStore_owned hheld ht hrel hR hm hv hnc hal ho hown hp))
  · exact exec_eq_raises (fetched s h (.st h f) p) 3 0 _ 0 hx.1 hs rfl hd (fun _ => rfl) (bind_of_error (seqCa_misaligned h1 h2)) rfl rfl (by decide)
  · exact exec_eq_raises (fetched s h (.st h f) p) 4 6 _ 0 hx.1 hs rfl hd (fun _ => rfl) (bind_of_error (seqCa_high h1)) rfl rfl (by decide)

/-- A plain load inside a region. -/
theorem effect_ld_region (hl : LocalAccess (fetched s h (.ld h f) p) p (offset (sreg p f.ra) f.off) (sizeBytes f.size) .r false t)
    (hj : p.injig = true) (hv : isVolatile f.ord = false) (hh : f.hint = 0) :
    effect h.core.val (coreBefore s h (.ld h f) p) (noWait p) p.pc.toNat (p.pc.toNat + 8) (.ld f) (fetched s h (.ld h f) p)
      = (regionLoad h.core.val (noWait p) (offset (sreg p f.ra) f.off) (sizeBytes f.size) false false >>= fun x => do
          if x.2 then poisonExc (offset (sreg p f.ra) f.off)
          progM h.core.val fun q => setSreg q f.rd (loadValue f.size (ofBytes x.1))) (fetched s h (.ld h f) p) := by
  refine (bind_of_ok (seqCa_local hl)).trans ((congrFun (if_pos hj) _).trans ?_)
  rw [hv, hh]
  rfl

/-- Settles O10. -/
theorem regionAccessHitsALockedWay : Obligations.RegionAccessHitsALockedWay := by
  refine fun s h p f a n t hx hj ha hn hv hh => ⟨fun S hS hs hd hl => ⟨fun slot l hlk hp => ?_, fun hlk hm => ?_⟩, fun S hS hs hd hl slot l hlk hown => ?_⟩ <;>
    subst ha hn hS
  · have hload := regionLoad_locked (lt_of_local hl) (seqTarget_local hl) hlk
    rw [hp] at hload
    exact exec_eq_completes _ hx hs rfl hd (fun _ => rfl) ((effect_ld_region hl hj hv hh).trans ((bind_of_ok hload).trans rfl))
  · have hload := regionLoad_outside (lt_of_local hl) (seqTarget_local hl) hlk hm
    refine exec_eq_aborts (fetched s h (.ld h f) p) _ hx hs rfl ?_ rfl rfl ?_
    · rw [perform_of_decodes hs hd hx.2 (fun _ => rfl)]
      exact (effect_ld_region hl hj hv hh).trans (bind_of_error hload)
    · unfold regionCode
      split <;> decide
  · have hlen := length_toBytes (sizeBytes f.size) (sreg p f.rd).toNat
    have ht : seqTarget h.core.val (noWait p) (offset (sreg p f.ra) f.off) (toBytes (sizeBytes f.size) (sreg p f.rd).toNat).length .w
        (fetched s h (.st h f) p) = .ok t (fetched s h (.st h f) p) := by
      rw [hlen]
      exact seqTarget_local hl
    have hst := regionStore_locked (lt_of_local hl) ht hlk hown
    refine exec_eq_completes _ hx hs rfl hd (fun _ => rfl) ((bind_of_ok (seqCa_local hl)).trans ((congrFun (if_pos hj) _).trans ?_))
    rw [hv, hh]
    exact hst

theorem signedOf_eq_toInt (w v : Nat) (hw : 0 < w) : signedOf w v = (BitVec.ofNat w v).toInt := by
  obtain ⟨k, rfl⟩ : ∃ k, w = k + 1 := ⟨w - 1, by omega⟩
  have h2 : (2 : Nat) ^ (k + 1) = 2 * 2 ^ k := by rw [Nat.pow_succ, Nat.mul_comm]
  simp only [signedOf, BitVec.toInt_eq_toNat_cond, BitVec.toNat_ofNat, Nat.add_sub_cancel, show k + 1 ≠ 0 by omega, if_false]
  by_cases hlt : v % 2 ^ (k + 1) < 2 ^ k
  · rw [if_pos hlt, if_pos (by omega)]
  · rw [if_neg hlt, if_neg (by omega)]
    push_cast
    rfl

/-- Settles O11. -/
theorem atomicReturnsTheOldValue : Obligations.AtomicReturnsTheOldValue := by
  refine ⟨fun s h p f a n S R hx hs ha hn hS hR => ⟨fun hd t slot l old hl hm hmi hb hrel hsc hhost hal ho hown hp hold => ?_, fun hno => ?_,
    fun hd h1 h2 => ?_⟩, fun w old b expect hw ho hb he => ?_⟩
  · subst ha hn hS hold
    have hj : p.injig = true → notInJig (.amo f) = false := fun hj => absurd hj (by simp [hx.2])
    exact exec_eq_completes _ hx.1 hs rfl hd hj (seqAmo_cached (seqCa_local hl) hmi (seqHeld_local hl) (seqTarget_local hl) hm hb hrel hR hsc hhost hal
      (amoCached_owned ho hown hp))
  · refine exec_eq_raises_illegal _ (.amo f) hx.1.1 hs rfl ?_
    rcases hno with h5 | h10 | ⟨h2, h3⟩
    · simp [decodes, h5]
    · simp [decodes, show ¬f.aop.toNat ≤ 9 by omega]
    · rw [decodes, decide_eq_false h2, decide_eq_false h3]
      rfl
  · subst ha hn
    exact exec_eq_raises (fetched s h (.amo h f) p) 3 0 _ 0 hx.1 hs rfl hd (fun hj => absurd hj (by simp [hx.2])) (bind_of_error (seqCa_misaligned h1 h2))
      rfl rfl (by decide)
  · have hmod : ∀ {x}, x < 2 ^ w → x % 2 ^ w = x := fun hx => Nat.mod_eq_of_lt hx
    have hite : ∀ (q : Prop) [Decidable q] (x y : Nat), x < 2 ^ w → y < 2 ^ w → (if q then x else y) < 2 ^ w := fun q _ x y hx hy => by
      split
      · exact hx
      · exact hy
    rw [← signedOf_eq_toInt w old hw, ← signedOf_eq_toInt w b hw]
    exact ⟨hmod hb, hmod (hite _ _ _ hb ho), rfl, hmod (Nat.and_lt_two_pow _ hb), hmod (Nat.or_lt_two_pow ho hb), hmod (Nat.xor_lt_two_pow ho hb),
      hmod (hite _ _ _ ho hb), hmod (hite _ _ _ hb ho), hmod (lt_of_le_of_lt (min_le_left _ _) ho), hmod (max_lt ho hb)⟩

end Sys2Proof.Claims
end

section
/-! SUPPORT. Cache operations (R180, R181, R249, R251). -/

namespace Sys2Proof.Machine

open Sys2Proof

variable {s t u : State} {h : Hdr} {p : Prog} {c a : Nat} {q : Prog} {k0 : Core} {tg : Target} {f : FmtM}

/-! A prefetch. -/

theorem seqPf_high (ha : 2 ^ 51 ≤ offset (sreg q f.ra) f.off) : seqPf c q f s = .ok () s :=
  congrFun (if_pos ha) s

theorem seqPf_denied {e : Nat} (ha : offset (sreg q f.ra) f.off < 2 ^ 51)
    (he : segCheck s q.ctx (offset (sreg q f.ra) f.off) 1 (if f.hint = 1 then .w else .r) = .error e) : seqPf c q f s = .ok () s := by
  refine (bind_of_ok (M_get s)).trans ((congrFun (if_neg (Nat.not_le.2 ha)) s).trans ?_)
  simp only [decide_eq_true_eq, he]
  rfl

theorem seqPf_asks {w : Word} (ha : offset (sreg q f.ra) f.off < 2 ^ 51)
    (hw : segCheck s q.ctx (offset (sreg q f.ra) f.off) 1 (if f.hint = 1 then .w else .r) = .ok w)
    (ht : tg = segTarget (offset (sreg q f.ra) f.off) w) (hh : isHole s tg.addr = false) (hal : allocates tg = true) (ho : ownCopy s c tg = none)
    (hn : needsFullWb s c (offset (sreg q f.ra) f.off) = false) (hl : ((core s c).fills.filter Fill.prefetch).length < 4) :
    seqPf c q f s = .ok () (requestLine s c (setOf (offset (sreg q f.ra) f.off)) tg (decide (f.hint = 1)) false true) := by
  subst ht
  refine (bind_of_ok (M_get s)).trans ((congrFun (if_neg (Nat.not_le.2 ha)) s).trans ?_)
  simp only [decide_eq_true_eq, hw]
  refine congrFun (if_neg ?_) s
  rw [hh, hal, ho, hn, decide_eq_false (Nat.not_le.2 hl)]
  exact Bool.false_ne_true

/-! The operations of CACHE on the core's own copy of a line outside the mirror that no buffered store overlaps. -/

section
variable {slot : Nat} {l : CLine}

theorem seqCache_zero (ha : offset (sreg q f.ra) f.off < 2 ^ 52) (hh : seqHeld q (offset (sreg q f.ra) f.off / 64 * 64) 64 true = false)
    (ht : seqTarget c q (offset (sreg q f.ra) f.off) 1 .w s = .ok tg s) (hm : mirrorOff tg = none)
    (hb : (k0.sbuf.any fun x => bufOverlaps x { tg with addr := lineOf tg * 64 } 64) = false) (hal : allocates tg = true)
    (ho : ownCopy s c tg = some (slot, l)) (hown : hasOwn l = true) :
    seqCache c k0 q 0 f s = .ok () (dcPut s c slot { l with st := .m, data := List.replicate 64 0, poison := false }) := by
  refine (congrFun (if_neg (Nat.not_le.2 ha)) s).trans ((congrFun (if_neg (by simp [hh])) s).trans ((bind_of_ok ht).trans ?_))
  rw [hm]
  refine (congrFun (if_neg (by simp [hb])) s).trans ((bind_of_ok (M_get s)).trans ((congrFun (if_pos hal) s).trans ?_))
  rw [ho]
  exact congrFun (if_pos hown) s

/-- The other operations take the core's copy as it is. -/
theorem seqCache_copy (op : Nat) (h0 : op ≠ 0) (h4 : op ≠ 4) (ha : offset (sreg q f.ra) f.off < 2 ^ 52)
    (ht : seqTarget c q (offset (sreg q f.ra) f.off) 1 (if op = 0 || op = 3 then .w else .r) s = .ok tg s) (hm : mirrorOff tg = none)
    (hb : (k0.sbuf.any fun x => bufOverlaps x { tg with addr := lineOf tg * 64 } 64) = false) (ho : ownCopy s c tg = some (slot, l)) :
    seqCache c k0 q op f s = .ok ()
      (if op = 1 then (if isDirty l.st then writeBackLine s c slot l else s)
       else if op = 2 then (if isDirty l.st then evictDirty (setDcache s c (mapDel (core s c).dcache slot)) c l
         else setDcache s c (mapDel (core s c).dcache slot))
       else setDcache s c (mapDel (core s c).dcache slot)) := by
  refine (congrFun (if_neg h4) s).trans ((congrFun (if_neg (Nat.not_le.2 ha)) s).trans ((congrFun (if_neg (by simp [h0])) s).trans ((bind_of_ok ht).trans ?_)))
  rw [hm]
  refine (congrFun (if_neg (by simp [hb])) s).trans ((congrFun (if_neg h0) s).trans ((bind_of_ok (M_get s)).trans ?_))
  rw [ho]
  by_cases h1 : op = 1
  · subst h1
    dsimp only
    rw [if_pos rfl, if_pos rfl]
    cases isDirty l.st <;> rfl
  · by_cases h2 : op = 2
    · subst h2
      rfl
    · simp only [h1, h2, if_false]
      rfl

end

/-- CACHE IINV empties the instruction cache. -/
theorem seqCache_all : seqCache c k0 q 4 f s = .ok () (setCore s c { core s c with icache := [] }) := rfl

end Sys2Proof.Machine
end

section
/-! PROOFS. The obligation on cache operations. -/

namespace Sys2Proof.Claims

open Sys2Proof.Machine

theorem decodes_cache {f : FmtM} (op : Nat) (h1 : f.rd = 0) (h2 : f.rb = 0) (h3 : f.scope = 0) (h4 : f.ord = 0) (h5 : f.hint = 0) (h6 : f.size.toNat ≤ 4) :
    decodes (.cache op f) = true := by
  simp [decodes, h1, h2, h3, h4, h5, h6]

/-- Settles O12. -/
theorem cacheOperationsAct : Obligations.CacheOperationsAct := by
  refine fun s h p hx => ⟨fun f a S hs hd ha hS => ?_, fun f a t slot l ha h1 h2 h3 h4 h5 h6 hm hb => ?_, fun f h1 h2 h3 h4 h5 h6 hs => ?_,
    fun f hd hs => ?_, fun f S hs hd hS hrel => ?_⟩
  · subst ha hS
    have hj : p.injig = true → notInJig (.pf f) = false := fun hj => absurd hj (by simp [hx.2])
    refine ⟨fun ha => ?_, fun e ha he => ?_, fun w t ha hw ht hh hal ho hn hl => ?_⟩
    · rw [exec_eq_completes _ hx.1 hs rfl hd hj (seqPf_high ha)]
      exact completes_fetched
    · rw [exec_eq_completes _ hx.1 hs rfl hd hj (seqPf_denied ha he)]
      exact completes_fetched
    · exact exec_eq_completes _ hx.1 hs rfl hd hj (seqPf_asks ha hw ht hh hal ho hn hl)
  · subst ha
    have hd : ∀ op, decodes (.cache op f) = true := fun op => decodes_cache op h1 h2 h3 h4 h5 h6
    have hj : ∀ op, p.injig = true → notInJig (.cache op f) = false := fun _ hj => absurd hj (by simp [hx.2])
    have h52 : ∀ {pm S wr}, LocalAccess S p (offset (sreg p f.ra) f.off) 1 pm wr t → offset (sreg p f.ra) f.off < 2 ^ 52 := fun hl =>
      (lt_of_local hl).trans (by decide)
    refine ⟨fun S hS hs hl hh hal ho hown => ?_, fun S hS hs hl ho => ?_, fun S D hS hs hl ho hD => ?_, fun S hS hs hl ho => ?_⟩ <;> subst hS
    · exact exec_eq_completes _ hx.1 hs rfl (hd 0) (hj 0) (seqCache_zero (q := noWait p) (h52 hl) hh (seqTarget_local hl) hm hb hal ho hown)
    · exact exec_eq_completes _ hx.1 hs rfl (hd 1) (hj 1)
        (seqCache_copy (q := noWait p) 1 (by decide) (by decide) (h52 hl) (seqTarget_local hl) hm hb ho)
    · subst hD
      exact exec_eq_completes _ hx.1 hs rfl (hd 2) (hj 2)
        (seqCache_copy (q := noWait p) 2 (by decide) (by decide) (h52 hl) (seqTarget_local hl) hm hb ho)
    · exact exec_eq_completes _ hx.1 hs rfl (hd 3) (hj 3)
        (seqCache_copy (q := noWait p) 3 (by decide) (by decide) (h52 hl) (seqTarget_local hl) hm hb ho)
  · refine exec_eq_completes _ hx.1 hs rfl (decodes_cache 4 h1 h2 h3 h4 h5 h6) (fun hj => absurd hj (by simp [hx.2])) ?_
    refine seqCache_all.trans ?_
    refine congrArg (EStateM.Result.ok ()) ?_
    rw [core_fetched, fetched, setCore_setCore_run s _ _ _ (atIssue p) rfl]
  · exact exec_eq_progM (o := .dlock f) (fun q => { q with lockMask := f.imm.setWidth 4 }) hx.1 hs rfl hd (fun hj => absurd hj (by simp [hx.2])) rfl
  · subst hS
    have hj : p.injig = true → notInJig (.fence f) = false := fun hj => absurd hj (by simp [hx.2])
    by_cases ho : f.ord = 1
    · rw [if_pos ho]
      exact exec_eq_completes _ hx.1 hs rfl hd hj (congrFun (if_neg (not_not.2 ho)) _)
    · rw [if_neg ho]
      exact exec_eq_completes _ hx.1 hs rfl hd hj ((congrFun (if_pos ho) _).trans (releaseM_ok _ _ _ (hrel.resolve_left ho)))

end Sys2Proof.Claims
end

section
/-! SUPPORT. Concrete states for refutations: core 0 runs a program of context 1, whose one segment spans all CAs, and has fetched the word at its PC. -/

namespace Sys2Proof.Claims

open Sys2Proof Sys2Proof.Machine

/-- The complex in RUN, with the front end, cluster 0 and core 0 enabled. -/
def openPackage : State :=
  setWk (setWk (setRf (setRf (setRf (setPhase State.reset 2) .gfe 0 0 0 1) (.cluster 0) 0 0 0 1) (.core 0) 0 0 0 1) (.ctx 1) 0x8200 (place 63 63 1))
    (.ctx 1) 0x8208 (place 51 48 15 ||| place 39 0 (2 ^ 40 - 1))

/-- Task 0 of context 1 at CA 0x1000, with 0x2000 in s3. -/
def plainProg : Prog := { progInit 0 1 7 0x1000 with s := [(3, 0x2000)] }

/-- A core that is awake, with every engine powered. -/
def awakeCore : Core := { coreInit with power := .c0, engOn := 0x3F }

/-- Core 0 runs `p`, has fetched the word `w` at its PC, and holds the stores `b` in its buffer. -/
def fetchedWord (p : Prog) (w : Nat) (b : List BufStore) : State :=
  { openPackage with
    cores := [(0, { awakeCore with prog := some p, sbuf := b, icache := [(icKey p.ctx p.pc.toNat, toBytes 8 w ++ List.replicate 56 0)] })] }

/-- An instruction of core 0 that ends its bundle and is not qualified. -/
def aloneHdr : Hdr := { core := 0, stop := true, wait := 0, qp := 0, qn := false }

/-- The state that a command leads to, and the reset state where it leads to none. -/
def stateAfter (o : Out) : State := match o with
  | .next t => t
  | _ => State.reset

/-- What `Executes` asks of core 0, as a test. -/
def executesTest (s : State) (p : Prog) : Bool :=
  decide (prog? s 0 = some p) && seqReady s 0 p && decide ((Machine.core s 0).bundle = []) && decide (p.pend = []) && decide (p.pc.toNat < 2 ^ 51)
    && (segCheck s p.ctx p.pc.toNat 8 .x).isOk && !isHole s (canon p.pc.toNat) && !isHole s (canon (p.pc.toNat + 7))
    && (mapFind? (Machine.core s 0).icache (icKey p.ctx p.pc.toNat)).isSome && decide (mapGet (fun _ => 0) s.inject (blkNo (bCore 0)) = 0)
    && !p.injig && qualified p aloneHdr

theorem executesQueue_of_test {s : State} {p : Prog} (hb : executesTest s p = true) : ExecutesQueue s aloneHdr p := by
  simp only [executesTest, Bool.and_eq_true, decide_eq_true_eq, Bool.not_eq_true'] at hb
  obtain ⟨⟨⟨⟨⟨⟨⟨⟨⟨⟨⟨hprog, hready⟩, hbundle⟩, hpend⟩, hpc⟩, hseg⟩, hlo⟩, hhi⟩, hic⟩, hinj⟩, hjig⟩, hq⟩ := hb
  exact ⟨⟨⟨hprog, hready, hbundle, Or.inl hpend, rfl, hpc, hseg, hlo, hhi, hic, hinj, fun hj => by simp [hjig] at hj⟩, hq⟩, hjig⟩

end Sys2Proof.Claims
end

section
/-! PROOFS. Two statements about the sequencer that fail. -/

namespace Sys2Proof.Claims

open Sys2Proof.Machine

/-- The segment word of context 1. -/
def openSegment : Word := place 51 48 15 ||| place 39 0 (2 ^ 40 - 1)

/-- A volatile load of the 8 bytes at s3. -/
def volatileLoad : FmtM := { rd := 4, ra := 3, rb := 0, size := 3, scope := 0, ord := 2, hint := 0, off := 0 }

/-- Its word. -/
def volatileLoadWord : Nat := 2 ^ 63 + 0x50 * 2 ^ 52 + 4 * 2 ^ 41 + 3 * 2 ^ 35 + 3 * 2 ^ 26 + 2 * 2 ^ 21

/-- A buffered volatile store of the same bytes. -/
def volatileStore : BufStore := { tgt := segTarget 0x2000 openSegment, named := 0x2000, nc := true, data := List.replicate 8 0 }

def bufferedVolatile : State := fetchedWord plainProg volatileLoadWord [volatileStore]

theorem bufferedVolatile_executes : ExecutesQueue bufferedVolatile aloneHdr plainProg := executesQueue_of_test (by decide +kernel)

theorem bufferedVolatile_spells : Spells bufferedVolatile aloneHdr plainProg (.ld aloneHdr volatileLoad) :=
  ⟨volatileLoadWord, by decide +kernel, by decide +kernel⟩

theorem bufferedVolatile_local : LocalAccess (fetched bufferedVolatile aloneHdr (.ld aloneHdr volatileLoad) plainProg) plainProg 0x2000 8 .r false
    (segTarget 0x2000 openSegment) :=
  ⟨by decide, by decide, by decide, ⟨openSegment, by decide +kernel, rfl⟩, by decide +kernel, by decide +kernel, by decide +kernel⟩

/-- Refutes O8: a volatile load whose bytes a buffered volatile store covers waits for that store to be performed (R271), and does not take
its bytes from the buffer. -/
theorem not_loadReturnsTheBytes : ¬ Obligations.LoadReturnsTheBytes := by
  unfold Obligations.LoadReturnsTheBytes
  intro hall
  obtain ⟨hbuf, -⟩ := (hall bufferedVolatile aloneHdr plainProg volatileLoad 0x2000 8 _ bufferedVolatile_executes bufferedVolatile_spells
    (by decide) (by decide) (by decide) rfl).1 _ bufferedVolatile_local (by decide +kernel)
  have heq := congrArg (fun o => (prog? (stateAfter o) 0).map Prog.pc) (hbuf (List.replicate 8 0) (by decide +kernel))
  revert heq
  decide +kernel

/-- An operation of Anvil that does nothing yet. -/
def idleOp : EngOp :=
  { desc := [], fmts := [], cbs := [], rules := [], credit := none, ord := 1,
    inJig := false, pins := [], ran := true, progress := 0, locked := false, slot := none, parked := false, sent := false, tags := [],
    sums := [], noted := false, rows := [], marks := [], deferred := [], ldesc := [], lepoch := 0, hole := none, parity := false, orphaned := false, exts := [], seq := 1 }

/-- A program without a handler, whose map of queues names engine 0 twice: the first entry, which counts, is empty. -/
def twiceQueued : Prog := { plainProg with queues := [(0, []), (0, [idleOp])] }

def breakFmt : FmtL := { rd := 0, ext := 0, flag := false, imm := 0 }

def breakWord : Nat := 2 ^ 63 + 0x72 * 2 ^ 52

def breaking : State := fetchedWord twiceQueued breakWord []

theorem breaking_executes : ExecutesQueue breaking aloneHdr twiceQueued := executesQueue_of_test (by decide +kernel)

theorem breaking_spells : Spells breaking aloneHdr twiceQueued (.brk aloneHdr breakFmt) := ⟨breakWord, by decide +kernel, by decide +kernel⟩

/-- Refutes O20: its second part does not ask that the program's map of queues be canonical. Where it names a queue twice, what the
exception leaves of the empty queue removes the first entry, the second then counts, and the task stays until that operation completes. -/
theorem not_exceptionEntersTheHandler : ¬ Obligations.ExceptionEntersTheHandler := by
  unfold Obligations.ExceptionEntersTheHandler
  intro hall
  obtain ⟨t, ht, hnone⟩ := (hall breaking aloneHdr twiceQueued breakFmt breaking_executes breaking_spells (by decide) (by decide +kernel)
    (by decide +kernel)).2 (Or.inl (by decide)) (by decide)
  have hstay : (prog? (stateAfter (exec (.brk aloneHdr breakFmt) breaking)) 0).isSome = true := by decide +kernel
  rw [ht] at hstay
  exact absurd hstay (by rw [show prog? (stateAfter (.next t)) 0 = none from hnone]; decide)

end Sys2Proof.Claims
end

section
/-! PROOFS. A statement about the engines that fails. -/

namespace Sys2Proof.Claims

open Sys2Proof.Machine

/-- An operation whose opcode no engine has. -/
def unlistedOp : EngOp := { idleOp with desc := [place 63 56 0x7F], ran := false }

/-- A program whose map of queues names engine 0 twice. -/
def twiceUnlisted : Prog := { plainProg with queues := [(0, [unlistedOp]), (0, [unlistedOp])] }

def rejecting : State := fetchedWord twiceUnlisted 0 []

theorem rejecting_ready : EngineReady rejecting 0 0 (opcodeOf unlistedOp) twiceUnlisted unlistedOp :=
  ⟨by decide +kernel, by decide +kernel, by decide +kernel, by decide +kernel, by decide +kernel, rfl, by decide +kernel⟩

/-- Refutes O23: its clause on an opcode that the engine lacks does not ask that the program's map of queues be canonical. Where it names
the engine twice, the queue that the fault empties gives way to the second entry, whose operation has not run. -/
theorem not_engineRunsTheFrontOperation : ¬ Obligations.EngineRunsTheFrontOperation := by
  unfold Obligations.EngineRunsTheFrontOperation
  intro hall
  obtain ⟨t, q, ht, hq, -, -, hran, -⟩ := (hall [] ⟨0, 5, .anvClr, anvClrBody⟩ (by simp [engineRows]) rejecting 0 twiceUnlisted unlistedOp).2
    rejecting_ready (by decide) rfl rfl (by decide +kernel)
  have hleft : ((prog? (stateAfter (exec (.anvClr 0) rejecting)) 0).map fun q => (queue q 0).all EngOp.ran) = some false := by decide +kernel
  rw [ht, show prog? (stateAfter (.next t)) 0 = some q from hq, Option.map_some, Option.some.injEq] at hleft
  exact absurd (List.all_eq_true.2 hran) (by rw [hleft]; decide)

end Sys2Proof.Claims
end

section
/-! SUPPORT. The host's accesses to memory (R243, R244, R299, R300), its snoops (R294), and the visits of scrubbers and refreshes (R255). -/

namespace Sys2Proof.Machine

open Sys2Proof

variable {s : State}

theorem setRf_power (b : Blk) (o hi lo v : Nat) : (setRf s b o hi lo v).power = s.power := rfl

theorem fireInjection_power (b : Blk) (src : Nat) (u a : Option Nat) : (fireInjection s b src u a).2.power = s.power := by
  unfold fireInjection
  split <;> rfl

theorem markUncorrectable_power (k : Nat) : (markUncorrectable s k).power = s.power := by
  unfold markUncorrectable
  split
  · split <;> rfl
  · rfl

/-- A check of a chunk by no core changes nothing of the power state. -/
theorem chunkCheck_whoNone_power (k : Nat) : (chunkCheck s whoNone k).2.power = s.power := by
  unfold chunkCheck
  split
  · split <;> rfl
  · next b unit cause stall _ =>
    have hs : ∀ u : State, slipFor u whoNone cause stall = u := fun _ => rfl
    dsimp only
    rw [hs, ite_self]
    have h2 : ∀ u v : State, v.power = u.power → ∀ src, (if (fireInjection v b src unit (some (k * 64))).1 = true
        then (true, markUncorrectable (fireInjection v b src unit (some (k * 64))).2 k) else (false, (fireInjection v b src unit (some (k * 64))).2)).2.power
          = u.power := by
      intro u v hv src
      split
      · rw [markUncorrectable_power, fireInjection_power, hv]
      · rw [fireInjection_power, hv]
    refine h2 s _ ?_ 1
    split
    · rw [fireInjection_power, fireInjection_power]
    · exact fireInjection_power ..

/-- The row that a refresh of bank `bank` of core `k` visits next is the one after. -/
def refreshed (s : State) (k bank : Nat) : State :=
  { s with power := { s.power with refreshRow := mapSet (fun _ => 0) s.power.refreshRow (k * 16 + bank) ((refreshRowOf s k bank + 1) % 16384) } }

theorem refreshRow_eq (k : CoreIx) (bank : Nat) (found : EccFound) (word : Nat) : refreshRow s k bank found word
    = eccEvent (chunkCheck (refreshed s k.val bank) whoNone
        ((drawerBase k.val + (refreshRowOf s k.val bank * 16 + bank) * 512 + 8 * (word % 64)) / 64)).2 (bDrawer (regionOf k.val)) k.val
        (drawerBase k.val + (refreshRowOf s k.val bank * 16 + bank) * 512 + 8 * (word % 64)) found := rfl

theorem eccEvent_clean (b : Blk) (c ca : Nat) : eccEvent s b c ca .clean = s := rfl

theorem globalCtr_mem (n k : Nat) : (globalCtr s n k).mem = s.mem := rfl

theorem chunkRead_mem (w : Who) (k off n : Nat) (key : Option Nat) : (chunkRead s w k off n key).2.mem = s.mem := by
  rw [chunkRead, countBytes_mem, chunkCheck_mem]

theorem apRead_mem (w : Word) (l : List (Nat × Nat × Nat)) : (apRead w l s).2.mem = s.mem := by
  induction l generalizing s with
  | nil => rfl
  | cons q t ih => rw [apRead, ih, chunkRead_mem]

theorem apWrite_wf (w : Word) (p : Bool) (l : List (Nat × Nat × Nat)) (d : List Byte) (hw : Memory.wf s.mem = true) :
    Memory.wf (apWrite w p l d s).mem = true := by
  induction l generalizing s d with
  | nil => exact hw
  | cons q t ih => exact ih _ (chunkWrite_wf _ _ _ _ _ _ _ hw)

theorem EpOnly.mem {t : State} (h : EpOnly s t) : t.mem = s.mem := by
  rw [h]

/-- A snoop that no other waits before and that can be answered is answered at once. -/
theorem snoopArrives_serves (k kind : Nat) (hs : snpServes s k = true) (hn : ∀ x ∈ s.snps, x.line ≠ k) :
    snoopArrives s k kind = snpAnswer s { line := k, kind } := by
  have hf : (s.snps ++ [({ line := k, kind } : SnpWait)]).filter (fun x => decide (x.line = k)) = [{ line := k, kind }] := by
    rw [List.filter_append, List.filter_eq_nil_iff.2 (fun x hx => by simpa using hn x hx)]
    simp
  have hr : (s.snps ++ [({ line := k, kind } : SnpWait)]).filter (fun x => decide (x.line ≠ k)) = s.snps := by
    rw [List.filter_append, List.filter_eq_self.2 (fun x hx => by simpa using hn x hx)]
    simp
  have hs' : snpServes { s with snps := s.snps ++ [{ line := k, kind }] } k = true := hs
  rw [snoopArrives, serveSnoops, if_pos hs']
  dsimp only
  rw [hf, hr]
  rfl

theorem snoopArrives_waits (k kind : Nat) (hs : snpServes s k = false) :
    snoopArrives s k kind = { s with snps := s.snps ++ [{ line := k, kind }] } := by
  have hs' : snpServes { s with snps := s.snps ++ [{ line := k, kind }] } k = false := hs
  rw [snoopArrives, serveSnoops, hs', if_neg Bool.false_ne_true]

theorem linkUp_of_snpServes {k : Nat} (hs : snpServes s k = true) : s.ep.linkUp = true := by
  simp only [snpServes, Bool.and_eq_true] at hs
  exact hs.1.1.1

end Sys2Proof.Machine
end

section
/-! PROOFS. The obligations on the host's accesses and snoops, and on the maintenance of memory. -/

namespace Sys2Proof.Claims

open Sys2Proof.Machine

/-- Settles O35. -/
theorem hostMemoryAccessesComplete : Obligations.HostMemoryAccessesComplete := by
  intro s hpa a caches poison data hst hms
  have hrd : exec (.hostMemrd hpa caches) s = execHostMemrd hpa caches s := rfl
  have hwr : exec (.hostMemwr hpa data poison) s = execHostMemwr hpa data poison s := rfl
  rw [hrd, hwr]
  simp only [execHostMemrd, execHostMemwr, hst, hms, Bool.not_true, Bool.or_self, Bool.false_eq_true, if_false]
  refine ⟨fun hn => ?_, fun ha r t hr ht => ?_, fun ha hb => ⟨fun t ht => ?_, fun t x d q u hsn hroom hdq => ?_⟩, fun line b hb => ?_⟩
  · rw [hn]
    exact ⟨rfl, rfl⟩
  · subst hr ht
    rw [ha]
    refine ⟨rfl, rfl, chunkRead_mem .., fun hw hp x hx => ?_⟩
    subst hp
    have hlen : ((data ++ List.replicate 64 (0 : Byte)).take 64).length = 64 := by simp
    exact chunkWrite_other _ _ _ _ _ _ hw (by rw [hlen]; simpa using hx)
  · subst ht
    simp only [ha, hb]
    rfl
  · have hr : (caches && !filterRoom s (a / 64)) = false := by
      cases caches
      · rfl
      · rw [hroom rfl]
        rfl
    simp only [ha, hb, hr, hsn, Bool.or_self, Bool.and_false, Bool.true_and, if_true, Bool.false_eq_true, if_false]
    cases hx : x.data with
    | none =>
      rw [hx] at hdq
      obtain ⟨rfl, rfl, rfl⟩ := hdq
      rfl
    | some v =>
      rw [hx] at hdq
      obtain ⟨rfl, rfl, rfl⟩ := hdq
      rfl
  · change execBirsp line true none s = _
    have hfm : ∀ l : List BiSnp, (l.filterMap fun x => if x.line = line && !x.answered then (none : Option BiSnp) else some x)
        = l.filter fun x => !(decide (x.line = line) && !x.answered) := by
      intro l
      induction l with
      | nil => rfl
      | cons x xs ih =>
        rw [List.filterMap_cons, List.filter_cons, ih]
        cases decide (x.line = line) && !x.answered <;> rfl
    simp only [execBirsp, hb, hst, Bool.not_true, Bool.and_false, Bool.or_self, Bool.false_eq_true, if_false, if_true]
    rw [hfm]
    rfl

/-- A snoop of the host, by its kind. -/
theorem exec_snoop {s : State} {hpa : Nat} (hup : s.ep.linkUp = true) : exec (.snpinv hpa) s = after (snoopArrives s (hpa / 64) 0)
    ∧ exec (.snpdata hpa) s = after (snoopArrives s (hpa / 64) 1) ∧ exec (.snpcur hpa) s = after (snoopArrives s (hpa / 64) 2) :=
  ⟨if_pos hup, if_pos hup, if_pos hup⟩

/-- Settles O36. -/
theorem hostSnoopsAndResponsesAct : Obligations.HostSnoopsAndResponsesAct := by
  refine ⟨fun s hpa k hk hs hn => ?_, fun s hpa k hk hup hs e he => ?_, fun s hpa h hst => ⟨fun hf => ⟨fun g d p hg hr => ?_, ?_⟩, fun hf hc => ?_,
    fun f rest hf hw hfs hc => ?_, fun t => rfl⟩⟩
  · subst hk
    obtain ⟨hinv, hdata, hcur⟩ := exec_snoop (hpa := hpa) (linkUp_of_snpServes hs)
    rw [hinv, hdata, hcur, snoopArrives_serves _ 0 hs hn, snoopArrives_serves _ 1 hs hn, snoopArrives_serves _ 2 hs hn]
    simp only [snpAnswer, snpInv, snpData, snpCur]
    refine ⟨fun t ht => ⟨fun hd => ?_, fun slot l hd hc => ?_⟩, fun t ht => ⟨fun hd => ?_, fun slot l hd hc => ?_⟩, fun hd => ?_, fun slot l hd hc => ?_⟩
    · subst ht
      rw [hd]
    · subst ht
      simp only [hd, hc]
    · subst ht
      rw [hd]
    · subst ht
      simp only [hd, hc]
    · rw [hd]
    · simp only [hd, hc]
  · subst hk
    obtain ⟨hinv, hdata, hcur⟩ := exec_snoop (hpa := hpa) hup
    simp only [List.mem_cons, List.not_mem_nil, or_false] at he
    rcases he with rfl | rfl | rfl
    · rw [hinv, snoopArrives_waits _ 0 hs]
    · rw [hdata, snoopArrives_waits _ 1 hs]
    · rw [hcur, snoopArrives_waits _ 2 hs]
  · change execCxlGo hpa g d p s = _
    have hr' : (decide (2 ≤ h.kind) || devRoom s h.line) = true := by
      rw [Bool.or_eq_true, decide_eq_true_eq]
      exact hr
    simp only [execCxlGo, hf, hst, hg, hr', Bool.not_false, Bool.and_self, if_true]
    rfl
  · change execCxlGoErr hpa s = _
    simp only [execCxlGoErr, hf, hst, Bool.not_false, if_true]
    rfl
  · change execCompletionTimeout hpa s = _
    simp only [execCompletionTimeout, hf, hst, hc, Bool.not_false, Bool.and_self, if_true]
    rfl
  · change execCompletionTimeout hpa s = _
    simp only [execCompletionTimeout, hf, hw, hst, hc, hfs, Bool.not_false, Bool.and_self, if_true]
    rfl

/-- Settles O37. -/
theorem aperturesReachMemory : Obligations.AperturesReachMemory := by
  intro s off len data p hst hap
  have hrd : exec (.bar4Read off len) s = execBar4Read off len s := rfl
  have hwr : exec (.bar4Write off data p) s = execBar4Write off data p s := rfl
  rw [hrd, hwr]
  simp only [execBar4Read, execBar4Write, hst, hap, Bool.not_true, Bool.false_eq_true, if_false]
  refine ⟨fun a w r ha hr => ⟨?_, ?_⟩, fun ha => ?_, fun a w t u ha hu ht => ⟨?_, fun hw => ?_⟩, fun ha => ?_⟩
  · subst hr
    rw [ha]
    rfl
  · subst hr
    exact apRead_mem ..
  · rw [ha]
    rfl
  · subst hu ht
    simp only [ha]
    split <;> rfl
  · subst hu ht
    refine apWrite_wf _ _ _ _ ?_
    rw [globalCtr_mem]
    cases p
    · exact hw
    · rw [if_pos rfl, (epOnly_poisonedTlp s).mem]
      exact hw
  · rw [ha]
    rfl

/-- Settles O38. -/
theorem memoryMaintenanceVisitsWords : Obligations.MemoryMaintenanceVisitsWords := by
  refine fun s k bank word found sk temp hen => ⟨fun ca hr hp hw hca => ?_, fun hr => ?_, fun hr => ?_, fun hwf => ?_, rfl, rfl,
    fun b c ca => ⟨rfl, rfl, rfl⟩⟩
  · subst hca
    exact if_pos (by rw [hr, hen, decide_eq_true hp, decide_eq_true hw]; rfl)
  · change execDrawerRefresh k bank found word s = _
    simp only [execDrawerRefresh, hr, hen, Bool.and_self, if_true]
    rfl
  · change execDrawerSelfRefresh k bank found word s = _
    simp only [execDrawerSelfRefresh, hr, hen, Bool.not_false, Bool.and_self, if_true]
    rfl
  · have hp : (refreshRow s k bank.val .clean word).power.refreshRow
        = mapSet (fun _ => 0) s.power.refreshRow (k.val * 16 + bank.val) ((refreshRowOf s k.val bank.val + 1) % 16384) := by
      rw [refreshRow_eq, eccEvent_clean, chunkCheck_whoNone_power]
      rfl
    rw [refreshRowOf, hp]
    exact mapGet_mapSet_self _ _ 0 _ _ hwf

end Sys2Proof.Claims
end

section
/-! SUPPORT. A performed write of a whole register, in the words of its effect (R37-R39). -/

namespace Sys2Proof.Machine

open Sys2Proof

variable {s : State} {rq : Requester} {val : Word}

/-- The register at offset `o` of block `b` is no header, clear or injection register, so that a write of it has the register's own effect. -/
def OwnEffect (b : Blk) (o : Nat) : Prop :=
  locate (rk b o) = some (b, o) ∧ o % 8 = 0 ∧ (regFields b o).isEmpty = false ∧ o ≠ hdrOff b ∧ tripleOfClear b o = none
    ∧ (o = 0x70 → isCtxBlk b = true)

theorem ne_nil_of_isEmpty {α : Type} {l : List α} (h : l.isEmpty = false) : l ≠ [] := by
  rintro rfl
  cases h

theorem regWrite8_effect {b : Blk} {o : Nat} (hb : OwnEffect b o) (ha : Accepts s rq b o) :
    regWrite8 rq b o val s = afterReg s rq (rk b o) 8 (writeEffect s b o o (reg s b o) (writtenWord s b o val) val) := by
  obtain ⟨hl, h8, hf, hh, ht, h70⟩ := hb
  rw [regWrite8, regWrite, performWrite_whole rq b o val ha hl h8 (ne_nil_of_isEmpty hf) hh ht h70]
  rfl

theorem ownEffect_gfe : OwnEffect .gfe 0x2010 ∧ OwnEffect .gfe 0x2200 ∧ OwnEffect .gfe 0x110 ∧ OwnEffect .gfe 0x3008 ∧ OwnEffect .gfe 0x3108 := by
  refine ⟨?_, ?_, ?_, ?_, ?_⟩ <;> exact ⟨by decide, by decide, by decide, by decide, by decide, by decide⟩

theorem ownEffect_other : OwnEffect .ep 0x20008 ∧ OwnEffect .pwr 0x110 ∧ OwnEffect .dbg 0x200 ∧ OwnEffect .dbg 0x300 ∧ OwnEffect .dt 0x150 := by
  refine ⟨?_, ?_, ?_, ?_, ?_⟩ <;> exact ⟨by decide, by decide, by decide, by decide, by decide, by decide⟩

theorem ownEffect_ctx (c : BitVec 12) : OwnEffect (.ctx c) 0x8440 ∧ OwnEffect (.ctx c) 0x8088 ∧ OwnEffect (.ctx c) 0x8078 :=
  ⟨⟨locate_rk _ _ (by simp), rfl, rfl, nofun, rfl, nofun⟩, ⟨locate_rk _ _ (by simp), rfl, rfl, nofun, rfl, nofun⟩,
    ⟨locate_rk _ _ (by simp), rfl, rfl, nofun, rfl, nofun⟩⟩

theorem ownEffect_cluster (cl : ClusterIx) : OwnEffect (.cluster cl) 0x608 ∧ OwnEffect (.cluster cl) 0x610 :=
  ⟨⟨locate_rk _ _ (by simp), rfl, rfl, nofun, rfl, nofun⟩, ⟨locate_rk _ _ (by simp), rfl, rfl, nofun, rfl, nofun⟩⟩

theorem ownEffect_fmp (n : Fin 4) : OwnEffect (.fmp n) 0x108 := ⟨locate_rk _ _ (by simp), rfl, rfl, nofun, rfl, nofun⟩

/-- The first register of a Dovetail channel (R398). -/
theorem ownEffect_chan : ∀ n : Fin 16, OwnEffect .dt (0x3000 + 32 * n.val) := fun n =>
  ⟨by decide +revert, by decide +revert, by decide +revert, by decide +revert, by decide +revert, by decide +revert⟩

/-- The control register of a watch (R449). -/
theorem ownEffect_watch : ∀ w : Fin 8, OwnEffect .dbg (0x400 + 32 * w.val) := fun w =>
  ⟨by decide +revert, by decide +revert, by decide +revert, by decide +revert, by decide +revert, by decide +revert⟩

theorem writeEffect_chan (n : Fin 16) (old new cv : Word) : writeEffect s .dt (0x3000 + 32 * n.val) (0x3000 + 32 * n.val) old new cv
    = chanWrite s (0x3000 + 32 * n.val) (0x3000 + 32 * n.val) n.val 0 new := by
  have hn : arr ((0x3000 + 32 * n.val) / 32 * 32) 0x3000 32 16 = some n.val := by decide +revert
  have h0 : (0x3000 + 32 * n.val) % 32 / 8 = 0 := by omega
  simp only [writeEffect]
  rw [if_neg (show 0x3000 + 32 * n.val ≠ 0x150 by omega), hn]
  dsimp only
  rw [h0]

theorem writeEffect_watch (w : Fin 8) (old new cv : Word) : writeEffect s .dbg (0x400 + 32 * w.val) (0x400 + 32 * w.val) old new cv
    = watchCtl s w.val new := by
  have hn : arr (0x400 + 32 * w.val) 0x400 32 8 = some w.val := by decide +revert
  simp only [writeEffect]
  rw [if_neg (show 0x400 + 32 * w.val ≠ 0x200 by omega), if_neg (show 0x400 + 32 * w.val ≠ 0x300 by omega), hn]

theorem tripleOfClear_finj (b : Blk) (hb : isCtxBlk b = false) : tripleOfClear b 0x70 = none := by
  cases b with
  | ctx c => exact absurd hb (by simp [isCtxBlk])
  | _ => rfl

/-- A write of the injection register arms an injection (R425). -/
theorem performWrite_finj (b : Blk) (val : Word) (hb : isCtxBlk b = false) (hl : locate (rk b 0x70) = some (b, 0x70)) (hf : regFields b 0x70 ≠ [])
    (ha : Accepts s rq b 0x70) : performWrite s { rq, key := rk b 0x70, size := 8, val } = finj s b val := by
  obtain ⟨hr, hw, hpmc, hp, hh, hg⟩ := ha
  have hk : rk b 0x70 % 8 = 0 := rk_mod b 0x70 rfl
  have hv : val &&& BitVec.allOnes 64 = val := BitVec.and_allOnes
  have h0 : (0x70 : Nat) ≠ hdrOff b := by
    cases b <;> nofun
  rw [performWrite_reaches _ b 0x70 hl hf hr hw hpmc hp hh]
  simp only [writeAt, hk, h0, tripleOfClear_finj b hb, hg, hb, decide_true, Bool.or_true, Bool.and_self, Bool.not_true, Bool.false_eq_true,
    if_false, if_true, Bool.not_false, Nat.reduceDiv, Nat.reduceMul, hv]

end Sys2Proof.Machine
end

section
/-! PROOFS. The obligation on command registers. -/

namespace Sys2Proof.Claims

open Sys2Proof.Machine

/-- The end of a register command whose write takes effect as `t`. -/
theorem exec_of_writeEffect {s t : State} {rq : Requester} {val : Word} {b : Blk} {o : Nat} {i : Instr} (hi : exec i s = regWrite8 rq b o val s)
    (hb : OwnEffect b o) (ha : Accepts s rq b o) (ht : writeEffect s b o o (reg s b o) (writtenWord s b o val) val = t) :
    exec i s = afterReg s rq (rk b o) 8 t := by
  rw [hi, regWrite8_effect hb ha, ht]

/-- Settles O41. -/
theorem registerCommandsAct : Obligations.RegisterCommandsAct := by
  intro s rq val
  refine ⟨fun ha => ?_, fun c ha => ⟨?_, ?_, fun hf => ?_⟩, fun ha hf hl => ⟨_, ?_, rfl⟩, fun c ha hf hl => ?_, fun c ha => ?_, fun ha => ?_, fun ha => ?_,
    rfl, fun ha hp => ⟨fun hf => ?_, fun h1 h2 => ?_⟩, fun ha hf => ?_, fun cl ha => ?_, fun cl ha w hw => ⟨?_, ?_⟩, fun n ha w hw => ⟨?_, ?_, ?_⟩,
    fun ha h1 h2 => ?_, fun n ha w hw => ⟨fun h1 h2 => ?_, fun h1 h2 => ?_⟩, fun b hb hl hf ha => ?_, fun ha w hw => ?_,
    fun ha t ht => ⟨fun h1 h2 => ?_, fun h1 h2 => ?_⟩, fun ha => ?_, fun w ha => ?_⟩
  · exact exec_of_writeEffect rfl ownEffect_gfe.1 ha rfl
  · exact exec_of_writeEffect rfl (ownEffect_ctx c).1 ha rfl
  · exact exec_of_writeEffect rfl (ownEffect_ctx c).1 ha rfl
  · simp [keyCmd, hf]
  · refine exec_of_writeEffect rfl ownEffect_gfe.2.1 ha ?_
    change xltInvReq _ _ val = _
    rw [xltInvReq, hf]
    exact if_pos hl
  · refine exec_of_writeEffect rfl (ownEffect_ctx c).2.1 ha ?_
    exact if_pos ⟨hf, hl⟩
  · exact exec_of_writeEffect rfl (ownEffect_ctx c).2.2 ha rfl
  · exact exec_of_writeEffect rfl ownEffect_gfe.2.2.1 ha rfl
  · exact exec_of_writeEffect rfl ownEffect_gfe.2.2.2.1 ha rfl
  · exact exec_of_writeEffect rfl ownEffect_other.1 ha ((if_neg (not_not.2 hp)).trans (if_pos hf))
  · exact exec_of_writeEffect rfl ownEffect_other.1 ha ((if_neg (not_not.2 hp)).trans ((if_neg (by simp [h1])).trans (if_pos h2)))
  · refine exec_of_writeEffect rfl ownEffect_gfe.2.2.2.2 ha ?_
    change mcCmd s val = _
    rw [mcCmd, hf]
    by_cases hp : phase s = 1
    · rw [if_pos hp, if_neg (by simp), if_neg (not_not.2 hp)]
    · rw [if_neg hp, if_neg (by simp), if_pos hp]
  · exact exec_of_writeEffect rfl (ownEffect_cluster cl).1 ha rfl
  · subst hw
    exact exec_of_writeEffect rfl (ownEffect_cluster cl).2 ha rfl
  · subst hw
    exact exec_of_writeEffect rfl (ownEffect_cluster cl).2 ha rfl
  · subst hw
    exact exec_of_writeEffect rfl (ownEffect_fmp n) ha rfl
  · subst hw
    exact exec_of_writeEffect rfl (ownEffect_fmp n) ha rfl
  · subst hw
    exact exec_of_writeEffect rfl (ownEffect_fmp n) ha rfl
  · exact exec_of_writeEffect rfl ownEffect_other.2.2.2.2 ha (if_pos ⟨h1, h2⟩)
  · subst hw
    refine exec_of_writeEffect rfl (ownEffect_chan n) ha ((writeEffect_chan n _ _ _).trans ?_)
    rw [chanWrite, h1, h2]
    rfl
  · subst hw
    refine exec_of_writeEffect rfl (ownEffect_chan n) ha ((writeEffect_chan n _ _ _).trans ?_)
    rw [chanWrite, h1, h2]
    rfl
  · change regWrite8 rq b 0x70 val s = _
    rw [regWrite8, regWrite, performWrite_finj b val hb hl hf ha]
    rfl
  · subst hw
    exact exec_of_writeEffect rfl ownEffect_other.2.1 ha rfl
  · subst ht
    refine exec_of_writeEffect rfl ownEffect_other.2.2.1 ha ?_
    change quenchCtl s _ val = _
    rw [quenchCtl, h1, h2]
    rfl
  · subst ht
    refine exec_of_writeEffect rfl ownEffect_other.2.2.1 ha ?_
    change quenchCtl s _ val = _
    rw [quenchCtl, h1, h2]
    rfl
  · exact exec_of_writeEffect rfl ownEffect_other.2.2.2.1 ha rfl
  · exact exec_of_writeEffect rfl (ownEffect_watch w) ha (writeEffect_watch w _ _ _)

end Sys2Proof.Claims
end

section
/-! SUPPORT. What a register write stores and flags (R32, R37-R39). -/

namespace Sys2Proof.Machine

open Sys2Proof Sys2Proof.Claims

variable {s : State} {rq : Requester} {val : Word} {b : Blk} {o : Nat}

/-- A register without a command takes what a write leaves in it. -/
theorem writeEffect_plain (hp : plainRegister b o = true) (at_ : Nat) (old new cv : Word) : writeEffect s b o at_ old new cv = setReg s b o new := by
  cases b with
  | gfe =>
    simp only [plainRegister, List.contains_eq_mem, List.mem_cons, List.not_mem_nil, or_false, Bool.not_eq_true', decide_eq_false_iff_not, not_or] at hp
    obtain ⟨h1, h2, h3, h4, h5⟩ := hp
    simp only [writeEffect, h1, h2, h3, h4, h5, if_false]
  | ep =>
    simp only [plainRegister, Bool.and_eq_true, bne_iff_ne] at hp
    simp only [writeEffect, hp.1, hp.2, if_false]
  | pwr =>
    simp only [plainRegister, List.contains_eq_mem, List.mem_cons, List.not_mem_nil, or_false, Bool.not_eq_true', decide_eq_false_iff_not, not_or] at hp
    obtain ⟨h1, h2, h3⟩ := hp
    simp only [writeEffect, h1, h2, h3, if_false]
  | dbg =>
    simp only [plainRegister, Bool.and_eq_true, bne_iff_ne, Bool.not_eq_true', Bool.and_eq_false_iff, decide_eq_false_iff_not] at hp
    obtain ⟨⟨h1, h2⟩, h3⟩ := hp
    have hn : arr o 0x400 32 8 = none := by
      rw [arr, if_neg (by omega)]
    simp only [writeEffect, h1, h2, hn, if_false]
  | fmp n =>
    simp only [plainRegister, bne_iff_ne] at hp
    simp only [writeEffect, hp, if_false]
  | dt =>
    simp only [plainRegister, Bool.and_eq_true, bne_iff_ne, Bool.not_eq_true', Bool.and_eq_false_iff, decide_eq_false_iff_not] at hp
    obtain ⟨h1, h2⟩ := hp
    have hn : arr (o / 32 * 32) 0x3000 32 16 = none := by
      rw [arr, if_neg (by omega)]
    simp only [writeEffect, h1, hn, if_false]
  | cluster n =>
    simp only [plainRegister, Bool.and_eq_true, bne_iff_ne] at hp
    simp only [writeEffect, hp.1, hp.2, if_false]
  | ctx c =>
    simp only [plainRegister, List.contains_eq_mem, List.mem_cons, List.not_mem_nil, or_false, Bool.not_eq_true', decide_eq_false_iff_not, not_or] at hp
    obtain ⟨h1, h2, h3⟩ := hp
    simp only [writeEffect, h1, h2, h3, if_false]
  | core n => rfl
  | stack n => rfl
  | drawer n => rfl

/-- A field's value lies in its bits. -/
theorem place_and_fieldMask (hi lo v : Nat) : place hi lo v &&& fieldMask hi lo = place hi lo v := by
  refine BitVec.eq_of_getLsbD_eq fun i hi64 => ?_
  have hp := flag_place hi lo v i hi64
  have hm := flag_fieldMask hi lo i hi64
  rw [flag] at hp hm
  rw [BitVec.getLsbD_and, hp]
  by_cases hin : lo ≤ i ∧ i ≤ hi
  · rw [hm.2 hin, Bool.and_true]
  · rw [decide_eq_false (fun h => hin ⟨h.1, h.2.1⟩), Bool.false_and]

/-- The bits that a 4-byte write covers, at either half of a register. -/
theorem coveredHalf (old val : Word) (sh : Nat) (hsh : sh = 0 ∨ sh = 32) :
    (old &&& ~~~(BitVec.ofNat 64 (0xFFFFFFFF <<< sh))) ||| (BitVec.ofNat 64 ((val.toNat % 2 ^ 32) <<< sh) &&& BitVec.ofNat 64 (0xFFFFFFFF <<< sh))
      = setFld old (sh + 31) sh (fld val 31 0) := by
  have hval : fld val 31 0 = val.toNat % 2 ^ 32 := by simp [fld, bitsN]
  have hmask : BitVec.ofNat 64 (0xFFFFFFFF <<< sh) = fieldMask (sh + 31) sh := by
    rcases hsh with rfl | rfl <;> rfl
  have hplace : BitVec.ofNat 64 ((val.toNat % 2 ^ 32) <<< sh) = place (sh + 31) sh (val.toNat % 2 ^ 32) := by
    rw [place, show sh + 31 + 1 - sh = 32 by omega, Nat.mod_mod]
  rw [setFld, hval, hmask, hplace, place_and_fieldMask]

/-! The one thing that each kind of write does at its block's port. -/

section
variable (hfree : tripleOfClear b o = none) (h70 : o = 0x70 → isCtxBlk b = true) (hg : writeGated s b o = false) (h8 : o % 8 = 0) (hh : o ≠ hdrOff b)
include hfree h70 hg h8 hh

theorem writeAt_low (key : Nat) (hk : key % 8 = 0) : writeAt s b { rq, key, size := 4, val } o
    = writeEffect s b o o (reg s b o) (writtenWord s b o (setFld (reg s b o) 31 0 (fld val 31 0)))
        (BitVec.ofNat 64 ((val.toNat % 2 ^ 32) <<< 0) &&& BitVec.ofNat 64 (0xFFFFFFFF <<< 0)) := by
  have hfin : (decide (o = 0x70) && !isCtxBlk b) = false := by
    by_cases hr : o = 0x70
    · rw [h70 hr, Bool.not_true, Bool.and_false]
    · rw [decide_eq_false hr, Bool.false_and]
  have ho : o / 8 * 8 = o := by omega
  have hk4 : key % 4 = 0 := by omega
  have hc := coveredHalf (reg s b o) val 0 (Or.inl rfl)
  simp only [writeAt, ho, h8, hk4, hh, hfree, hg, hfin, writtenWord, ← hc]
  rfl

theorem writeAt_high (key : Nat) (hk : key % 8 = 0) : writeAt s b { rq, key := key + 4, size := 4, val } (o + 4)
    = writeEffect s b o (o + 4) (reg s b o) (writtenWord s b o (setFld (reg s b o) 63 32 (fld val 31 0)))
        (BitVec.ofNat 64 ((val.toNat % 2 ^ 32) <<< 32) &&& BitVec.ofNat 64 (0xFFFFFFFF <<< 32)) := by
  have hfin : (decide (o = 0x70) && !isCtxBlk b) = false := by
    by_cases hr : o = 0x70
    · rw [h70 hr, Bool.not_true, Bool.and_false]
    · rw [decide_eq_false hr, Bool.false_and]
  have ho : (o + 4) / 8 * 8 = o := by omega
  have ho4 : 8 * ((o + 4) % 8) = 32 := by omega
  have hk4 : (key + 4) % 4 = 0 := by omega
  have hc := coveredHalf (reg s b o) val 32 (Or.inr rfl)
  simp only [writeAt, ho, ho4, hk4, hh, hfree, hg, hfin, writtenWord, ← hc]
  rfl

end

theorem writeAt_size (r key size : Nat) (hs : size ≠ 4) (hs' : size ≠ 8) : writeAt s b { rq, key, size, val } r = raise s b (hdrOff b + 8) 62 := by
  simp [writeAt, hs, hs', sizeError]

theorem writeAt_misaligned (r key : Nat) (hk : key % 8 = 0) : writeAt s b { rq, key := key + 4, size := 8, val } r = raise s b (hdrOff b + 8) 62 := by
  have hk8 : (key + 4) % 8 ≠ 0 := by omega
  simp [writeAt, hk8, sizeError]

theorem writeAt_gated (key : Nat) (hfree : tripleOfClear b o = none) (hg : writeGated s b o = true) (h8 : o % 8 = 0) (hh : o ≠ hdrOff b)
    (hk : key % 8 = 0) : writeAt s b { rq, key, size := 8, val } o = ignoredWrite s b o := by
  have ho : o / 8 * 8 = o := by omega
  simp [writeAt, ho, hk, hh, hfree, hg]

/-! The stored word, bit by bit. -/

/-- A field that a write leaves. -/
def keptField (b : Blk) (o : Nat) (f : FieldDef) : Bool := f.ty = .ro || f.ty = .sqc || (f.ty = .wo && !keepsWo b o)

theorem flag_storedWord (old new : Word) (i : Nat) (h : i < 64) : flag (storedWord b o old new) i
    = if ∃ f ∈ regFields b o, keptField b o f = true ∧ f.lo ≤ i ∧ i ≤ f.hi then flag old i else flag new i := by
  have hm := flag_fieldsMask (regFields b o) (keptField b o) i h
  have hs : flag (storedWord b o old new) i
      = (flag old i && flag (fieldsMask (regFields b o) (keptField b o)) i || flag new i && !flag (fieldsMask (regFields b o) (keptField b o)) i) := by
    simp only [storedWord, flag, BitVec.getLsbD_or, BitVec.getLsbD_and, BitVec.getLsbD_not, h, decide_true, Bool.true_and]
    rfl
  rw [hs]
  by_cases hk : ∃ f ∈ regFields b o, keptField b o f = true ∧ f.lo ≤ i ∧ i ≤ f.hi
  · rw [if_pos hk, hm.2 hk]
    simp
  · rw [if_neg hk, Bool.eq_false_iff.2 (mt hm.1 hk)]
    simp

/-- The fields of a register are disjoint. -/
theorem field_unique {f g : FieldDef} (hf : f ∈ regFields b o) (hg : g ∈ regFields b o) (i : Nat) (hfi : f.lo ≤ i ∧ i ≤ f.hi) (hgi : g.lo ≤ i ∧ i ≤ g.hi) :
    f = g := eq_of_descending (tableRow_regFields b o).1 hf hg i hfi hgi

theorem fld_storedWord_written (old new : Word) {f : FieldDef} (hf : f ∈ regFields b o) (hk : keptField b o f = false) :
    fld (storedWord b o old new) f.hi f.lo = fld new f.hi f.lo := by
  refine fld_congr _ _ _ _ fun i h1 h2 h3 => ?_
  rw [flag_storedWord old new i h3, if_neg]
  rintro ⟨g, hg, hgk, hgi⟩
  rw [field_unique hf hg i ⟨h1, h2⟩ hgi, hgk] at hk
  exact Bool.noConfusion hk

theorem fld_storedWord_kept (old new : Word) {f : FieldDef} (hf : f ∈ regFields b o) (hk : keptField b o f = true) :
    fld (storedWord b o old new) f.hi f.lo = fld old f.hi f.lo := by
  refine fld_congr _ _ _ _ fun i h1 h2 h3 => ?_
  rw [flag_storedWord old new i h3, if_pos ⟨f, hf, hk, h1, h2⟩]

/-! An ignored write (R39, R40). -/

/-- What an ignored write at offset `o` makes of the header's status word. -/
def ignoredStatus (w : Word) (o : Nat) : Word :=
  setFld (if flag w 63 then w else setFld w 51 32 o) 31 24 (min 255 (fld (if flag w 63 then w else setFld w 51 32 o) 31 24 + 1)) ||| place 63 63 1

theorem reg_raiseAt_status {t : State} {st sq : Nat} (m : Word) (hw : mapWf regDefault t.regs = true) (hne : st ≠ sq) :
    reg (raiseAt t b st sq m) b st = reg t b st ||| m := by
  rw [raiseAt, setRf, reg_setReg_other _ _ _ _ _ _ (setReg_wf _ _ _ _ hw) (mt (rk_inj b st sq).1 hne), reg_setReg _ _ _ _ hw]

theorem reg_raiseAt_other {t : State} {st sq r : Nat} (m : Word) (hw : mapWf regDefault t.regs = true) (h1 : r ≠ st) (h2 : r ≠ sq) :
    reg (raiseAt t b st sq m) b r = reg t b r := by
  rw [raiseAt, setRf, reg_setReg_other _ _ _ _ _ _ (setReg_wf _ _ _ _ hw) (mt (rk_inj b r sq).1 h2),
    reg_setReg_other _ _ _ _ _ _ hw (mt (rk_inj b r st).1 h1)]

theorem reg_ignoredWrite_status (hw : mapWf regDefault s.regs = true) :
    reg (ignoredWrite s b o) b (hdrOff b + 8) = ignoredStatus (reg s b (hdrOff b + 8)) o := by
  simp only [ignoredWrite]
  rw [reg_raiseAt_status _ (setReg_wf _ _ _ _ hw) (by omega), reg_setReg _ _ _ _ hw]
  rfl

theorem reg_ignoredWrite_other (r : Nat) (hw : mapWf regDefault s.regs = true) (h1 : r ≠ hdrOff b + 8) (h2 : r ≠ hdrOff b + 0x10) :
    reg (ignoredWrite s b o) b r = reg s b r := by
  simp only [ignoredWrite]
  rw [reg_raiseAt_other _ (setReg_wf _ _ _ _ hw) h1 h2, reg_setReg_other _ _ _ _ _ _ hw (mt (rk_inj b r _).1 h1)]

theorem fld_or_place_of_apart (w : Word) (hi lo v hi' lo' : Nat) (h : hi' < lo ∨ hi < lo') : fld (w ||| place hi lo v) hi' lo' = fld w hi' lo' := by
  refine fld_congr _ _ _ _ fun i h1 h2 h3 => ?_
  have hp := flag_place hi lo v i h3
  rw [flag] at hp ⊢
  rw [BitVec.getLsbD_or, hp, decide_eq_false (by omega), Bool.or_false]
  rfl

theorem ignoredStatus_fields (w : Word) (ho : o < 2 ^ 20) : flag (ignoredStatus w o) 63 = true
    ∧ fld (ignoredStatus w o) 31 24 = min 255 (fld w 31 24 + 1) ∧ fld (ignoredStatus w o) 51 32 = if flag w 63 then fld w 51 32 else o := by
  have hcnt : fld (if flag w 63 then w else setFld w 51 32 o) 31 24 = fld w 31 24 := by
    split
    · rfl
    · exact fld_setFld_of_apart _ _ _ _ _ _ (by omega)
  have hoff : fld (if flag w 63 then w else setFld w 51 32 o) 51 32 = if flag w 63 then fld w 51 32 else o := by
    split
    · rfl
    · rw [fld_setFld_self _ _ _ _ (by omega)]
      exact Nat.mod_eq_of_lt ho
  refine ⟨?_, ?_, ?_⟩
  · rw [ignoredStatus, flag, BitVec.getLsbD_or]
    exact Bool.or_eq_true_iff.2 (Or.inr rfl)
  · rw [ignoredStatus, fld_or_place_of_apart _ _ _ _ _ _ (by omega), fld_setFld_self _ _ _ _ (by omega), hcnt]
    omega
  · rw [ignoredStatus, fld_or_place_of_apart _ _ _ _ _ _ (by omega), fld_setFld_of_apart _ _ _ _ _ _ (by omega), hoff]

end Sys2Proof.Machine
end

section
/-! PROOFS. The obligation on register writes. -/

namespace Sys2Proof.Claims

open Sys2Proof.Machine

/-- REGISTER_WRITE at a register key is the end of a register write there. -/
theorem exec_registerWrite {s : State} (rq : Requester) (sp : RegSpace) (off size k : Nat) (val : Word) (hk : regKey sp off = some k) :
    exec (.registerWrite rq sp off size val) s = afterReg s rq k size (performWrite s { rq, key := k, size, val }) := by
  change execRegisterWrite rq sp off size val s = _
  rw [execRegisterWrite, hk]
  rfl

/-- Settles O39. -/
theorem registerWritesStoreTheirFields : Obligations.RegisterWritesStoreTheirFields := by
  intro s rq b o off sp val w hr hl hpmc hp hh hlo hhi h8 hf hne hw
  subst hw
  have hk := rk_mod b o h8
  have hr8 : o / 8 * 8 = o := by omega
  have hr4 : (o + 4) / 8 * 8 = o := by omega
  have hlow : ∀ size v, performWrite s { rq, key := rk b o, size, val := v } = writeAt s b { rq, key := rk b o, size, val := v } o := fun size v =>
    performWrite_reaches _ b o hlo (by rwa [hr8]) hr hl hpmc (by rwa [hr8]) hh
  have hhigh : ∀ size v, performWrite s { rq, key := rk b o + 4, size, val := v } = writeAt s b { rq, key := rk b o + 4, size, val := v } (o + 4) :=
    fun size v => performWrite_reaches _ b (o + 4) hhi (by rwa [hr4]) hr hl hpmc (by rwa [hr4]) hh
  refine ⟨fun hkey ht h70 hg => ?_, fun hkey ht h70 hg hpl => ?_, fun f hfm => ⟨fun hty => ?_, fun hty => ?_⟩, fun i hi hno => ?_, fun size hkey h4 h8' => ?_,
    fun hkey => ?_, fun hkey ht hg => ⟨?_, fun hwf ho h1 h2 => ?_⟩⟩
  · have hwhole := performWrite_whole rq b o val ⟨hr, hl, hpmc, hp, hh, hg⟩ hlo h8 hf hne ht h70
    refine ⟨?_, fun hpl => ⟨?_, ?_⟩⟩
    · rw [exec_registerWrite rq sp off 8 _ val hkey, hwhole]
    · rw [exec_registerWrite rq sp off 8 _ val hkey, hwhole, writeEffect_plain hpl]
    · rw [exec_registerWrite rq sp off 4 _ val hkey, hlow, writeAt_low ht h70 hg h8 hne _ hk, writeEffect_plain hpl]
  · rw [exec_registerWrite rq sp off 4 _ val hkey, hhigh, writeAt_high ht h70 hg h8 hne _ hk, writeEffect_plain hpl]
  · refine fld_storedWord_written _ _ hfm ?_
    rcases hty with hty | hty | ⟨hty, hwo⟩
    · simp [keptField, hty]
    · simp [keptField, hty]
    · simp [keptField, hty, hwo]
  · refine fld_storedWord_kept _ _ hfm ?_
    rcases hty with hty | hty | ⟨hty, hwo⟩
    · simp [keptField, hty]
    · simp [keptField, hty]
    · simp [keptField, hty, hwo]
  · rw [writtenWord, flag_storedWord _ _ _ hi, if_neg]
    rintro ⟨f, hfm, -, hfi⟩
    exact hno f hfm hfi
  · rw [exec_registerWrite rq sp off size _ val hkey, hlow, writeAt_size o _ size h4 h8']
  · rw [exec_registerWrite rq sp off 8 _ val hkey, hhigh, writeAt_misaligned _ _ hk]
  · rw [exec_registerWrite rq sp off 8 _ val hkey, hlow, writeAt_gated _ ht hg h8 hne hk]
  · obtain ⟨hflag, hcnt, hoff⟩ := ignoredStatus_fields (reg s b (hdrOff b + 8)) ho
    refine ⟨reg_ignoredWrite_other o hwf h1 h2, ?_, ?_, ?_⟩
    · rw [rbit, reg_ignoredWrite_status hwf, hflag]
    · rw [rf, reg_ignoredWrite_status hwf, hcnt]
      rfl
    · rw [rf, reg_ignoredWrite_status hwf, hoff]
      rfl

end Sys2Proof.Claims
end

section
/-! SUPPORT. A GFE read does not see whose turn it is (log entry 201): every operation that it runs through commutes with `turned`. -/

namespace Sys2Proof.Machine

open Sys2Proof

/-- The state with the context `n` next in turn. -/
def turned (n : BitVec 12) (s : State) : State := { s with turn := n }

variable (n : BitVec 12) (s : State)

theorem fireInjection_turned (b : Blk) (src : Nat) (u a : Option Nat) :
    fireInjection (turned n s) b src u a = ((fireInjection s b src u a).1, turned n (fireInjection s b src u a).2) := by
  have h : (turned n s).inject = s.inject := rfl
  unfold fireInjection
  rw [h]
  split <;> rfl

theorem markUncorrectable_turned (k : Nat) : markUncorrectable (turned n s) k = turned n (markUncorrectable s k) := by
  have h : ∀ i, (chunkPoison (turned n s) k || poisonMapRoom (turned n s) i) = (chunkPoison s k || poisonMapRoom s i) := fun _ => rfl
  unfold markUncorrectable
  split
  · rw [h]
    split <;> rfl
  · rfl

theorem chunkCheck_turned (k : Nat) : chunkCheck (turned n s) whoNone k = ((chunkCheck s whoNone k).1, turned n (chunkCheck s whoNone k).2) := by
  have h : (turned n s).farBad = s.farBad := rfl
  unfold chunkCheck
  split
  · rw [h]
    split <;> rfl
  · next b unit cause stall _ =>
    have hs : ∀ u : State, slipFor u whoNone cause stall = u := fun _ => rfl
    dsimp only
    simp only [hs, ite_self, fireInjection_turned]
    cases caKind (k * 64)
    all_goals
      dsimp only
      simp only [fireInjection_turned]
      split
      · rw [markUncorrectable_turned]
      · rfl

theorem countBytes_turned (k m : Nat) (wr : Bool) : countBytes (turned n s) whoNone k m wr = turned n (countBytes s whoNone k m wr) := by
  unfold countBytes
  simp only [countSeam, whoNone]
  cases caKind (k * 64) <;> rfl

theorem chunkRead_turned (k off m : Nat) (key : Option Nat) :
    chunkRead (turned n s) whoNone k off m key = ((chunkRead s whoNone k off m key).1, turned n (chunkRead s whoNone k off m key).2) := by
  have hp : ∀ u : State, chunkPlain (turned n u) k key = chunkPlain u k key := fun _ => rfl
  have hq : ∀ u : State, chunkPoison (turned n u) k = chunkPoison u k := fun _ => rfl
  simp only [chunkRead, chunkCheck_turned, countBytes_turned, hp, hq]

theorem setBytes_turned (a : Nat) (d : List Byte) : setBytes (turned n s) a d = turned n (setBytes s a d) := by
  induction d generalizing s a with
  | nil => rfl
  | cons b t ih => exact ih (setByte s a b) (a + 1)

theorem raiseFault_turned (b : Blk) (src : Nat) (u a : Option Nat) : raiseFault (turned n s) b src u a = turned n (raiseFault s b src u a) := rfl

theorem setChunkPoison_turned (k : Nat) (p : Bool) : setChunkPoison (turned n s) k p = turned n (setChunkPoison s k p) := rfl

theorem ite_turned (p : Prop) [Decidable p] (t : State) : (if p then turned n s else turned n t) = turned n (if p then s else t) :=
  (apply_ite (turned n) p s t).symm

theorem chunkWrite_turned (k off : Nat) (d : List Byte) (p : Bool) (key : Option Nat) :
    chunkWrite (turned n s) whoNone k off d p key = turned n (chunkWrite s whoNone k off d p key) := by
  have hbad : ∀ u : State, (if (decide (d.length = 64) && !(turned n u).farBad.isEmpty) = true
      then { turned n u with farBad := mapSet (fun _ => false) (turned n u).farBad k false } else turned n u)
      = turned n (if (decide (d.length = 64) && !u.farBad.isEmpty) = true then { u with farBad := mapSet (fun _ => false) u.farBad k false } else u) :=
    fun u => ite_turned n { u with farBad := mapSet (fun _ => false) u.farBad k false } _ u
  have hn : ∀ u : State, noteUndo u whoNone k = u := fun _ => rfl
  have hq : ∀ u : State, chunkPoison (turned n u) k = chunkPoison u k := fun _ => rfl
  have hr : ∀ (u : State) i, poisonMapRoom (turned n u) i = poisonMapRoom u i := fun _ _ => rfl
  have hc : ∀ (u : State) x, chunkCipher (turned n u) k key x = chunkCipher u k key x := fun _ _ => rfl
  have hp : ∀ u : State, chunkPlain (turned n u) k key = chunkPlain u k key := fun _ => rfl
  unfold chunkWrite
  dsimp only
  simp only [hn, hbad, chunkCheck_turned, ite_turned, countBytes_turned]
  generalize countBytes _ whoNone k d.length true = u
  cases key <;> cases caKind (k * 64)
  all_goals
    dsimp only
    simp only [setBytes_turned, hq, hr, hc, hp, raiseFault_turned, setChunkPoison_turned, ite_turned]

theorem ccCheck_turned (cl : Nat) (l : CLine) : ccCheck (turned n s) cl l = ((ccCheck s cl l).1, turned n (ccCheck s cl l).2) := by
  simp only [ccCheck, fireInjection_turned]

theorem clusterCtr_turned (cl i k : Nat) : clusterCtr (turned n s) cl i k = turned n (clusterCtr s cl i k) := rfl

theorem ccWriteBack_turned (cl : Nat) (l : CLine) : ccWriteBack (turned n s) cl l = turned n (ccWriteBack s cl l) := by
  simp only [ccWriteBack, ccCheck_turned, chunkWrite_turned, clusterCtr_turned]

theorem devWriteBack_turned (k : Nat) (d : List Byte) (p : Bool) : devWriteBack (turned n s) k d p = turned n (devWriteBack s k d p) := by
  have h : devLine (turned n s) k = devLine s k := rfl
  unfold devWriteBack
  rw [h]
  cases devLine s k <;> rfl

theorem notePresence_turned (host : Bool) (k cl : Nat) : notePresence (turned n s) host k cl = turned n (notePresence s host k cl) := by
  cases host
  · rfl
  · have h : devLine (setDirBits (turned n s) (regionOfCluster cl) (2 ^ 52 + k) (dirBits (turned n s) (regionOfCluster cl) (2 ^ 52 + k) ||| 2 ^ (cl % 6))) k
        = devLine s k := rfl
    have h' : devLine (setDirBits s (regionOfCluster cl) (2 ^ 52 + k) (dirBits s (regionOfCluster cl) (2 ^ 52 + k) ||| 2 ^ (cl % 6))) k = devLine s k := rfl
    unfold notePresence
    dsimp only
    rw [if_pos rfl, if_pos rfl, if_pos rfl, h, h']
    cases devLine s k <;> rfl

theorem ccInsert_turned (cl : Nat) (l : CLine) : ccInsert (turned n s) cl l = turned n (ccInsert s cl l) := by
  have hm : (cluster (turned n s) cl).ccache = (cluster s cl).ccache := rfl
  have hw : winWays (turned n s) cl = winWays s cl := rfl
  have hs : ∀ u m, setCcache (turned n u) cl m = turned n (setCcache u cl m) := fun _ _ => rfl
  have hf : freeNat (turned n s) = ((freeNat s).1, turned n (freeNat s).2) := rfl
  have hc : ∀ u, cluster (turned n u) cl = cluster u cl := fun _ => rfl
  unfold ccInsert
  dsimp only
  rw [hm, hw]
  cases findLine (cluster s cl).ccache l.host l.line with
  | some e => rfl
  | none =>
    dsimp only
    cases ((List.range (16 - winWays s cl)).map (· + winWays s cl)).find? fun w => (mapFind? (cluster s cl).ccache (l.line % 16384 * 16 + w)).isNone with
    | some w => simp only [hs, notePresence_turned]
    | none =>
      dsimp only
      rw [hf]
      cases mapFind? (cluster s cl).ccache (l.line % 16384 * 16 + winWays s cl + (freeNat s).1 % (16 - winWays s cl)) with
      | none => simp only [hc, hs, notePresence_turned]
      | some v => simp only [ccWriteBack_turned, ite_turned, hc, hs, notePresence_turned]

theorem evictDirty_turned (c : Nat) (l : CLine) : evictDirty (turned n s) c l = turned n (evictDirty s c l) := by
  have hf : ∀ cl, clusterFenced (turned n s) cl = clusterFenced s cl := fun _ => rfl
  have hc : ∀ cl, cluster (turned n s) cl = cluster s cl := fun _ => rfl
  have hw : ({ whoNone with ctx := none } : Who) = whoNone := rfl
  simp only [evictDirty, hw, devWriteBack_turned, hf, hc, ccInsert_turned, chunkWrite_turned, ite_turned]

theorem flushWbOf_turned (c : Nat) : flushWbOf (turned n s) c = turned n (flushWbOf s c) := by
  have h : (core (turned n s) c).wb = (core s c).wb := rfl
  have hc : setCore (turned n s) c { core (turned n s) c with wb := none } = turned n (setCore s c { core s c with wb := none }) := rfl
  unfold flushWbOf
  rw [h]
  cases (core s c).wb with
  | none => rfl
  | some l =>
    dsimp only
    rw [hc, evictDirty_turned]

theorem flushWb_turned (host : Bool) (k : Nat) : flushWb (turned n s) host k = turned n (flushWb s host k) := by
  refine List.foldl_hom (turned n) fun u e => ?_
  cases e.2.wb with
  | none => rfl
  | some l =>
    dsimp only
    rw [flushWbOf_turned, ite_turned]

theorem snoopOne_turned (host : Bool) (k : Nat) (own : Bool) (r : SnoopRes) (h : Holder) :
    snoopOne host k own (turned n s, r) h = (turned n (snoopOne host k own (s, r) h).1, (snoopOne host k own (s, r) h).2) := by
  have hl : holderLine (turned n s) host k h = holderLine s host k h := by cases h <;> rfl
  have hk : ∀ l, holderCheck (turned n s) h l = ((holderCheck s h l).1, turned n (holderCheck s h l).2) := by
    intro l
    cases h
    · rfl
    · exact ccCheck_turned n s _ l
  have hd : ∀ u slot, dropHolderLine (turned n u) h slot = turned n (dropHolderLine u h slot) := by intro _ _; cases h <;> rfl
  have hs : ∀ u slot l, setHolderLine (turned n u) h slot l = turned n (setHolderLine u h slot l) := by intro _ _ _; cases h <;> rfl
  unfold snoopOne
  dsimp only
  rw [hl]
  cases holderLine s host k h with
  | none => rfl
  | some e =>
    obtain ⟨slot, l⟩ := e
    dsimp only
    by_cases hS : l.st ≠ .s
    · simp only [if_pos hS, hk, hd, hs]
      cases own <;> rfl
    · simp only [if_neg hS, hd, hs]
      cases own <;> rfl

theorem snoopAll_turned (host : Bool) (k : Nat) (own : Bool) :
    snoopAll (turned n s) host k own = (turned n (snoopAll s host k own).1, (snoopAll s host k own).2) := by
  have ha : ∀ u, allHolders (turned n u) = allHolders u := fun _ => rfl
  unfold snoopAll snoopHolders
  simp only [flushWb_turned, ha]
  exact List.foldl_hom (fun r : State × SnoopRes => (turned n r.1, r.2)) (init := (flushWb (flushWb s host k) host k, snoopNone))
    fun r h => snoopOne_turned n r.1 host k own r.2 h

theorem gfeRead_turned (a m : Nat) (key : Option Nat) : (gfeRead (turned n s) whoNone a m key).1 = (gfeRead s whoNone a m key).1 := by
  have hb : ∀ u k, useBis (turned n u) k = turned n (useBis u k) := fun _ _ => rfl
  have h : gfeRead (turned n s) whoNone a m key = ((gfeRead s whoNone a m key).1, turned n (gfeRead s whoNone a m key).2) := by
    refine List.foldl_hom (fun r : (List Byte × Bool) × State => (r.1, turned n r.2)) (init := (([], false), s)) fun r q => ?_
    dsimp only
    rw [hb, snoopAll_turned]
    cases (snoopAll (useBis r.2 q.1) false q.1 false).2.data with
    | none =>
      dsimp only
      rw [chunkRead_turned]
    | some e => rfl
  rw [h]

/-- The value of a fence does not depend on whose turn it is. -/
theorem fenceValue_takeTurn (c t : CtxIx) (f : Nat) : fenceValue (takeTurn s c) t f = fenceValue s t f := by
  rw [takeTurn]
  split
  · rfl
  · exact congrArg (fun r => BitVec.ofNat 64 (ofBytes r.1)) (gfeRead_turned (c + 1) s (canon (fenceCa s t f)) 8 none)

end Sys2Proof.Machine
end

section
/-! SUPPORT. When a delivered command runs (R325-R331): the cases of `cmdGuard`, each once. -/

namespace Sys2Proof.Machine

open Sys2Proof

variable {s : State} {c : CtxIx} {w : List Word}

theorem cmdGuard_fetch (code : Nat) (ok : Bool) (hr : ctxReady s c = true) (hw : w.length = 8) (hf : fromRing s c = true)
    (hn : (gctx s c).slot = none) : cmdGuard s c w code ok = some (some (fetchSlot s c)) := by
  simp [cmdGuard, hr, hw, hf, hn]

/-- The guard of a command whose ring slot has been read, or that comes from no ring. -/
theorem cmdGuard_read (code : Nat) (ok : Bool) (hr : ctxReady s c = true) (hw : w.length = 8)
    (hs : fromRing s c = true → (gctx s c).slot.isSome = true) : cmdGuard s c w code ok
      = if !myTurn s c then none
        else if !(cmdLines s c w).isEmpty then some (some (gfeAsk s (cmdLines s c w)))
        else match nextIs s c w with
          | .no => none
          | .bad => some (some (malformed s c))
          | .yes =>
            if cmdCode w = code then (if ok then some none else some (some (malformed s c)))
            else if 4 < cmdCode w then some (some (malformed s c)) else none := by
  have h : (fromRing s c && (gctx s c).slot.isNone) = false := by
    rw [Bool.and_eq_false_iff, Option.isNone_eq_false_iff]
    exact (Bool.eq_false_or_eq_true (fromRing s c)).symm.imp_right hs
  unfold cmdGuard
  rw [hr, hw, h]
  rfl

theorem cmdGuard_notTurn (code : Nat) (ok : Bool) (hr : ctxReady s c = true) (hw : w.length = 8)
    (hs : fromRing s c = true → (gctx s c).slot.isSome = true) (ht : myTurn s c = false) : cmdGuard s c w code ok = none := by
  rw [cmdGuard_read code ok hr hw hs, ht]
  rfl

theorem cmdGuard_lines (code : Nat) (ok : Bool) (hr : ctxReady s c = true) (hw : w.length = 8)
    (hs : fromRing s c = true → (gctx s c).slot.isSome = true) (ht : myTurn s c = true) (hl : cmdLines s c w ≠ []) :
    cmdGuard s c w code ok = some (some (gfeAsk s (cmdLines s c w))) := by
  rw [cmdGuard_read code ok hr hw hs, ht, if_neg (by decide), if_pos (by simpa using hl)]

theorem cmdGuard_next (code : Nat) (ok : Bool) (hr : ctxReady s c = true) (hw : w.length = 8)
    (hs : fromRing s c = true → (gctx s c).slot.isSome = true) (ht : myTurn s c = true) (hl : cmdLines s c w = []) (hy : nextIs s c w = .yes) :
    cmdGuard s c w code ok = if cmdCode w = code then (if ok then some none else some (some (malformed s c)))
      else if 4 < cmdCode w then some (some (malformed s c)) else none := by
  rw [cmdGuard_read code ok hr hw hs, ht, hl, hy]
  rfl

/-- A command of no code, or one that cannot be read, stops the context whatever code it was delivered as. -/
theorem cmdGuard_malformed {code : Nat} (ok : Bool) (hc : code ≤ 4) (hr : ctxReady s c = true) (hw : w.length = 8)
    (hs : fromRing s c = true → (gctx s c).slot.isSome = true) (ht : myTurn s c = true) (hl : cmdLines s c w = [])
    (hb : nextIs s c w = .bad ∨ (nextIs s c w = .yes ∧ 4 < cmdCode w)) : cmdGuard s c w code ok = some (some (malformed s c)) := by
  rcases hb with hb | ⟨hy, h4⟩
  · rw [cmdGuard_read code ok hr hw hs, ht, hl, hb]
    rfl
  · rw [cmdGuard_next code ok hr hw hs ht hl hy, if_neg (by omega), if_pos h4]

end Sys2Proof.Machine
end

section
/-! PROOFS. The commands of a context (R324-R331, R334). -/

namespace Sys2Proof.Claims

open Sys2Proof.Machine

/-- Settles O44. -/
theorem commandsOfAContextAct : Obligations.CommandsOfAContextAct := by
  intro s c w hr hw
  have hN : exec (.cmdNop c w) s = execCmdNop c w s := rfl
  have hT : exec (.cmdTask c w) s = execCmdTask c w s := rfl
  have hW : exec (.cmdWait c w) s = execCmdWait c w s := rfl
  have hS : exec (.cmdSignal c w) s = execCmdSignal c w s := rfl
  have hC : exec (.cmdCall c w) s = execCmdCall c w s := rfl
  rw [hN, hT, hW, hS, hC, execCmdNop, execCmdTask, execCmdWait, execCmdSignal, execCmdCall]
  refine ⟨fun hf hn => ?_, fun hs => ⟨fun ht => ?_, fun ht ls hls hne => ?_, fun ht hl bad hbad hb => ?_, fun ht hl hy t f u hf ht' hu => ?_⟩⟩
  · simp only [cmdGuard_fetch _ _ hr hw hf hn]
    exact ⟨rfl, rfl, rfl, rfl, rfl⟩
  · simp only [cmdGuard_notTurn _ _ hr hw hs ht]
    exact ⟨rfl, rfl, rfl, rfl, rfl⟩
  · subst hls
    simp only [cmdGuard_lines _ _ hr hw hs ht hne]
    exact ⟨rfl, rfl, rfl, rfl, rfl⟩
  · subst hbad
    rw [cmdGuard_malformed _ (by omega) hr hw hs ht hl hb, cmdGuard_malformed _ (by omega) hr hw hs ht hl hb,
      cmdGuard_malformed _ (by omega) hr hw hs ht hl hb, cmdGuard_malformed _ (by omega) hr hw hs ht hl hb,
      cmdGuard_malformed _ (by omega) hr hw hs ht hl hb]
    exact ⟨rfl, rfl, rfl, rfl, rfl⟩
  have hnext := fun code ok => cmdGuard_next code ok hr hw hs ht hl hy
  have hu' : takeTurn s c = u := hu.symm
  have hg : gctx u c = gctx s c := by rw [hu]; split <;> rfl
  have hgt : gctx u t = gctx s t := by rw [hu]; split <;> rfl
  have hfv : fenceValue u t f = fenceValue s t f := by rw [← hu', fenceValue_takeTurn]
  rw [hu']
  refine ⟨fun h0 => ?_, fun h1 => ?_, fun h2 hok => ?_, fun h2 hok hen => ⟨fun hle hw' => ?_, fun hlt hw' => ?_, fun hw' hre => ?_⟩,
    fun h3 hok => ?_, fun h3 hok h55 => ?_, fun h3 hok h55 => ?_, fun h4 hok => ?_, fun h4 hok => ?_⟩
  · rw [hnext, if_pos h0]
    cases nopOk w <;> rfl
  · rw [hnext, if_pos h1]
    cases taskOk s c w <;> rfl
  · rw [hnext, if_pos h2, hok]
    rfl
  · rw [hnext, if_pos h2, hok]
    have hgo : ((gctx s c).waitOn.isSome && !(gctx s c).recheck) = false := by
      rcases hw' with hw' | hw' <;> simp [hw']
    simp only [waitReached, ← ht', ← hf, hg, hgt, hfv, hgo, hen, hle, decide_true, Bool.and_self, if_true, Bool.false_eq_true, if_false]
    rfl
  · rw [hnext, if_pos h2, hok]
    simp only [waitReached, ← ht', ← hf, hg, hgt, hfv, hen, hw', Nat.not_le.2 hlt, decide_false, Bool.and_false, Option.isSome_none,
      Bool.false_and, Bool.false_eq_true, if_true, if_false]
    rfl
  · rw [hnext, if_pos h2, hok]
    simp only [waitReached, hg, hw', hre, Bool.not_false, Bool.and_self, if_true]
    rfl
  · rw [hnext, if_pos h3, hok]
    rfl
  · rw [hnext, if_pos h3, hok]
    simp only [signalReached, h55, ← hf, Bool.false_eq_true, if_true, if_false]
    rfl
  · rw [hnext, if_pos h3, hok]
    simp only [signalReached, h55, ← hf, hg, if_true]
    rw [hu]
    split <;> rfl
  · rw [hnext, if_pos h4, hok]
    rfl
  · rw [hnext, if_pos h4, hok]
    rfl

end Sys2Proof.Claims
end

section
/-! SUPPORT. Configuration words (R350): which commands leave them as they are. -/

namespace Sys2Proof.Machine

open Sys2Proof

variable {s : State}

theorem cfgCmd_up (f : State → State) (h : cfgUp s = true) : cfgCmd s f = done (f s) := if_pos h

theorem cfgCmd_down (f : State → State) (h : cfgUp s = false) (hl : s.ep.linkUp = true) : cfgCmd s f = done (send s .retryStatus) := by
  rw [cfgCmd, if_neg (by simp [h]), if_pos hl]

theorem exec_configurationCommand (s : State) {i : Instr} (hi : i ∈ ([.msiEnable, .msiUnmask, .bmeClear, .bmeSet, .d3hotEnter, .d0Return, .priReenable,
    .flrInitiate, .doeAbort, .getVersion, .getDigests] : List Instr)) : ∃ f, exec i s = cfgCmd s f := by
  simp only [List.mem_cons, List.not_mem_nil, or_false] at hi
  rcases hi with rfl | rfl | rfl | rfl | rfl | rfl | rfl | rfl | rfl | rfl | rfl
  · exact ⟨fun s => if msiEn s then s else msiEnabled s, rfl⟩
  · exact ⟨msiUnmasked, rfl⟩
  · exact ⟨fun s => setBme s false, rfl⟩
  · exact ⟨fun s => setBme s true, rfl⟩
  · exact ⟨fun s => setPowerState s true, rfl⟩
  · exact ⟨fun s => setPowerState s false, rfl⟩
  · exact ⟨fun s => cfgWrite (cfgWrite s 0x204 0 1) 0x204 1 1, rfl⟩
  · exact ⟨flrStart, rfl⟩
  · exact ⟨doeAbort, rfl⟩
  · exact ⟨getVersion, rfl⟩
  · exact ⟨getDigests, rfl⟩

theorem cfgWord_setCfg (o : Nat) (w : BitVec 32) (h : mapWf cfgDefault s.ep.cfg = true) : cfgWord (setCfg s o w) o = w :=
  mapGet_mapSet_self _ _ 0 _ _ h

theorem cfgWord_setCfg_other (o o' : Nat) (w : BitVec 32) (h : mapWf cfgDefault s.ep.cfg = true) (ho : o' ≠ o) :
    cfgWord (setCfg s o w) o' = cfgWord s o' := mapGet_mapSet_other _ _ 0 _ _ _ h ho

theorem setCfg_wf (o : Nat) (w : BitVec 32) (h : mapWf cfgDefault s.ep.cfg = true) : mapWf cfgDefault (setCfg s o w).ep.cfg = true :=
  mapWf_mapSet _ _ _ _ h

theorem upstream_cfg (m : Msg) (hm : noteSent s m = s) : (upstream s m).ep.cfg = s.ep.cfg := by
  unfold upstream
  split
  · rw [hm]
    rfl
  · rfl

theorem doeSend_cfg (vid ty : Nat) (p : List Byte) : (doeSend s vid ty p).ep.cfg = s.ep.cfg := by
  unfold doeSend
  dsimp only
  split <;> rfl

theorem spdmError_cfg (code : Nat) : (spdmError s code).ep.cfg = s.ep.cfg := doeSend_cfg ..

theorem spdmAt_cfg (n : Nat) (f : State → State) (hf : (f s).ep.cfg = s.ep.cfg) : (spdmAt n f s).ep.cfg = s.ep.cfg := by
  unfold spdmAt
  split
  · exact hf
  · exact doeSend_cfg ..

/-- An SPDM request changes no configuration word. -/
theorem spdmRequest_cfg (b : List Byte) : (spdmRequest b s).ep.cfg = s.ep.cfg := by
  unfold spdmRequest
  dsimp only
  split
  · exact doeSend_cfg ..
  · refine spdmAt_cfg _ _ ?_
    split
    · exact doeSend_cfg ..
    · exact spdmError_cfg _
  · exact spdmAt_cfg _ _ (doeSend_cfg ..)
  · exact spdmAt_cfg _ _ (doeSend_cfg ..)
  · refine spdmAt_cfg _ _ ?_
    dsimp only
    split
    · exact spdmError_cfg _
    · exact doeSend_cfg ..
  · exact spdmAt_cfg _ _ (doeSend_cfg ..)
  · refine spdmAt_cfg _ _ ?_
    dsimp only
    split
    · exact doeSend_cfg ..
    · split
      · exact doeSend_cfg ..
      · split
        · exact doeSend_cfg ..
        · exact spdmError_cfg _
  · exact spdmError_cfg _

theorem cdatRead_cfg (i : BitVec 16) : (cdatRead i s).ep.cfg = s.ep.cfg := by
  unfold cdatRead
  split <;> exact doeSend_cfg ..

/-- A write of a mailbox register changes no configuration word of its own (R353). -/
theorem doeWrite_cfg (off : Nat) (v m : BitVec 32) : (doeWrite s off v m).ep.cfg = s.ep.cfg := by
  unfold doeWrite
  dsimp only
  split
  · split
    · rfl
    · split
      · unfold doeGo
        dsimp only
        split
        · rfl
        · split
          · exact doeSend_cfg ..
          · exact spdmRequest_cfg _
          · exact cdatRead_cfg _
          · rfl
      · rfl
  · split <;> rfl

theorem sendPageReqs_cfg : (sendPageReqs s).ep.cfg = s.ep.cfg := by
  unfold sendPageReqs
  generalize s.faults = l
  induction l generalizing s with
  | nil => rfl
  | cons f t ih =>
    rw [List.foldl_cons, ih]
    dsimp only
    split
    · exact upstream_cfg _ rfl
    · rfl

/-- Errors cleared by a write move the pointer to the first that is left, and no other configuration word (R365). -/
theorem cfgWord_clearUncorr (o : Nat) (m : BitVec 32) (h : mapWf cfgDefault s.ep.cfg = true) (ho : o ≠ 0x118) :
    cfgWord (clearUncorr s m) o = cfgWord s o := by
  unfold clearUncorr
  dsimp only
  split
  · exact cfgWord_setCfg_other _ _ _ h ho
  · rfl

/-- What a write of a configuration word starts changes that word only at the six words whose commands are their own. -/
theorem cfgWord_cfgEffects (off : Nat) (o v m : BitVec 32) (h : mapWf cfgDefault s.ep.cfg = true)
    (ho : off ∉ [0x04, 0x44, 0x50, 0x60, 0x78, 0x204]) : cfgWord (cfgEffects s off o v m) off = cfgWord s off := by
  have hc : ∀ t : State, t.ep.cfg = s.ep.cfg → ∀ o, cfgWord t o = cfgWord s o := fun t ht o => by rw [cfgWord, ht, cfgWord]
  unfold cfgEffects
  dsimp only
  split
  · exact absurd (by decide) ho
  · exact absurd (by decide) ho
  · exact absurd (by decide) ho
  · exact absurd (by decide) ho
  · exact absurd (by decide) ho
  · exact cfgWord_clearUncorr _ _ h (by decide)
  · rfl
  · exact hc _ (doeWrite_cfg ..) _
  · exact hc _ (doeWrite_cfg ..) _
  · exact hc _ (doeWrite_cfg ..) _
  · exact absurd (by decide) ho
  · exact hc _ sendPageReqs_cfg _
  · rfl

theorem cfgRw1c_plain (off : Nat) (ho : off ∉ [0x04, 0x44, 0x50, 0x60, 0x78, 0x204]) : cfgRw1c off = 0#32 := by
  unfold cfgRw1c
  split
  · exact absurd (by decide) ho
  · exact absurd (by decide) ho
  · exact absurd (by decide) ho
  · rfl

/-- A write of a configuration word of no command of its own changes its writable bits alone. -/
theorem cfgWord_cfgWrite (off : Nat) (v m : BitVec 32) (h : mapWf cfgDefault s.ep.cfg = true)
    (ho : off ∉ [0x04, 0x44, 0x50, 0x60, 0x78, 0x204]) :
    cfgWord (cfgWrite s off v m) off = (cfgWord s off &&& ~~~(cfgRw off &&& m)) ||| (v &&& (cfgRw off &&& m)) := by
  unfold cfgWrite
  dsimp only
  rw [cfgWord_cfgEffects _ _ _ _ (setCfg_wf _ _ h) ho, cfgWord_setCfg _ _ h, cfgRw1c_plain off ho, BitVec.and_zero, BitVec.not_zero, BitVec.and_allOnes]

end Sys2Proof.Machine
end

section
/-! PROOFS. Events of a context, configuration commands and the DOE mailbox. -/

namespace Sys2Proof.Claims

open Sys2Proof.Machine

/-- Settles O46. -/
theorem contextEventsAct : Obligations.ContextEventsAct := by
  intro s c hrun
  refine ⟨fun hen hring hw har fclk => ?_, fun task t ht hf hr hd => ?_, fun t rest hw hsent => ?_, fun a rest ha hr hg hrd => ?_,
    fun a rest u ha hr hg hrd hch hu hcu => ?_, fun hab hdone hfd => ?_, fun iv n t f hiv h0 hun ht hst hcause => ?_⟩
  · have hx : exec (.watchRearm c fclk) s = execWatchRearm c fclk s := rfl
    rw [hx, execWatchRearm, if_pos (by simp [hrun, hen, hring, hw, har])]
    rfl
  · have hx : exec (.cplRecordIssue task) s = execCplRecordIssue task s := rfl
    rw [hx, execCplRecordIssue, ht]
    exact if_pos (by simp [hf, hr, hd])
  · have hx : exec .ioflushReadComplete s = execIoflushReadComplete s := rfl
    rw [hx, execIoflushReadComplete, hw]
    exact if_pos hsent
  · have hx : exec (.afterSignal c) s = execAfterSignal c s := rfl
    rw [hx, execAfterSignal, ha]
    dsimp only
    rw [if_neg (by simp [hr, hrun]), if_neg (by simp [hg]), if_pos (by simp [hrd])]
    rfl
  · have hx : exec (.afterSignal c) s = execAfterSignal c s := rfl
    rw [hx, execAfterSignal, ha]
    dsimp only
    rw [if_neg (by simp [hr, hrun]), if_neg (by simp [hg]), if_neg (by simp [hrd]), ← hu, hcu]
    rfl
  · have hx : exec (.abortComplete c) s = execAbortComplete c s := rfl
    rw [hx, execAbortComplete, if_pos (by simp [hab, hdone]), hfd]
    rfl
  · have hx : exec (.wdogStall c) s = execWdogStall c s := rfl
    subst hiv
    rw [hx, execWdogStall, if_pos (by rw [hun, hst, decide_eq_true h0, decide_eq_true ht]; rfl), hcause]
    rfl

/-- Settles O47. -/
theorem endpointCommandsAct : Obligations.EndpointCommandsAct := by
  refine ⟨fun s hl hc i hi => ?_, fun s off size val hl hc hsz hal hlt => ?_, fun s hc =>
    ⟨fun off size val o hsz hal ho => ⟨fun hlt => ?_, fun hge hlt => ?_⟩, fun off v m i hwf ho hi => ?_, ?_⟩⟩
  · obtain ⟨f, hf⟩ := exec_configurationCommand s hi
    rw [hf, cfgCmd_down f hc hl]
    rfl
  · have hx : exec (.configurationWrite off size val) s = execConfigurationWrite off size val s := rfl
    rw [hx, execConfigurationWrite, if_neg (by simp [hl, hal, hlt]; omega), if_neg (by simp [hc])]
    exact cfgCmd_down _ hc hl
  all_goals
    have hl : s.ep.linkUp = true := by
      simp only [cfgUp, Bool.and_eq_true] at hc
      exact hc.1.1
  · have hx : exec (.configurationWrite off size val) s = execConfigurationWrite off size val s := rfl
    rw [hx, execConfigurationWrite, if_neg (by simp [hl, hal]; omega), if_neg (by simp [hc]; omega), ho]
    exact cfgCmd_up _ hc
  · have hx : exec (.configurationWrite off size val) s = execConfigurationWrite off size val s := rfl
    rw [hx, execConfigurationWrite, if_neg (by simp [hl, hal]; omega), if_pos (by simp [hc]; omega)]
  · rw [cfgWord_cfgWrite off v m hwf ho]
    simp only [BitVec.getLsbD_or, BitVec.getLsbD_and, BitVec.getLsbD_not, hi, decide_true, Bool.true_and]
    cases (cfgRw off).getLsbD i <;> cases m.getLsbD i <;> simp
  · have hME : exec .msiEnable s = cfgCmd s fun s => if msiEn s then s else msiEnabled s := rfl
    have hMU : exec .msiUnmask s = cfgCmd s msiUnmasked := rfl
    have hBC : exec .bmeClear s = cfgCmd s fun s => setBme s false := rfl
    have hBS : exec .bmeSet s = cfgCmd s fun s => setBme s true := rfl
    have hD3 : exec .d3hotEnter s = cfgCmd s fun s => setPowerState s true := rfl
    have hD0 : exec .d0Return s = cfgCmd s fun s => setPowerState s false := rfl
    have hPR : exec .priReenable s = cfgCmd s fun s => cfgWrite (cfgWrite s 0x204 0 1) 0x204 1 1 := rfl
    have hFL : exec .flrInitiate s = cfgCmd s flrStart := rfl
    simp only [hME, hMU, hBC, hBS, hD3, hD0, hPR, hFL, cfgCmd_up _ hc]
    refine ⟨rfl, rfl, rfl, rfl, rfl, rfl, rfl, rfl, fun d base size dpa bi => ?_, fun off len => ⟨fun hcl hb hle => ?_, fun h => ?_⟩⟩
    · exact if_pos hl
    · exact if_pos (by simp [hcl, hb, hle])
    · refine if_neg ?_
      rcases h with h | h | h
      · simp [h]
      · simp [h]
      · simp [Nat.not_le.2 h]

/-- Settles O48. -/
theorem doeRequestsAreAnswered : Obligations.DoeRequestsAreAnswered := by
  intro s hc
  have hx : (∀ ix, exec (.doeDiscovery ix) s = done (doeDiscovery ix s)) ∧ exec .doeAbort s = done (doeAbort s) ∧ exec .getVersion s = done (getVersion s)
      ∧ (∀ v fl, exec (.getCapabilities v fl) s = done (getCapabilities v s)) ∧ (∀ a h, exec (.negotiateAlgorithms a h) s = done (negotiateAlgorithms a h s))
      ∧ exec .getDigests s = done (getDigests s) ∧ (∀ o l, exec (.getCertificate o l) s = done (getCertificate o l s))
      ∧ (∀ n, exec (.challenge n) s = done (challenge n s)) ∧ (∀ op, exec (.getMeasurements op) s = done (getMeasurements op s))
      ∧ ∀ i, exec (.cdatRead i) s = done (cdatRead i s) :=
    ⟨fun ix => cfgCmd_up (doeDiscovery ix) hc, cfgCmd_up doeAbort hc, cfgCmd_up getVersion hc, fun v _ => cfgCmd_up (getCapabilities v) hc,
      fun a h => cfgCmd_up (negotiateAlgorithms a h) hc, cfgCmd_up getDigests hc, fun o l => cfgCmd_up (getCertificate o l) hc,
      fun n => cfgCmd_up (challenge n) hc, fun op => cfgCmd_up (getMeasurements op) hc, fun i => cfgCmd_up (cdatRead i) hc⟩
  obtain ⟨hdisc, habort, hver, hcap, halg, hdig, hcert, hchal, hmeas, hcdat⟩ := hx
  have hat : ∀ (n : Nat) f, n ≤ s.ep.spdm → spdmAt n f s = f s := fun n f h => if_pos h
  have hlow : ∀ f, s.ep.spdm < 3 → spdmAt 3 f s = spdmError s 4 := fun f h => if_neg (by omega)
  refine ⟨(hdisc 0).trans rfl, (hdisc 1).trans rfl, (hdisc 2).trans rfl, habort, hver.trans rfl, fun fl h => ?_, fun a h hs => ?_, fun h => ⟨?_, fun off len p hoff hp => ?_,
    fun nonce body hb => ?_, fun op rec' body h1 h3 hrec hb => ?_⟩, fun h => ⟨?_, fun n => ?_⟩, fun i e he => ?_⟩
  · rw [hcap, getCapabilities, hat 1 _ h]
    rfl
  · rw [halg, negotiateAlgorithms, hat 2 _ hs]
    exact ⟨_, rfl, rfl⟩
  · rw [hdig, getDigests, hat 3 _ h]
    rfl
  · subst hp
    rw [hcert, getCertificate, hat 3 _ h]
    dsimp only
    rw [if_neg (by omega)]
    rfl
  · subst hb
    rw [hchal, challenge, hat 3 _ h]
    rfl
  · subst hb hrec
    rw [hmeas, getMeasurements, hat 3 _ h]
    dsimp only
    rw [if_neg (by omega), if_neg (by omega), if_pos h3, List.flatMap_singleton]
    rfl
  · rw [hdig, getDigests, hlow _ h]
    rfl
  · rw [hchal, challenge, hlow _ h]
    rfl
  · rw [hcdat, cdatRead, he]
    refine ⟨_, rfl, ?_⟩
    split
    · refine Or.inr fun hn => ?_
      rw [List.getElem?_eq_none_iff] at hn
      simp only [List.length_cons] at hn
      omega
    · exact Or.inl rfl

end Sys2Proof.Claims
end

section
/-! SUPPORT. Register fields read after a write, in canonical registers; and the slots of far memory. -/

namespace Sys2Proof.Machine

open Sys2Proof

variable {s : State}

theorem setRf_wf (b : Blk) (o hi lo v : Nat) (hw : mapWf regDefault s.regs = true) : mapWf regDefault (setRf s b o hi lo v).regs = true :=
  setReg_wf s b o _ hw

theorem reg_setRf (b : Blk) (o hi lo v : Nat) (hw : mapWf regDefault s.regs = true) : reg (setRf s b o hi lo v) b o = setFld (reg s b o) hi lo v :=
  reg_setReg s b o _ hw

theorem reg_setRf_other {b b' : Blk} {o o' : Nat} (hi lo v : Nat) (hw : mapWf regDefault s.regs = true) (hk : rk b' o' ≠ rk b o) :
    reg (setRf s b o hi lo v) b' o' = reg s b' o' := reg_setReg_other s b b' o o' _ hw hk

theorem rf_setRf_self (b : Blk) (o : Nat) {hi : Nat} (lo v : Nat) (hw : mapWf regDefault s.regs = true) (h : hi < 64) :
    rf (setRf s b o hi lo v) b o hi lo = v % 2 ^ (hi + 1 - lo) := by
  rw [rf, reg_setRf b o hi lo v hw, fld_setFld_self _ _ _ _ h]

theorem rf_setRf_of_apart (b : Blk) (o v : Nat) {hi lo hi' lo' : Nat} (hw : mapWf regDefault s.regs = true) (h : hi' < lo ∨ hi < lo') :
    rf (setRf s b o hi lo v) b o hi' lo' = rf s b o hi' lo' := by
  rw [rf, reg_setRf b o hi lo v hw, fld_setFld_of_apart _ _ _ _ _ _ h, rf]

theorem rf_setRf_other {b b' : Blk} {o o' : Nat} (hi lo v hi' lo' : Nat) (hw : mapWf regDefault s.regs = true) (hk : rk b' o' ≠ rk b o) :
    rf (setRf s b o hi lo v) b' o' hi' lo' = rf s b' o' hi' lo' := by
  rw [rf, reg_setRf_other hi lo v hw hk, rf]

theorem rbit_setRf_of_apart (b : Blk) (o v : Nat) {hi lo i : Nat} (hw : mapWf regDefault s.regs = true) (h : i < lo ∨ hi < i) :
    rbit (setRf s b o hi lo v) b o i = rbit s b o i := by
  rw [rbit, reg_setRf b o hi lo v hw, flag_setFld_of_apart _ _ _ _ _ h, rbit]

theorem rbit_setRf_other {b b' : Blk} {o o' : Nat} (hi lo v i : Nat) (hw : mapWf regDefault s.regs = true) (hk : rk b' o' ≠ rk b o) :
    rbit (setRf s b o hi lo v) b' o' i = rbit s b' o' i := by
  rw [rbit, reg_setRf_other hi lo v hw hk, rbit]

/-- A bit of a written field holds the bit of the value. -/
theorem rbit_setRf_self (b : Blk) (o : Nat) {hi lo i : Nat} (v : Nat) (hw : mapWf regDefault s.regs = true) (h : hi < 64) (hi' : i ≤ hi) (hl : lo ≤ i) :
    rbit (setRf s b o hi lo v) b o i = v.testBit (i - lo) := by
  rw [rbit, reg_setRf b o hi lo v hw, flag_setFld _ _ _ _ _ (by omega), if_pos ⟨hl, hi'⟩]

theorem rbit_setRf_other_of_ne {b b' : Blk} {o o' : Nat} (hi lo v i : Nat) (hv : setFld (reg s b o) hi lo v ≠ regDefault (rk b o)) (hk : rk b' o' ≠ rk b o) :
    rbit (setRf s b o hi lo v) b' o' i = rbit s b' o' i :=
  congrArg (flag · i) (mapGet_mapSet_other_of_ne regDefault s.regs (rk b o) (rk b' o') _ hv hk)

/-- What every step of a fold leaves alone, the fold leaves alone. -/
theorem foldl_frame {α β : Type} (g : State → β) (f : State → α → State) (hf : ∀ s a, g (f s a) = g s) (l : List α) (s : State) :
    g (l.foldl f s) = g s := by
  induction l generalizing s with
  | nil => rfl
  | cons a t ih => rw [List.foldl_cons, ih, hf]

theorem vanishTxn_regs (t : Txn) : (vanishTxn s t).regs = s.regs := by
  unfold vanishTxn
  dsimp only
  split <;> rfl

theorem portVanish_regs (n : Nat) : (portVanish s n).regs = s.regs := by
  unfold portVanish
  dsimp only
  rw [foldl_frame State.regs _ fun s t => vanishTxn_regs t]
  change State.regs (List.foldl _ (List.foldl _ s s.cores) _) = _
  rw [foldl_frame State.regs, foldl_frame State.regs]
  · exact fun _ _ => rfl
  · exact fun _ _ => rfl

theorem slotLinkDown_wf (n : Nat) (hw : mapWf regDefault s.regs = true) : mapWf regDefault (slotLinkDown s n).regs = true :=
  setRf_wf _ _ _ _ _ (setRf_wf _ _ _ _ _ hw)

theorem reg_slotLinkDown (n : Nat) (hw : mapWf regDefault s.regs = true) :
    reg (slotLinkDown s n) (bFmp n) 0x110 = setFld (setFld (reg s (bFmp n) 0x110) 55 34 0) 2 2 0 := by
  rw [slotLinkDown, reg_setRf _ _ _ _ _ (setRf_wf _ _ _ _ _ hw), reg_setRf _ _ _ _ _ hw]

theorem rk_bFmp_ne (n : Nat) {o o' : Nat} (h : o ≠ o') : rk (bFmp n) o ≠ rk (bFmp n) o' := by
  rw [rk, rk]
  omega

theorem raiseAt_wf (b : Blk) (st sq : Nat) (m : Word) (hw : mapWf regDefault s.regs = true) : mapWf regDefault (raiseAt s b st sq m).regs = true :=
  setRf_wf _ _ _ _ _ (setReg_wf _ _ _ _ hw)

theorem slotEvents_wf (n : Nat) (m : Word) (hw : mapWf regDefault s.regs = true) : mapWf regDefault (slotEvents s n m).regs = true := by
  unfold slotEvents
  split
  · exact hw
  · exact raiseAt_wf _ _ _ _ hw

/-- Slot events leave every register of the slot but their own two. -/
theorem reg_slotEvents (n : Nat) (m : Word) {o : Nat} (hw : mapWf regDefault s.regs = true) (h1 : o ≠ 0x120) (h2 : o ≠ 0x128) :
    reg (slotEvents s n m) (bFmp n) o = reg s (bFmp n) o := by
  unfold slotEvents
  split
  · rfl
  · rw [raiseAt, reg_setRf_other _ _ _ (setReg_wf _ _ _ _ hw) (rk_bFmp_ne n h2), reg_setReg_other _ _ _ _ _ _ hw (rk_bFmp_ne n h1)]

/-- What a failed slot's status register holds (R390). -/
theorem reg_slotFail (n code : Nat) (m : Word) (hw : mapWf regDefault s.regs = true) :
    reg (slotFail s n code m) (bFmp n) 0x110 = setFld (setFld (reg s (bFmp n) 0x110) 7 5 7) 63 56 code := by
  have hw1 : mapWf regDefault (setSlotState s n 7).regs = true := setRf_wf _ _ _ _ _ hw
  have h : reg (slotFail s n code m) (bFmp n) 0x110 = reg (setRf (setSlotState s n 7) (bFmp n) 0x110 63 56 code) (bFmp n) 0x110 :=
    reg_slotEvents (s := setFmpCmd (setRf (setSlotState s n 7) (bFmp n) 0x110 63 56 code) n false) n _ (setRf_wf _ _ _ _ _ hw1) (by decide) (by decide)
  rw [h, reg_setRf _ _ _ _ _ hw1, setSlotState, reg_setRf _ _ _ _ _ hw]

theorem reg_setFmpCmd (n : Nat) (v : Bool) (b : Blk) (o : Nat) : reg (setFmpCmd s n v) b o = reg s b o := rfl

theorem reg_portVanish (n : Nat) (b : Blk) (o : Nat) : reg (portVanish s n) b o = reg s b o := by
  rw [reg, portVanish_regs, reg]

theorem setFld_slotStatus_ne_zero (w : Word) {hi lo : Nat} (v : Nat) (h : fld w 7 5 = 3) (ha : 7 < lo ∨ hi < 5) : setFld w hi lo v ≠ 0 := by
  intro h0
  have := fld_setFld_of_apart w hi lo v 7 5 ha
  rw [h, h0] at this
  exact absurd this (by decide)

theorem regDefault_slotStatus : ∀ p : Fin 4, regDefault (rk (.fmp p) 0x110) = 0 := by decide

/-- While a slot trains its status register is not at reset, so a write of one of its fields leaves EN and the state readable. -/
theorem setRf_slotStatus {n hi lo : Nat} (v : Nat) (h : slotState s n = 3) (ha : 7 < lo ∨ hi < 5) :
    slotState (setRf s (bFmp n) 0x110 hi lo v) n = 3 ∧ blkEn (setRf s (bFmp n) 0x110 hi lo v) (bFmp n) = blkEn s (bFmp n) := by
  have hne : setFld (reg s (bFmp n) 0x110) hi lo v ≠ regDefault (rk (bFmp n) 0x110) := by
    rw [bFmp, regDefault_slotStatus]
    exact setFld_slotStatus_ne_zero _ v h ha
  refine ⟨?_, rbit_setRf_other_of_ne hi lo v 0 hne (rk_bFmp_ne n (o := hdrOff (bFmp n)) (o' := 0x110) (show (0 : Nat) ≠ 0x110 by decide))⟩
  have hr : reg (setRf s (bFmp n) 0x110 hi lo v) (bFmp n) 0x110 = setFld (reg s (bFmp n) 0x110) hi lo v :=
    mapGet_mapSet_self_of_ne regDefault s.regs _ _ hne
  rw [slotState, rf, hr, fld_setFld_of_apart _ _ _ _ _ _ ha]
  exact h

theorem bFmp_val (p : Fin 4) : bFmp p.val = .fmp p := congrArg Blk.fmp (Fin.ofNat_val_eq_self p)

end Sys2Proof.Machine
end

section
/-! PROOFS. Far memory's slots (R387-R391). -/

namespace Sys2Proof.Claims

open Sys2Proof.Machine

/-- Settles O53. -/
theorem slotCommandsAct : Obligations.SlotCommandsAct := by
  intro s p
  have hb := bFmp_val p
  have hpd : exec (.fmpPresenceDetect p) s = execFmpPresenceDetect p s := rfl
  have hpg : exec (.fmpPowerGood p) s = execFmpPowerGood p s := rfl
  have hll : ∀ w sp, exec (.fmpLinkL0 p w sp) s = execFmpLinkL0 p w sp s := fun _ _ => rfl
  have hen : ∀ x, exec (.fmpEnumerateDone p x) s = execFmpEnumerateDone p x s := fun _ => rfl
  have hst : exec (.fmpStateTimeout p) s = execFmpStateTimeout p s := rfl
  have hdd : exec (.fmpDrainDone p) s = execFmpDrainDone p s := rfl
  have hsr : ∀ h, exec (.fmpSurpriseRemoval p h) s = execFmpSurpriseRemoval p h s := fun _ => rfl
  have hpf : exec (.fmpPowerFault p) s = execFmpPowerFault p s := rfl
  refine ⟨fun h => ?_, fun h => ?_, fun w sp t h hl ht => ?_, fun x u h hu => ⟨fun hx => ?_, fun hx => ?_⟩, fun h => ?_, fun h hl => ?_, fun h => ?_,
    fun h hbz t ht => ?_, fun button h => ?_, fun h => ?_, fun h => ?_, rfl⟩
  · rw [hpd, execFmpPresenceDetect, ← hb]
    exact if_neg (by simp [h])
  · rw [hpg, execFmpPowerGood, ← hb]
    exact if_pos h
  · have hen : blkEn t (.fmp p) = blkEn s (.fmp p) := by
      subst ht
      rw [← hb]
      have h1 := setRf_slotStatus (hi := 42) (lo := 38) (min w 8) h (by decide)
      have h2 := setRf_slotStatus (hi := 37) (lo := 34) (min sp 6) h1.1 (by decide)
      rw [(setRf_slotStatus (hi := 2) (lo := 2) 1 h2.1 (by decide)).2, h2.2, h1.2]
    rw [hll, execFmpLinkL0, ← hen, ← hb, if_pos (by simp [h, hl])]
    rw [← hb] at ht
    dsimp only
    rw [← ht]
    rfl
  · rw [hen, execFmpEnumerateDone, ← hb, hu, if_pos h, if_pos hx]
    rfl
  · rw [hen, execFmpEnumerateDone, if_pos h, if_neg hx]
    rfl
  · rw [hst, execFmpStateTimeout]
    exact if_pos h
  · rw [hst, execFmpStateTimeout]
    rw [if_neg (by omega), if_pos (by simp [h, hl])]
    rfl
  · rw [hst, execFmpStateTimeout]
    rw [if_neg (by omega), if_neg (by simp [h]), if_pos h]
    rfl
  · rw [hdd, execFmpDrainDone, ht]
    exact if_pos (by simp [h, hbz])
  · rw [hsr, execFmpSurpriseRemoval]
    dsimp only
    rw [if_pos h]
    refine ⟨_, rfl, fun hw => ?_⟩
    have hw1 := slotLinkDown_wf p.val hw
    have hw2 : mapWf regDefault (setSlotState (slotLinkDown s p.val) p.val 0).regs = true := setRf_wf _ _ _ _ _ hw1
    have hreg : reg (setFmpCmd (setRf (setRf (setSlotState (slotLinkDown s p.val) p.val 0) (bFmp p.val) 0x110 1 0 0) (bFmp p.val) 0x108 10 8 7) p.val false)
        (bFmp p.val) 0x110 = setFld (setFld (setFld (setFld (reg s (bFmp p.val) 0x110) 55 34 0) 2 2 0) 7 5 0) 1 0 0 := by
      rw [reg_setFmpCmd, reg_setRf_other _ _ _ (setRf_wf _ _ _ _ _ hw2) (rk_bFmp_ne _ (by decide)), reg_setRf _ _ _ _ _ hw2, setSlotState, reg_setRf _ _ _ _ _ hw1, reg_slotLinkDown _ hw]
    refine ⟨?_, ?_, ?_⟩
    · rw [slotState, rf, hreg, fld_setFld_of_apart _ _ _ _ _ _ (by decide), fld_setFld_self _ _ _ _ (by decide)]
      rfl
    · rw [slotPresent, rbit, hreg, flag_setFld _ _ _ _ _ (by decide)]
      rfl
    · rw [slotLinkUp, rbit, hreg, flag_setFld_of_apart _ _ _ _ _ (by decide), flag_setFld_of_apart _ _ _ _ _ (by decide),
        flag_setFld _ _ _ _ _ (by decide)]
      rfl
  · rw [hsr, execFmpSurpriseRemoval]
    exact if_pos h
  · rw [hpf, execFmpPowerFault]
    dsimp only
    rw [if_pos h]
    refine ⟨_, _, rfl, rfl, rfl, fun hw => ?_⟩
    have hw1 := slotLinkDown_wf p.val hw
    have hw2 : mapWf regDefault (slotPowerOff (slotLinkDown s p.val) p.val).regs = true := setRf_wf (bFmp p.val) 0x110 1 1 0 hw1
    have hoff : reg (slotPowerOff (slotLinkDown s p.val) p.val) (bFmp p.val) 0x110
        = setFld (setFld (setFld (reg s (bFmp p.val) 0x110) 55 34 0) 2 2 0) 1 1 0 := by
      refine (reg_setRf (bFmp p.val) 0x110 1 1 0 hw1).trans ?_
      rw [reg_slotLinkDown _ hw]
    have hreg := fun m => reg_slotFail (s := portVanish (slotPowerOff (slotLinkDown s p.val) p.val) p.val) p.val 1 m (by rw [portVanish_regs]; exact hw2)
    simp only [reg_portVanish, hoff] at hreg
    refine ⟨?_, ?_, ?_⟩
    · rw [slotState, rf, hreg, fld_setFld_of_apart _ _ _ _ _ _ (by decide), fld_setFld_self _ _ _ _ (by decide)]
      rfl
    · rw [← hb, rf, hreg, fld_setFld_self _ _ _ _ (by decide)]
      rfl
    · rw [slotLinkUp, rbit, hreg, flag_setFld_of_apart _ _ _ _ _ (by decide), flag_setFld_of_apart _ _ _ _ _ (by decide),
        flag_setFld_of_apart _ _ _ _ _ (by decide), flag_setFld _ _ _ _ _ (by decide)]
      rfl

end Sys2Proof.Claims
end

section
/-! SUPPORT. Contexts after a write of another block's register, and the end of a slip. -/

namespace Sys2Proof.Machine

open Sys2Proof

variable {s : State}

theorem inbound_live (src : Nat) (f : State → State) (hd : dtOn s = true) (hp : peerDeadNow s src = false) : inbound s src f = done (f s) := by
  rw [inbound, hd, hp]
  rfl

theorem inbound_dead (src : Nat) (f : State → State) (hd : dtOn s = true) (hp : peerDeadNow s src = true) : inbound s src f = done (stray s) := by
  rw [inbound, hd, hp]
  rfl

theorem exec_dtRead (s : State) (src : BitVec 8) (tag ca len : Nat) :
    exec (.dtRead src tag ca len) s = inbound s src.toNat fun s => dtRead s src.toNat tag ca len := rfl

theorem exec_dtWrite (s : State) (src : BitVec 8) (tag ca : Nat) (data : List Byte) (poison : Bool) :
    exec (.dtWrite src tag ca data poison) s = inbound s src.toNat fun s => dtWrite s src.toNat tag ca data poison := rfl

theorem exec_dtLookup (s : State) (src : BitVec 8) (tag h : Nat) (q : RemoteTable) (rows : List Nat) :
    exec (.dtLookup src tag h q rows) s = inbound s src.toNat fun s => dtLookup s src.toNat tag h q rows := rfl

theorem exec_dtPlookup (s : State) (src : BitVec 8) (tag h : Nat) (q : RemoteTable) (share : List (Nat × BitVec 32)) (w : Bool) :
    exec (.dtPlookup src tag h q share w) s = inbound s src.toNat fun s => dtPlookup s src.toNat tag h q share w := rfl

theorem exec_dtUpdate (s : State) (src : BitVec 8) (tag h : Nat) (q : RemoteTable) (row : Nat) (u : RowUpdate) :
    exec (.dtUpdate src tag h q row u) s = inbound s src.toNat fun s => dtUpdate s src.toNat tag h q row u := rfl

theorem answer_of_req {tag : Nat} {r : DtReq} (f : DtReq → State) (hr : reqOf s tag = some r) (hrun : running s = true) : answer s tag f = done (f r) := by
  rw [answer, hr]
  exact if_pos hrun

theorem running_of_dtOn (hd : dtOn s = true) : running s = true := by
  rw [dtOn, Bool.and_eq_true] at hd
  exact hd.1

theorem dropReq_untagged (tag : Nat) : ((dropReq s tag).dtOut.all fun x => x.tag ≠ tag) = true := by
  simp [dropReq]

theorem mem_mapSet {α : Type} [DecidableEq α] {d : Nat → α} {m : List (Nat × α)} {k : Nat} {v : α} {e : Nat × α} (h : e ∈ mapSet d m k v) :
    e ∈ m ∨ e = (k, v) := by
  induction m with
  | nil =>
    rw [mapSet] at h
    split at h
    · exact absurd h List.not_mem_nil
    · exact Or.inr (List.mem_singleton.1 h)
  | cons q t ih =>
    obtain ⟨k', v'⟩ := q
    rw [mapSet] at h
    split at h
    · split at h
      · exact Or.inl h
      · exact (List.mem_cons.1 h).symm
    · split at h
      · split at h
        · exact Or.inl (List.mem_cons_of_mem _ h)
        · exact (List.mem_cons.1 h).symm.imp_left (List.mem_cons_of_mem _)
      · rcases List.mem_cons.1 h with rfl | h
        · exact Or.inl List.mem_cons_self
        · exact (ih h).imp_left (List.mem_cons_of_mem _)

/-- A write of a register that is no context's header enables no context. -/
theorem anyCtxEnabled_setRf {b : Blk} {o : Nat} (hi lo v : Nat) (hw : mapWf regDefault s.regs = true)
    (hb : ∀ c, locate (rk b o) ≠ some (.ctx c, 0x8000)) (h : anyCtxEnabled s = false) : anyCtxEnabled (setRf s b o hi lo v) = false := by
  rw [anyCtxEnabled, anyReg, List.any_eq_false] at h ⊢
  intro e he
  have hold : e ∈ s.regs ∨ e = (rk b o, setFld (reg s b o) hi lo v) := mem_mapSet he
  rcases hold with hold | rfl
  · have hkept : ∀ c, blkEn (setRf s b o hi lo v) (.ctx c) = blkEn s (.ctx c) := fun c =>
      rbit_setRf_other hi lo v 0 hw fun hk => hb c (by rw [← hk]; exact locate_rk _ _ (by simp [hdrOff]))
    simp only [hkept]
    exact h e hold
  · dsimp only
    cases hl : locate (rk b o) with
    | none => simp
    | some q =>
      obtain ⟨b', o'⟩ := q
      cases b' with
      | ctx c =>
        have ho : o' ≠ 0x8000 := fun ho => hb c (by rw [hl, ho])
        simp [ho]
      | _ => simp

theorem noteOffset_wf (d : Int) (hw : mapWf regDefault s.regs = true) : mapWf regDefault (noteOffset s d).regs = true := by
  unfold noteOffset
  dsimp only
  split
  · exact setRf_wf _ _ _ _ _ hw
  · exact setRf_wf (s := (freeNat s).2) _ _ _ _ _ hw

theorem noteOffset_anyCtxEnabled (d : Int) (hw : mapWf regDefault s.regs = true) (h : anyCtxEnabled s = false) :
    anyCtxEnabled (noteOffset s d) = false := by
  have hb : ∀ c, locate (rk .dt 0x140) ≠ some (.ctx c, 0x8000) := nofun
  unfold noteOffset
  dsimp only
  split
  · exact anyCtxEnabled_setRf _ _ _ hw hb h
  · exact anyCtxEnabled_setRf (s := (freeNat s).2) _ _ _ hw hb h

/-- How far a beacon's time `t` is from the package's. -/
def beaconDiff (s : State) (t : Word) : Int := (t.toNat : Int) - (s.stc.toNat : Int)

/-- The state with a beacon's difference noted (R404). -/
def beaconNoted (s : State) (d : Int) : State :=
  noteOffset { setRf s .dt 0x140 62 62 0 with beaconHeard := true, lastBeacon := s.stc, offset := some d } d

theorem beaconHeardFrom_eq (t : Word) : beaconHeardFrom s t
    = if !s.beaconHeard && !anyCtxEnabled (beaconNoted s (beaconDiff s t)) then
        setRf (shiftBeats { beaconNoted s (beaconDiff s t) with stc := t, lastBeacon := t, slew := 0, offset := some 0 }
          (t - (beaconNoted s (beaconDiff s t)).stc)) .dt 0x140 63 63 1
      else startSlew (setRf (beaconNoted s (beaconDiff s t)) .dt 0x140 63 63 (boolNat (decide ((beaconDiff s t).natAbs ≤ 2)))) (beaconDiff s t)
        (slewRoom (beaconNoted s (beaconDiff s t))) := rfl

theorem beaconNoted_anyCtxEnabled (d : Int) (hw : mapWf regDefault s.regs = true) (he : anyCtxEnabled s = false) :
    anyCtxEnabled (beaconNoted s d) = false :=
  noteOffset_anyCtxEnabled (s := { setRf s .dt 0x140 62 62 0 with beaconHeard := true, lastBeacon := s.stc, offset := some d }) d
    (setRf_wf _ _ _ _ _ hw) (anyCtxEnabled_setRf _ _ _ hw nofun he)

/-- The first beacon that a member without contexts hears sets its time (R404). -/
theorem beaconHeardFrom_first (t : Word) (hw : mapWf regDefault s.regs = true) (hf : s.beaconHeard = false) (he : anyCtxEnabled s = false) :
    (beaconHeardFrom s t).stc = t ∧ (beaconHeardFrom s t).slew = 0 := by
  rw [beaconHeardFrom_eq, if_pos (by rw [hf, beaconNoted_anyCtxEnabled _ hw he]; rfl)]
  exact ⟨rfl, rfl⟩

theorem fireInjection_state_of_none (b : Blk) (src : Nat) (u a : Option Nat) (h : NoInjection s b) : (fireInjection s b src u a).2 = s := by
  rw [fireInjection_none b src u a h]

theorem slipOf_of_jig {k : Nat} {p : Prog} {j : Jig} (hp : prog? s k = some p) (hj : p.jig = some j) : slipOf s k = j.slip := by
  simp [slipOf, hp, hj]

theorem prog?_updProg {k : Nat} {p : Prog} (f : Prog → Prog) (hp : prog? s k = some p) : prog? (updProg s k f) k = some (f p) := by
  rw [updProg_run _ _ _ p hp, prog?_setProg]

theorem prog?_setRf (b : Blk) (o hi lo v k : Nat) : prog? (setRf s b o hi lo v) k = prog? s k := rfl

theorem prog?_ctxCtr (c : BitVec 12) (i n k : Nat) : prog? (ctxCtr s c i n) k = prog? s k := rfl

theorem prog?_coreCtr (c i n k : Nat) : prog? (coreCtr s c i n) k = prog? s k := rfl

/-- What the end of a slip leaves in the program of its core (R222). -/
theorem prog?_slipEnd {k : Nat} {p : Prog} {j : Jig} {x : Slip} (hp : prog? s k = some p) (hj : p.jig = some j) (hx : j.slip = some x) :
    prog? (slipEnd s k) k = some { p with
      slips := BitVec.ofNat 32 (min (2 ^ 32 - 1) (p.slips.toNat + 1))
      jig := some { j with slip := none, cycle := j.cycle - x.stall } } := by
  have hs : slipOf s k = some x := by rw [slipOf_of_jig hp hj, hx]
  unfold slipEnd
  rw [hs]
  dsimp only
  rw [prog?_updProg _ (p := p) (by rw [prog?_ctxCtr, prog?_coreCtr, prog?_coreCtr, prog?_setRf, prog?_setRf, hp]), hj]
  rfl

end Sys2Proof.Machine
end

section
/-! PROOFS. Requests of peers, heartbeats and beacons, faults of links and regions. -/

namespace Sys2Proof.Claims

open Sys2Proof.Machine

/-- Settles O54. -/
theorem peerRequestsAreServed : Obligations.PeerRequestsAreServed := by
  intro s hd
  have hrun := running_of_dtOn hd
  refine ⟨fun src tag ca len h row q rows share w poison u data => ⟨fun hp => ?_, fun hp => ?_⟩, fun tag r hr =>
    ⟨fun a n data poison hk hn => ?_, fun a d n data poison hk hn => ?_, fun hk => ?_, fun n hk => ?_, fun d hk => ?_, fun hk => ?_,
      fun h pos rows hk hn => ?_, fun bag rows elems missing poison accs hk hac => ⟨fun hn hne => ?_, fun hlt => ?_⟩, ?_, dropReq_untagged tag⟩⟩
  · simp only [exec_dtRead, exec_dtWrite, exec_dtLookup, exec_dtPlookup, exec_dtUpdate, inbound_live _ _ hd hp]
    refine ⟨rfl, rfl, rfl, rfl, rfl, fun h1 h2 hw => ?_,
      fun h1 h2 hw => ?_⟩
    · rw [Machine.dtRead, if_neg (by omega), hw]
    · rw [Machine.dtWrite, if_neg (by simp [h1]; omega), hw]
  · simp only [exec_dtRead, exec_dtWrite, exec_dtLookup, exec_dtPlookup, exec_dtUpdate, inbound_dead _ _ hd hp]
    exact ⟨rfl, rfl, rfl, rfl, rfl⟩
  · refine (answer_of_req _ hr hrun).trans ?_
    rw [hk]
    dsimp only
    rw [if_pos hn]
    rfl
  · refine (answer_of_req _ hr hrun).trans ?_
    rw [hk]
    dsimp only
    rw [if_pos hn]
    rfl
  · refine (answer_of_req _ hr hrun).trans ?_
    rw [hk]
    rfl
  · refine (answer_of_req _ hr hrun).trans ?_
    rw [hk]
    rfl
  · refine (answer_of_req _ hr hrun).trans ?_
    rw [hk]
    rfl
  · refine (answer_of_req _ hr hrun).trans ?_
    rw [if_pos hk]
    rfl
  · refine (answer_of_req _ hr hrun).trans ?_
    rw [hk]
    dsimp only
    rw [if_pos hn]
    rfl
  · refine (answer_of_req _ hr hrun).trans ?_
    rw [hk]
    dsimp only
    rw [← hac, if_neg (by omega)]
    have he : accs.isEmpty = false := by
      rw [List.isEmpty_eq_false_iff, ← List.length_pos_iff, hn, List.length_pos_iff]
      exact hne
    simp only [he]
    rfl
  · refine (answer_of_req _ hr hrun).trans ?_
    rw [hk]
    dsimp only
    rw [← hac, if_pos hlt]
    rfl
  · exact answer_of_req _ hr hrun

/-- Settles O55. -/
theorem heartbeatsAndBeaconsAct : Obligations.HeartbeatsAndBeaconsAct := by
  intro s src hd
  have hhb : ∀ inc, exec (.dtHeartbeatReceived src inc) s = execDtHeartbeatReceived src inc s := fun _ => rfl
  have hpdd : exec (.peerDead src) s = execPeerDead src s := rfl
  have hhs : exec .heartbeatSend s = execHeartbeatSend s := rfl
  have hbs : exec .beaconSend s = execBeaconSend s := rfl
  have hbr : ∀ t, exec (.dtBeaconReceived src t) s = execDtBeaconReceived src t s := fun _ => rfl
  have hse : exec .syncBeaconEdge s = execSyncBeaconEdge s := rfl
  have hbt : exec .beaconTimeout s = execBeaconTimeout s := rfl
  have hlc : ∀ n up, exec (.dtLinkChange n up) s = execDtLinkChange n up s := fun _ _ => rfl
  refine ⟨fun inc => ⟨fun hp => ?_, fun hp hi => ?_, fun hp hi => ?_⟩, fun hal hb => ?_, ?_, fun hm => ⟨?_, fun t => ?_, fun hf d hdd => ?_⟩,
    fun hm hp t => ⟨?_, fun hw hh he => ?_⟩, fun hm h62 hb => ?_, fun n up h0 h1 => ?_⟩
  · have hc : (!(peer s src.toNat).known || aliveBit s src.toNat) = true := by
      rw [peerDeadNow] at hp
      cases hk : (peer s src.toNat).known <;> simp_all
    rw [hhb, execDtHeartbeatReceived, hd]
    exact if_pos hc
  · obtain ⟨hk, ha⟩ := Bool.and_eq_true_iff.1 hp
    rw [hhb, execDtHeartbeatReceived, hd, if_neg (by decide), if_neg (by simp [hk, Bool.not_eq_true' _ ▸ ha]), if_pos hi]
    rfl
  · obtain ⟨hk, ha⟩ := Bool.and_eq_true_iff.1 hp
    rw [hhb, execDtHeartbeatReceived, hd, if_neg (by decide), if_neg (by simp [hk, Bool.not_eq_true' _ ▸ ha]), if_neg hi]
    rfl
  · rw [hpdd, execPeerDead]
    exact if_pos (by rw [hd, hal, decide_eq_true hb]; rfl)
  · rw [hhs]
    exact if_pos hd
  · rw [hbs]
    exact if_pos (by rw [hd, hm]; rfl)
  · rw [hbr, execDtBeaconReceived, hd, hm]
    rfl
  · rw [hse, execSyncBeaconEdge, if_pos (by rw [hd, hm, hf]; rfl), hdd]
    rfl
  · rw [hbr, execDtBeaconReceived, hd, hm, hp]
    rfl
  · exact beaconHeardFrom_first t hw hh he
  · rw [hbt, execBeaconTimeout, if_pos (by rw [hd, hm, h62, decide_eq_true hb]; rfl)]
    rfl
  · rw [hlc, execDtLinkChange, if_pos (by rw [h0, decide_eq_true h1]; rfl)]
    rfl

/-- Settles O56. -/
theorem faultAndRegionEventsAct : Obligations.FaultAndRegionEventsAct := by
  intro s
  have hll : ∀ l, exec (.linkLevelRetry l) s = execLinkLevelRetry l s := fun _ => rfl
  refine ⟨fun hrun => ⟨fun cl => ?_, fun rg => ?_, ?_⟩, rfl, fun n hl => ?_, fun n hl hrl => ?_, fun _ => rfl, rfl, rfl, fun _ => ⟨rfl, rfl⟩,
    fun b src hc => ⟨fun h40 => ?_, fun hsrc hb => ?_⟩, fun k p f rest t hp hpend hin har hgr hinj hlv hrun hpow ht => ?_,
    fun l c n u hrun hni hfind hu => ?_, fun k met p j x t hrun ht hp hj hx => ⟨fun hle => ?_, fun hlt => ?_, fun y hy => ?_⟩⟩
  · rw [hll]
    exact if_pos hrun
  · rw [hll]
    exact if_pos hrun
  · rw [hll]
    exact if_pos hrun
  · rw [hll]
    exact if_pos hl
  · rw [hll]
    exact if_pos (by rw [hl, hrl]; rfl)
  · have hx : exec (.conditionReevent b src) s = execConditionReevent b src s := rfl
    rw [hx]
    exact if_pos (by rw [hc, h40]; rfl)
  · have hx : exec (.conditionSourceEnds b src) s = execConditionSourceEnds b src s := rfl
    rw [hx, execConditionSourceEnds, if_pos (by simp [hsrc, hc, hb])]
    simp only [hb, decide_false, Bool.false_and, Bool.false_eq_true, if_false]
    rfl
  · have hx : exec (.asyncEngineFault k) s = execAsyncEngineFault k s := rfl
    have hlv' : ({ p with pend := rest, leaving := none } : Prog) = { p with pend := rest } := by rw [← hlv]
    rw [hx, execAsyncEngineFault, hp]
    dsimp only
    rw [hpend]
    dsimp only
    rw [if_neg (by simp [hin, har, hgr, hlv, hrun, hpow]), hlv', ← ht, hinj]
    rfl
  · have hx : exec (.strikeSent l) s = execStrikeSent l s := rfl
    rw [hx, execStrikeSent, hfind]
    dsimp only
    rw [if_neg (by simp [hrun]), fireInjection_state_of_none _ _ _ _ hni, ← hu]
    rfl
  · have hxe : exec (.slipEnd ⟨k, met⟩) s = execSlipEnd ⟨k, met⟩ s := rfl
    have hs : slipOf t k.val = some x := by rw [slipOf_of_jig hp hj, hx]
    have hov : slipOver t k.val false = true := by
      rw [slipOver, hs]
      exact decide_eq_true hle
    rw [hxe, execSlipEnd, if_neg (by simp [hrun])]
    dsimp only
    rw [← ht, if_pos hov]
    rfl
  · have hxe : exec (.slipEnd ⟨k, met⟩) s = execSlipEnd ⟨k, met⟩ s := rfl
    have hs : slipOf t k.val = some x := by rw [slipOf_of_jig hp hj, hx]
    have hov : slipOver t k.val false = false := by
      rw [slipOver, hs]
      exact decide_eq_false (Nat.not_le.2 hlt)
    rw [hxe, execSlipEnd, if_neg (by simp [hrun])]
    dsimp only
    rw [← ht, hov, hs]
    rfl
  · rw [prog?_slipEnd hp hj hx, Option.some.injEq] at hy
    subst hy
    refine ⟨?_, rfl⟩
    dsimp only
    rw [BitVec.toNat_ofNat, Nat.mod_eq_of_lt (by omega)]

end Sys2Proof.Claims
end

section
/-! PROOFS. A statement about translation that fails. -/

namespace Sys2Proof.Claims

open Sys2Proof.Machine

/-- The package in RUN, with a read of the host outstanding, and a fault event of the front end raised whose reaction is basic service mode at
every level (R414, R422). -/
def bsmPending : State :=
  { setRf openPackage .gfe 0x58 9 0 0x3FF with
    hreqs := [{ line := 5, kind := 2, core := 0, off := 0, data := [], poison := false }]
    raised := [{ block := .gfe, src := 0, unit := none, addr := none, tested := false }] }

/-- The same with one ATS invalidation request noted. -/
def bsmPendingAsked : State := { invalidate bsmPending (atsInvMatch bsmPending none) with atsInv := bsmPending.atsInv ++ [none] }

theorem bsmPending_running : running bsmPending = true := by decide +kernel

theorem bsmPendingAsked_waits : running bsmPendingAsked = true ∧ oldAccessesDone bsmPendingAsked = false := by decide +kernel

/-- Basic service mode forgets the invalidation requests of the compute dies. -/
theorem bsmPending_forgets : (stateAfter (exec (.atsInvalidationRequest none) bsmPending)).atsInv = [] := by decide +kernel

/-- Refutes O43: an ATS invalidation request that waits for older accesses is forgotten where a fault event that is taken at the end of the
same command puts the package into basic service mode. -/
theorem not_translationWorkCompletes : ¬ Obligations.TranslationWorkCompletes := by
  intro h
  obtain ⟨-, -, -, -, -, -, -, hreq, -⟩ := h bsmPending bsmPending_running
  obtain ⟨hrun, hold⟩ := bsmPendingAsked_waits
  obtain ⟨t, ht, hinv⟩ := (hreq none bsmPendingAsked rfl hrun).2 hold
  have hgone := bsmPending_forgets
  rw [ht, stateAfter, hinv] at hgone
  exact absurd hgone (by decide)

end Sys2Proof.Claims
end

section
/-! SUPPORT. Where no access to local memory waits; what a task starts with (R333). -/

namespace Sys2Proof.Machine

open Sys2Proof

variable {s : State}

theorem lineBusy_of_quiet (hq : Quiet s) (host : Bool) (k : Nat) : lineBusy s host k = false := by
  obtain ⟨ht, -, -⟩ := hq
  rw [lineBusy, ht]
  rfl

theorem hostSnoopOk_of_quiet (hq : Quiet s) (k : Nat) (own : Bool) : hostSnoopOk s k own = true := by
  obtain ⟨-, hb, -⟩ := hq
  rw [hostSnoopOk, hb k]
  rfl

theorem gfeLines_of_quiet (hq : Quiet s) (a n : Nat) : gfeLines s a n = [] := by
  rw [gfeLines, List.filter_eq_nil_iff]
  intro k _
  rw [lineBusy_of_quiet hq, hostSnoopOk_of_quiet hq]
  decide

theorem gfeReady_of_quiet (hq : Quiet s) (a n : Nat) : gfeReady s a n = true := by
  rw [gfeReady, List.all_eq_true]
  intro q _
  rw [lineBusy_of_quiet hq, hostSnoopOk_of_quiet hq]
  rfl

theorem segLines_of_quiet (hq : Quiet s) (c : BitVec 12) (a n : Nat) : segLines s c a n = [] := by
  unfold segLines
  split
  · rfl
  · split
    · rfl
    · split
      · rfl
      · rw [List.flatMap_eq_nil_iff]
        intro p _
        exact gfeLines_of_quiet hq _ _

theorem setSreg_rest (p : Prog) (n : BitVec 6) (w : Word) : ∃ m, setSreg p n w = { p with s := m } := by
  unfold setSreg
  split
  · exact ⟨p.s, rfl⟩
  · exact ⟨_, rfl⟩

theorem setSreg_wf (p : Prog) (n : BitVec 6) (w : Word) (hw : mapWf (fun _ => 0) p.s = true) : mapWf (fun _ => 0) (setSreg p n w).s = true := by
  unfold setSreg
  split
  · exact hw
  · exact mapWf_mapSet _ _ _ _ hw

theorem sreg_setSreg (p : Prog) (n r : BitVec 6) (w : Word) (hw : mapWf (fun _ => 0) p.s = true) (hn : n ≠ 0) :
    sreg (setSreg p n w) r = if r = n then w else sreg p r := by
  rw [setSreg, if_neg hn]
  by_cases hr0 : r = 0
  · rw [hr0, if_neg (Ne.symm hn)]
    rfl
  · rw [sreg, if_neg hr0]
    by_cases hr : r = n
    · rw [if_pos hr, hr]
      exact mapGet_mapSet_self _ _ 0 _ _ hw
    · rw [if_neg hr, sreg, if_neg hr0]
      exact mapGet_mapSet_other _ _ 0 _ _ _ hw fun h => hr (BitVec.eq_of_toNat_eq h)

/-- The registers of a program after its first arguments are loaded into s1, s2 and so on. -/
def loadArgs (args : List Word) (p : Prog) (n : Nat) : Prog := (List.range n).foldl (fun p i => setSreg p (BitVec.ofNat 6 (i + 1)) (wordAt args i)) p

theorem loadArgs_succ (args : List Word) (p : Prog) (n : Nat) : loadArgs args p (n + 1) = setSreg (loadArgs args p n) (BitVec.ofNat 6 (n + 1)) (wordAt args n) := by
  rw [loadArgs, List.range_succ, List.foldl_append]
  rfl

theorem loadArgs_rest (args : List Word) (p : Prog) (n : Nat) : ∃ m, loadArgs args p n = { p with s := m } := by
  induction n with
  | zero => exact ⟨p.s, rfl⟩
  | succ n ih =>
    obtain ⟨m, hm⟩ := ih
    rw [loadArgs_succ, hm]
    exact setSreg_rest _ _ _

theorem sreg_loadArgs (args : List Word) (p : Prog) (hw : mapWf (fun _ => 0) p.s = true) {n : Nat} (hn : n ≤ 8) :
    mapWf (fun _ => 0) (loadArgs args p n).s = true
      ∧ ∀ r : BitVec 6, sreg (loadArgs args p n) r = if 1 ≤ r.toNat ∧ r.toNat ≤ n then wordAt args (r.toNat - 1) else sreg p r := by
  induction n with
  | zero => exact ⟨hw, fun r => by rw [if_neg (by omega)]; rfl⟩
  | succ n ih =>
    obtain ⟨hw', hr⟩ := ih (by omega)
    have hnat : (BitVec.ofNat 6 (n + 1)).toNat = n + 1 := by
      rw [BitVec.toNat_ofNat, Nat.mod_eq_of_lt (by omega)]
    have hne : BitVec.ofNat 6 (n + 1) ≠ 0 := by
      intro h0
      rw [h0] at hnat
      simp at hnat
    rw [loadArgs_succ]
    refine ⟨setSreg_wf _ _ _ hw', fun r => ?_⟩
    rw [sreg_setSreg _ _ _ _ hw' hne, hr]
    by_cases he : r = BitVec.ofNat 6 (n + 1)
    · rw [if_pos he, if_pos (by rw [he, hnat]; omega), he, hnat]
      rfl
    · have hne' : r.toNat ≠ n + 1 := fun h => he (BitVec.eq_of_toNat_eq (h.trans hnat.symm))
      rw [if_neg he]
      by_cases hin : 1 ≤ r.toNat ∧ r.toNat ≤ n
      · rw [if_pos hin, if_pos (by omega)]
      · rw [if_neg hin, if_neg (by omega)]

/-- Credits given before a program starts change its counters and its overflow flag alone. -/
theorem addCredit_rest (p : Prog) (i n : Nat) : ∃ m o, addCredit p i n = { p with c := m, covf := o } := by
  unfold addCredit
  dsimp only
  split
  · exact ⟨_, p.covf, rfl⟩
  · exact ⟨_, _, rfl⟩

theorem addCredits_rest {α : Type} (f : α → Nat × Nat) (l : List α) (p : Prog) :
    ∃ m o, l.foldl (fun p x => addCredit p (f x).1 (f x).2) p = { p with c := m, covf := o } := by
  induction l generalizing p with
  | nil => exact ⟨p.c, p.covf, rfl⟩
  | cons x t ih =>
    obtain ⟨m, o, h⟩ := addCredit_rest p (f x).1 (f x).2
    obtain ⟨m', o', h'⟩ := ih { p with c := m, covf := o }
    exact ⟨m', o', by rw [List.foldl_cons, h, h']⟩

theorem ringAt_cores (b : Blk) (base pos code ctx : Nat) (d : Word) : (ringAt s b base pos code ctx d).cores = s.cores := by
  unfold ringAt; split <;> rfl

theorem ringAt_raised (b : Blk) (base pos code ctx : Nat) (d : Word) : (ringAt s b base pos code ctx d).raised = s.raised := by
  unfold ringAt; split <;> rfl

theorem traceRec_cores (c ty ctx : Nat) (a b : Word) : (traceRec s c ty ctx a b).cores = s.cores := by
  unfold traceRec fifoPush; split
  · dsimp only; split <;> rfl
  · rfl

theorem traceRec_raised (c ty ctx : Nat) (a b : Word) : (traceRec s c ty ctx a b).raised = s.raised := by
  unfold traceRec fifoPush; split
  · dsimp only; split <;> rfl
  · rfl

theorem prog?_coreRing (c code ctx : Nat) (d : Word) (k : Nat) : prog? (coreRing s c code ctx d) k = prog? s k := by
  rw [prog?, core, coreRing, ringAt_cores, prog?, core]

theorem prog?_traceRec (c ty ctx : Nat) (a b : Word) (k : Nat) : prog? (traceRec s c ty ctx a b) k = prog? s k := by
  rw [prog?, core, traceRec_cores, prog?, core]

/-- The program that a task's part starts with at core `c` (R333). -/
def startProg (t : Task) (c : Nat) : Prog :=
  (t.early.filter fun x => x.1 = c).foldl (fun p x => addCredit p x.2.1 x.2.2)
    (loadArgs (t.args.getD (idxIn t.cores c) [])
      (progInit t.id t.ctx (BitVec.ofNat 32 (tTaskId t.words)) (BitVec.ofNat 52 (tEntry t.words))) 8)

theorem startProg_fields (t : Task) (c : Nat) : (startProg t c).pc = BitVec.ofNat 52 (tEntry t.words) ∧ (startProg t c).ctx = t.ctx
    ∧ (startProg t c).injig = false ∧ (startProg t c).pend = []
    ∧ ∀ r : BitVec 6, sreg (startProg t c) r = if 1 ≤ r.toNat ∧ r.toNat ≤ 8 then wordAt (t.args.getD (idxIn t.cores c) []) (r.toNat - 1) else 0 := by
  obtain ⟨m, o, h⟩ := addCredits_rest (fun x : Nat × Nat × Nat => x.2) (t.early.filter fun x => x.1 = c)
    (loadArgs (t.args.getD (idxIn t.cores c) []) (progInit t.id t.ctx (BitVec.ofNat 32 (tTaskId t.words)) (BitVec.ofNat 52 (tEntry t.words))) 8)
  have hs : startProg t c = _ := h
  obtain ⟨m', h'⟩ := loadArgs_rest (t.args.getD (idxIn t.cores c) [])
    (progInit t.id t.ctx (BitVec.ofNat 32 (tTaskId t.words)) (BitVec.ofNat 52 (tEntry t.words))) 8
  have hr := (sreg_loadArgs (t.args.getD (idxIn t.cores c) [])
    (progInit t.id t.ctx (BitVec.ofNat 32 (tTaskId t.words)) (BitVec.ofNat 52 (tEntry t.words))) rfl (le_refl 8)).2
  refine ⟨by rw [hs, h']; rfl, by rw [hs, h']; rfl, by rw [hs, h']; rfl, by rw [hs, h']; rfl, fun r => ?_⟩
  have h0 : sreg (progInit t.id t.ctx (BitVec.ofNat 32 (tTaskId t.words)) (BitVec.ofNat 52 (tEntry t.words))) r = 0 := by
    unfold sreg
    split <;> rfl
  rw [← h0, ← hr r, hs]
  generalize loadArgs (t.args.getD (idxIn t.cores c) []) _ 8 = q
  rfl

/-- What the start of a task's part leaves: its program at the core, no new fault event, and memory as it was. -/
theorem startPart_leaves (t : Task) (c : Nat) (hn : NoInjection s (bCluster (clusterOf c))) :
    prog? (startPart s t c) c = some (startProg t c) ∧ (startPart s t c).raised = s.raised ∧ (startPart s t c).mem = s.mem := by
  unfold startPart
  dsimp only
  rw [fireInjection_none _ _ _ _ hn]
  refine ⟨?_, ?_, ?_⟩
  · rw [prog?_coreRing, prog?_traceRec]
    exact prog?_setCore_run _ c _ (startProg t c) rfl
  · rw [coreRing, ringAt_raised, traceRec_raised]
    rfl
  · rw [coreRing_mem, traceRec_mem]
    rfl

theorem prog?_settleIrq (c : Nat) : prog? (settleIrq s) c = prog? s c := by
  rw [prog?, core, settleIrq_cores, prog?, core]

end Sys2Proof.Machine
end

section
/-! PROOFS. Tasks on their cores. -/

namespace Sys2Proof.Claims

open Sys2Proof.Machine

/-- Settles O45. -/
theorem tasksStartAndSwitch : Obligations.TasksStartAndSwitch := by
  refine ⟨fun s => ⟨fun c p cores hr hq hcap hlive hlines hpl => ?_, fun k task t hrun hen ht hpl hst hpr hpow hstale hinj hraised => ?_,
    fun k task t ht hpl hpow => ?_⟩, fun s k p hrun hq => ⟨fun hp hy hinj har hlv hqt => ⟨fun slot ho hf => ?_, fun hf => ?_⟩,
    fun task slot t u v f hp ht hsv hpl hcan => ⟨fun hpow => ?_, fun hpow hs1 hs2 hrd hf hu hv => ?_⟩⟩⟩
  · have hx : exec (.taskPlace c) s = execTaskPlace c s := rfl
    rw [hx, execTaskPlace, hcap]
    dsimp only
    rw [if_neg (by rw [hr, decide_eq_false (by omega), decide_eq_false (by omega)]; decide), hpl]
    have hls : ((List.range cores.length).flatMap fun r => segLines s c (tArgs p.words + (if tArgStep p.words then 64 * r else 0)) 64) = [] :=
      List.flatMap_eq_nil_iff.2 fun r _ => segLines_of_quiet hq _ _ _
    dsimp only
    rw [hls]
    rfl
  · have hx : exec (.taskCoreStart k task) s = execTaskCoreStart k task s := rfl
    obtain ⟨hprog, hra, hmem⟩ := startPart_leaves (s := s) t k.val hinj
    obtain ⟨hpc, hctx, hj, hpend, hsreg⟩ := startProg_fields t k.val
    have hpr' : (Machine.core s k.val).prog.isNone = true := by
      rw [Option.isNone_iff_eq_none]
      exact hpr
    rw [hx, execTaskCoreStart, ht]
    dsimp only
    rw [if_pos (by rw [hrun, hen, hpl, hst, hpr', decide_eq_true hpow, hstale]; rfl), done, settle_of_quiet _ (hra.trans hraised)]
    exact ⟨_, startProg t k.val, rfl, by rw [prog?_settleIrq, hprog], hpc, hctx, hj, hpend, hsreg, by rw [settleIrq_mem, hmem]⟩
  · have hx : exec (.taskCoreStart k task) s = execTaskCoreStart k task s := rfl
    rw [hx, execTaskCoreStart, ht]
    dsimp only
    rw [if_neg (by simp [hpow]), if_pos hpl]
    rfl
  · have hx : exec (.taskSwitchOut k) s = execTaskSwitchOut k s := rfl
    rw [hx, execTaskSwitchOut, hp]
    dsimp only
    rw [if_neg (by simp [hrun, hy, hinj, har, hlv, hqt]), ho, hf]
    dsimp only
    rw [if_pos (List.all_eq_true.2 fun a _ => gfeReady_of_quiet hq a 64)]
    rfl
  · have hx : exec (.taskSwitchOut k) s = execTaskSwitchOut k s := rfl
    rw [hx, execTaskSwitchOut, hp]
    dsimp only
    rw [if_neg (by simp [hrun, hy, hinj, har, hlv, hqt]), hf]
    cases otherReady s k.val p.task <;> rfl
  · have hx : exec (.taskSwitchIn k task) s = execTaskSwitchIn k task s := rfl
    rw [hx, execTaskSwitchIn, ht]
    dsimp only
    rw [hsv]
    dsimp only
    rw [if_neg (by simp [hrun, hp, hpl, hcan]), if_pos hpow]
    rfl
  · have hx : exec (.taskSwitchIn k task) s = execTaskSwitchIn k task s := rfl
    have hls : ((slotLines s p slot).any fun a => !(gfeLines s a 64).isEmpty) = false := by
      rw [List.any_eq_false]
      intro a _
      rw [gfeLines_of_quiet hq]
      decide
    rw [hx, execTaskSwitchIn, ht]
    dsimp only
    rw [hsv]
    dsimp only
    rw [if_neg (by simp [hrun, hp, hpl, hcan]), if_neg (not_not.2 hpow), hls, if_neg Bool.false_ne_true, hs1, hs2, hrd, ← hf, ← hu, ← hv]
    exact ⟨rfl, by rw [hu, prog?_setProg]⟩

end Sys2Proof.Claims
end

section
/-! SUPPORT. The cause and phase register, zeroed ranges, and registers of power and quench. -/

namespace Sys2Proof.Machine

open Sys2Proof

variable {s : State}

/-- A byte of a range that has been zeroed reads 0. -/
theorem memByte_zeroRange_self {base size a : Nat} (h1 : base ≤ a) (h2 : a < base + size) : memByte (zeroRange s base size) a = 0 := by
  have hm : ∀ l : List Host.Cell, mapGet memDefault (l.filter fun e => !(decide (base ≤ e.1) && decide (e.1 < base + size))) a = 0 := by
    intro l
    induction l with
    | nil => rfl
    | cons e t ih =>
      obtain ⟨k, v⟩ := e
      by_cases hk : base ≤ k ∧ k < base + size
      · rw [List.filter_cons_of_neg (by simp [hk])]
        exact ih
      · have hne : a ≠ k := by rintro rfl; exact hk ⟨h1, h2⟩
        rw [List.filter_cons_of_pos (by simp; omega), mapGet, if_neg hne]
        split
        · rfl
        · exact ih
  exact hm s.mem

theorem regDefault_phase : regDefault (rk .gfe 0x3000) = 1 := by decide

theorem phase_setPhase {p : Nat} (h0 : p ≠ 0) (hp : p < 4) : phase (setPhase s p) = p := by
  have hf : fld (setFld (reg s .gfe 0x3000) 9 8 p) 9 8 = p := by
    rw [fld_setFld_self _ _ _ _ (by decide)]
    exact Nat.mod_eq_of_lt hp
  have hne : setFld (reg s .gfe 0x3000) 9 8 p ≠ regDefault (rk .gfe 0x3000) := by
    intro h
    rw [h, regDefault_phase] at hf
    exact h0 (hf.symm.trans (by decide))
  rw [phase, rf, setPhase, setRf]
  rw [show reg (setReg s .gfe 0x3000 (setFld (reg s .gfe 0x3000) 9 8 p)) .gfe 0x3000 = _ from mapGet_mapSet_self_of_ne regDefault s.regs _ _ hne, hf]

/-- A new phase that is not INIT leaves every other register. -/
theorem reg_setPhase_other {p : Nat} (h0 : p ≠ 0) (hp : p < 4) {b : Blk} {o : Nat} (hk : rk b o ≠ rk .gfe 0x3000) : reg (setPhase s p) b o = reg s b o := by
  have hne : setFld (reg s .gfe 0x3000) 9 8 p ≠ regDefault (rk .gfe 0x3000) := by
    intro h
    have hf : fld (setFld (reg s .gfe 0x3000) 9 8 p) 9 8 = p := by
      rw [fld_setFld_self _ _ _ _ (by decide)]
      exact Nat.mod_eq_of_lt hp
    rw [h, regDefault_phase] at hf
    exact h0 (hf.symm.trans (by decide))
  exact mapGet_mapSet_other_of_ne regDefault s.regs _ _ _ hne hk

/-- A raised bit of a status register reads 1. -/
theorem rbit_raise_self {b : Blk} {st bit : Nat} (hw : mapWf regDefault s.regs = true) (hb : bit < 64) :
    rbit (raise s b st bit) b st bit = true := by
  have hk : rk b st ≠ rk b (st + 8) := by rw [rk, rk]; omega
  rw [rbit, raise, raiseAt, reg_setRf_other _ _ _ (setReg_wf _ _ _ _ hw) hk, reg_setReg _ _ _ _ hw]
  have hp : flag (place bit bit 1) bit = true := by
    rw [flag_place _ _ _ _ hb]
    simp
  have ho : flag (reg s b st ||| place bit bit 1) bit = (flag (reg s b st) bit || flag (place bit bit 1) bit) := by
    simp [flag]
  rw [ho, hp, Bool.or_true]

theorem reg_raise_apart {b b' : Blk} {st bit o : Nat} (hw : mapWf regDefault s.regs = true) (h1 : rk b' o ≠ rk b st) (h2 : rk b' o ≠ rk b (st + 8)) :
    reg (raise s b st bit) b' o = reg s b' o := by
  rw [raise, raiseAt, reg_setRf_other _ _ _ (setReg_wf _ _ _ _ hw) h2, reg_setReg_other _ _ _ _ _ _ hw h1]

theorem phase_bringRun : phase (bringRun s) = 2 := phase_setPhase (by decide) (by decide)

/-- A rail's reading sets the dip request where the rail is below 665 mV (R428). -/
theorem rbit_railReading (d : Nat) (mv : BitVec 16) (hw : mapWf regDefault s.regs = true) :
    rbit (railReading s d mv) .pwr 0x108 0 = (rbit s .pwr 0x108 0 || decide (mv.toNat < 665)) := by
  have hw1 : mapWf regDefault (setRail s d mv).regs = true := setRf_wf (s := { s with power := { s.power with railMv := mapSet (fun _ => 700) s.power.railMv d mv } }) _ _ _ _ _ hw
  have h1 : rbit (setRail s d mv) .pwr 0x108 0 = rbit s .pwr 0x108 0 :=
    rbit_setRf_of_apart (s := { s with power := { s.power with railMv := mapSet (fun _ => 700) s.power.railMv d mv } }) .pwr 0x108 _ hw (by decide)
  have hread : ∃ t : State, t.regs = (setRail s d mv).regs ∧ railReading s d mv = if mv.toNat < 665 ∧ !rbit t .pwr 0x108 0 then
      raiseFault (raise (setRf (setHalfReq t 0 true) .pwr 0x108 47 32 (min 65535 (rf (setHalfReq t 0 true) .pwr 0x108 47 32 + 1))) .pwr 0x140 1) .pwr 0 none none
    else t := by
    refine ⟨_, ?_, rfl⟩
    rfl
  obtain ⟨t, ht, hr⟩ := hread
  have hwt : mapWf regDefault t.regs = true := by rw [ht, hw1]
  have hbt : rbit t .pwr 0x108 0 = rbit s .pwr 0x108 0 := by rw [← h1, rbit, reg, ht, rbit, reg]
  rw [hr, hbt]
  by_cases hlow : mv.toNat < 665
  · cases hb : rbit s .pwr 0x108 0 with
    | true =>
      rw [if_neg (by simp), hbt, hb]
      rfl
    | false =>
      rw [if_pos (by simp [hlow]), decide_eq_true hlow, Bool.or_true]
      have hw2 : mapWf regDefault (setRf t .pwr 0x108 0 0 (boolNat true)).regs = true := setRf_wf _ _ _ _ _ hwt
      have hw3 := setRf_wf .pwr 0x108 3 3 (boolNat (rootHalf (setRf t .pwr 0x108 0 0 (boolNat true)))) hw2
      have h2 : rbit (setHalfReq t 0 true) .pwr 0x108 0 = true := by
        refine (rbit_setRf_of_apart .pwr 0x108 _ hw2 (by decide)).trans ?_
        rw [rbit_setRf_self _ _ _ hwt (by decide) (by decide) (by decide)]
        rfl
      have hw4 : mapWf regDefault (setHalfReq t 0 true).regs = true := hw3
      have h3 := fun v => rbit_setRf_of_apart (s := setHalfReq t 0 true) .pwr 0x108 v (hi := 47) (lo := 32) (i := 0) hw4 (by decide)
      change rbit (raise _ .pwr 0x140 1) .pwr 0x108 0 = true
      rw [rbit, reg_raise_apart (setRf_wf _ _ _ _ _ hw4) (by decide) (by decide)]
      exact (h3 _).trans h2
  · rw [if_neg (by simp [hlow]), hbt, decide_eq_false hlow, Bool.or_false]

theorem fld_place_quenched : ∀ n, n < 4 → fld (place 59 56 (4 + n)) 59 58 = 1 ∧ fld (place 59 56 (4 + n)) 57 56 = n := by decide

theorem fld_quenched (w : Word) {n : Nat} (hn : n < 4) :
    fld (setFld w 59 56 (4 + n)) 59 58 = 1 ∧ fld (setFld w 59 56 (4 + n)) 57 56 = n := by
  have hbit : ∀ i, 56 ≤ i → i ≤ 59 → flag (setFld w 59 56 (4 + n)) i = flag (place 59 56 (4 + n)) i := fun i h1 h2 => by
    rw [flag_setFld _ _ _ _ _ (by omega), if_pos ⟨h1, h2⟩, flag_place _ _ _ _ (by omega)]
    simp [h1, h2]
  rw [fld_congr _ (place 59 56 (4 + n)) 59 58 fun i h1 h2 _ => hbit i (by omega) h2,
    fld_congr _ (place 59 56 (4 + n)) 57 56 fun i h1 h2 _ => hbit i h1 (by omega)]
  exact fld_place_quenched n hn

/-- What a trigger of a quench leaves (R450). -/
theorem quenchTrigger_fields {n : Nat} (h0 : rf s .dbg 0x200 59 58 = 0) (hn : n < 4) (hw : mapWf regDefault s.regs = true) :
    qState (quenchTrigger s n) = 1 ∧ rf (quenchTrigger s n) .dbg 0x200 57 56 = n ∧ reg (quenchTrigger s n) .dbg 0x210 = s.stc := by
  have ht : ∃ t : State, mapWf regDefault t.regs = true
      ∧ quenchTrigger s n = setReg (setRf t .dbg 0x200 59 56 (4 + n)) .dbg 0x210 s.stc := by
    refine ⟨_, ?_, if_pos h0⟩
    change mapWf regDefault (if n = 3 then setRf s .dbg 0x200 60 60 0 else s).regs = true
    split
    · exact setRf_wf _ _ _ _ _ hw
    · exact hw
  obtain ⟨t, hwt, ht⟩ := ht
  have hw' := setRf_wf .dbg 0x200 59 56 (4 + n) hwt
  obtain ⟨h1, h2⟩ := fld_quenched (reg t .dbg 0x200) hn
  rw [qState, rf, rf, ht, reg_setReg_other _ _ _ _ _ _ hw' (by decide), reg_setRf _ _ _ _ _ hwt, reg_setReg _ _ _ _ hw']
  exact ⟨h1, h2, rfl⟩

/-- The number of a trace FIFO: a cluster's, or the one of the front end. -/
def fifoNo (f : Option ClusterIx) : Nat := match f with
  | some c => c.val
  | none => 48

theorem traceFifoDrain_of_record (f : Option ClusterIx) {n a : Nat} {r : List Word} {rest : List (List Word)} (hn : n = fifoNo f)
    (hf : (fifo s n).recs = r :: rest) (ha : a = traceSlot s) (hrun : running s = true) (hlo : 10 ≤ traceLog2 s) (hhi : traceLog2 s ≤ 30)
    (hmem : a + 32 ≤ 12 * stackSize) (hni : NoInjection s .dbg) :
    execTraceFifoDrain f s = done (if gfeReady s a 32 then kerf (traceWrite (setFifo s n { fifo s n with recs := rest }) r) n else gfeSnoop s a 32) := by
  have hx : execTraceFifoDrain f s = match (fifo s (fifoNo f)).recs with
      | [] => idle s
      | r :: rest =>
        if !running s || decide (traceLog2 s < 10) || decide (30 < traceLog2 s) || decide (12 * stackSize < traceSlot s + 32) then idle s
        else if !gfeReady s (traceSlot s) 32 then done (gfeSnoop s (traceSlot s) 32)
        else
          let q := fireInjection (setFifo s (fifoNo f) { fifo s (fifoNo f) with recs := rest }) .dbg 0 none none
          done (if q.1 then kerf (fifoDropped q.2 (fifoNo f)) (fifoNo f) else kerf (traceWrite q.2 r) (fifoNo f)) := by
    cases f <;> rfl
  rw [hx, ← hn, hf]
  dsimp only
  rw [← ha, if_neg (by rw [hrun, decide_eq_false (by omega), decide_eq_false (by omega), decide_eq_false (by omega)]; decide)]
  have hni' : NoInjection (setFifo s n { fifo s n with recs := rest }) .dbg := hni
  rw [fireInjection_none _ _ _ _ hni']
  cases gfeReady s a 32 <;> rfl

theorem tpause_le : tpause s ≤ 105 := by
  unfold tpause
  omega

theorem rf_withPower (x : Power) (b : Blk) (o hi lo : Nat) : rf { s with power := x } b o hi lo = rf s b o hi lo := rfl

/-! What a temperature leads to (R434): an excursion of its cluster, a trip, both or neither. -/

theorem heatBegins_cool {c t : Nat} (u : State) (ht : t ≤ 120 ∨ condHolds u .pwr 3 = true) (he : (cluster u c).excursion = true) :
    heatBegins u (some c) t = u := by
  have htr : (decide (120 < t) && !condHolds u .pwr 3) = false := by
    rcases ht with ht | ht
    · rw [decide_eq_false (by omega)]; rfl
    · rw [ht, Bool.not_true, Bool.and_false]
  unfold heatBegins
  dsimp only [Option.map_some, Option.getD_some]
  rw [htr, he]
  rfl

theorem heatBegins_excursion {c t : Nat} (u : State) (ht : t ≤ 120 ∨ condHolds u .pwr 3 = true) (he : (cluster u c).excursion = false) :
    heatBegins u (some c) t = raiseFault (setCluster (raiseAt u .pwr 0x140 0x148 (place 4 4 1)) c
      { cluster u c with excursion := true, pauseFrame := none }) .pwr 1 none none := by
  have htr : (decide (120 < t) && !condHolds u .pwr 3) = false := by
    rcases ht with ht | ht
    · rw [decide_eq_false (by omega)]; rfl
    · rw [ht, Bool.not_true, Bool.and_false]
  have hpl : place 4 4 (boolNat true) ||| place 5 5 (boolNat false) = place 4 4 1 := by decide
  unfold heatBegins
  dsimp only [Option.map_some, Option.getD_some]
  rw [htr, he, Bool.not_false, hpl]
  rfl

theorem heatBegins_trip {c t : Nat} (u : State) (ht : 120 < t) (hc : condHolds u .pwr 3 = false) (he : (cluster u c).excursion = true) :
    heatBegins u (some c) t = condStart (raiseAt u .pwr 0x140 0x148 (place 5 5 1)) .pwr 3 := by
  have hpl : place 4 4 (boolNat false) ||| place 5 5 (boolNat true) = place 5 5 1 := by decide
  unfold heatBegins
  dsimp only [Option.map_some, Option.getD_some]
  rw [decide_eq_true ht, hc, he, Bool.not_true, Bool.not_false, Bool.and_self, hpl]
  rfl

theorem heatBegins_both {c t : Nat} (u : State) (ht : 120 < t) (hc : condHolds u .pwr 3 = false) (he : (cluster u c).excursion = false) :
    heatBegins u (some c) t = condStart (raiseFault (setCluster (raiseAt u .pwr 0x140 0x148 (place 4 4 1 ||| place 5 5 1)) c
      { cluster u c with excursion := true, pauseFrame := none }) .pwr 1 none none) .pwr 3 := by
  unfold heatBegins
  dsimp only [Option.map_some, Option.getD_some]
  rw [decide_eq_true ht, hc, he]
  rfl

theorem heatBegins_none {t : Nat} (u : State) (ht : 120 < t) :
    heatBegins u none t = if condHolds u .pwr 3 then u else condStart (raiseAt u .pwr 0x140 0x148 (place 5 5 1)) .pwr 3 := by
  have hpl : place 4 4 (boolNat false) ||| place 5 5 (boolNat true) = place 5 5 1 := by decide
  unfold heatBegins
  dsimp only [Option.map_none, Option.getD_none]
  rw [decide_eq_true ht]
  cases condHolds u .pwr 3 with
  | true => rfl
  | false =>
    rw [Bool.not_false, Bool.and_self, hpl]
    rfl

end Sys2Proof.Machine
end

section
/-! PROOFS. Bring-up, power and the debug unit. -/

namespace Sys2Proof.Claims

open Sys2Proof.Machine

/-- Settles O50. -/
theorem bringUpGoesInOrder : Obligations.BringUpGoesInOrder := by
  intro s
  have hpll : exec .bringupPllLock s = execBringupPllLock s := rfl
  have hcfg : exec .bringupConfigReady s = execBringupConfigReady s := rfl
  have hbsm : exec .bringupBsmReady s = execBringupBsmReady s := rfl
  have hmc : exec .mcLoadDone s = execMcLoadDone s := rfl
  have hrun : exec .bringupRun s = execBringupRun s := rfl
  refine ⟨fun h0 hp => ?_, fun hp hc => ?_, fun h0 hp hc => ?_, fun i t hb hl hi ht => ?_, fun hb hl hn => ?_, fun hb hl => ?_,
    fun h1 hi hb => ⟨?_, phase_bringRun, rfl⟩⟩
  · rw [hpll]
    exact if_pos (by rw [decide_eq_true h0, hp]; rfl)
  · rw [hcfg]
    exact if_pos (by rw [hp, hc]; rfl)
  · rw [hbsm, execBringupBsmReady, if_pos (by rw [decide_eq_true h0, hp, hc]; rfl)]
    refine ⟨_, rfl, phase_setPhase (by decide) (by decide), fun a h1 h2 => ?_, fun hw => ?_⟩
    · exact memByte_zeroRange_self (s := s) h1 h2
    · rw [rbit, reg_setPhase_other (by decide) (by decide) (by decide)]
      exact rbit_raise_self (s := zeroDrawers s) hw (by decide)
  · subst ht
    rw [hmc, execMcLoadDone, if_neg (by simp [hb]), if_neg (by simp [hl]), hi]
    dsimp only [Option.map_some, Option.getD_some]
    split
    · next hc =>
      rw [hc]
      rfl
    · rfl
  · rw [hmc, execMcLoadDone, if_neg (by simp [hb]), if_neg (by simp [hl]), hn]
    rfl
  · rw [hmc, execMcLoadDone, if_neg (by simp [hb]), if_pos (by simpa using hl)]
    rfl
  · rw [hrun]
    exact if_pos (by rw [decide_eq_true h1, hi, hb]; rfl)

/-- Settles O51. -/
theorem powerCommandsAct : Obligations.PowerCommandsAct := by
  intro s k
  have hpb : ∀ cl t, exec (.thermPauseBegin cl t) s = execThermPauseBegin cl t s := fun _ _ => rfl
  have htt : ∀ t, exec (.thermTrip t) s = execThermTrip t s := fun _ => rfl
  have hdb : ∀ r mv, exec (.dipBegin r mv) s = execDipBegin r mv s := fun _ _ => rfl
  refine ⟨fun d c rest t hq hg ht => ?_, fun hwk hat hrun hen hf => ⟨fun hp => ?_, fun hp hrj => ?_⟩, fun e x hx hreq hp hrun => ?_,
    fun e x th hx hth hauto hon hqe hinj h0 hle => ?_, fun x th t hx hth hauto hp hq hon h0 hle ht => ?_,
    fun x th t hx hth hauto hp hw hen hf hnp h0 hle ht => ?_, fun r mv u hu => ⟨fun hw => ?_, fun hw => ⟨fun hl hr => ?_, fun hl d hr => ?_, fun hl => ⟨fun d hr => ?_, fun hr => ?_⟩⟩⟩,
    fun d mv t hw ht => ?_, fun t ht hb hle => ?_, fun a b => ?_, fun cl t u hu => ⟨fun hle => ?_, fun hlt hle he => ?_, fun hlt hle he => ?_, fun hlt hc he => ?_, fun hlt hc he => ?_⟩,
    fun t u hu => ⟨fun hle => ?_, fun hlt => ?_⟩, fun cl => ⟨fun he hrun hok => ?_, rfl⟩, rfl, fun m v => ?_, fun hle t ht => ?_⟩
  · have hx : exec (.rampTokenGrant d) s = execRampTokenGrant d s := rfl
    subst ht
    rw [hx, execRampTokenGrant]
    dsimp only
    rw [hq]
    dsimp only
    rw [if_pos hg]
    rfl
  · have hx : exec (.coreWakeDone k) s = execCoreWakeDone k s := rfl
    rw [hx, execCoreWakeDone, if_pos (by rw [hwk, hen, hf, decide_eq_true hat, hrun]; rfl), hp]
    rfl
  · have hx : exec (.coreWakeDone k) s = execCoreWakeDone k s := rfl
    rw [hx, execCoreWakeDone, if_pos (by rw [hwk, hen, hf, decide_eq_true hat, hrun]; rfl), hp, hrj]
    exact ⟨_, rfl, rfl, fun a h1 h2 => memByte_zeroRange_self (s := s) h1 h2⟩
  · subst hx
    have hx : exec (.enginePowerOn k e) s = execEnginePowerOn k e s := rfl
    rw [hx, execEnginePowerOn, if_pos (by rw [hreq, decide_eq_true hp, hrun]; rfl)]
    rfl
  · subst hx hth
    have hx : exec (.enginePowerOff k e) s = execEnginePowerOff k e s := rfl
    rw [hx, execEnginePowerOff]
    exact if_pos (by rw [hauto, hon, hqe, hinj, decide_eq_true h0, decide_eq_true hle]; rfl)
  · subst hx hth ht
    have hx : exec (.coreEnterC2 k) s = execCoreEnterC2 k s := rfl
    rw [hx, execCoreEnterC2]
    exact if_pos (by rw [hauto, decide_eq_true hp, hq, decide_eq_true hon, decide_eq_true h0, decide_eq_true hle]; rfl)
  · subst hx hth ht
    have hx : exec (.coreEnterC3 k) s = execCoreEnterC3 k s := rfl
    rw [hx, execCoreEnterC3]
    exact if_pos (by rw [hauto, decide_eq_true hp, hen, hf, hw, hnp, decide_eq_true h0, decide_eq_true hle]; rfl)
  · rw [hdb]
    exact if_neg (by simp [hw])
  · rw [hdb, execDipBegin, if_pos hw, ← hu, railCheck, if_pos hl]
    simp only [List.mem_cons, List.not_mem_nil, or_false] at hr
    rcases hr with rfl | rfl | rfl <;> rfl
  · subst hr
    rw [hdb, execDipBegin, if_pos hw, ← hu, railCheck, if_pos hl]
    dsimp only
    rw [if_pos hl]
    rfl
  · subst hr
    rw [hdb, execDipBegin, if_pos hw, ← hu, railCheck, hl]
    rfl
  · rw [hdb, execDipBegin, if_pos hw, ← hu, railCheck, hl]
    simp only [List.mem_cons, List.not_mem_nil, or_false] at hr
    rcases hr with rfl | rfl | rfl <;> rfl
  · rw [ht, rbit_railReading d.val mv hw]
  · have hx : exec .dipRestore s = execDipRestore s := rfl
    rw [hx, execDipRestore, ht]
    exact if_pos (by rw [hb, decide_eq_true hle]; rfl)
  · rfl
  · rw [hpb]
    exact if_pos hle
  · rw [hpb, execThermPauseBegin, if_neg (by omega), ← hu, heatBegins_cool _ (.inl hle) (by rw [hu]; exact he)]
    rfl
  · rw [hpb, execThermPauseBegin, if_neg (by omega), ← hu, heatBegins_excursion _ (.inl hle) (by rw [hu]; exact he)]
    rfl
  · rw [hpb, execThermPauseBegin, if_neg (by have := tpause_le (s := s); omega), ← hu, heatBegins_trip _ hlt (by rw [hu]; exact hc) (by rw [hu]; exact he)]
    rfl
  · rw [hpb, execThermPauseBegin, if_neg (by have := tpause_le (s := s); omega), ← hu, heatBegins_both _ hlt (by rw [hu]; exact hc) (by rw [hu]; exact he)]
    rfl
  · rw [htt]
    exact if_pos hle
  · have hc : condHolds u .pwr 3 = condHolds s .pwr 3 := by rw [hu]; rfl
    rw [htt, execThermTrip, if_neg (by omega), ← hu, heatBegins_none _ hlt, hc]
    rfl
  · have hx : exec (.thermalClockPause cl) s = execThermalClockPause cl s := rfl
    rw [hx]
    exact if_pos (by rw [he, hrun, hok]; rfl)
  · rfl
  · have hx : exec .temperHourTick s = execTemperHourTick s := rfl
    have hr : rf t .pwr 0x210 31 0 = rf s .pwr 0x210 31 0 := by rw [ht, rf_withPower]
    rw [hx, execTemperHourTick, if_pos hle, ← ht]
    dsimp only
    rw [hr]
    rfl

/-- Settles O52. -/
theorem debugCommandsAct : Obligations.DebugCommandsAct := by
  intro s
  have htd : ∀ f, exec (.traceFifoDrain f) s = execTraceFifoDrain f s := fun _ => rfl
  have hwc : ∀ w, exec (.watchCopy w) s = execWatchCopy w s := fun _ => rfl
  have hqs : ∀ o, exec (.quenchStop o) s = execQuenchStop o s := fun _ => rfl
  have hqw : ∀ o l, exec (.quenchWindowRead o l) s = execQuenchWindowRead o l s := fun _ _ => rfl
  have hjd : exec .jtagDbgdata s = execJtagDbgdata s := rfl
  have hjc : exec .jtagDbgregCapture s = execJtagDbgregCapture s := rfl
  refine ⟨fun f n r rest a hn hf ha hrun hlo hhi hmem hni => ?_, fun w x hx hrun hrdy => ?_, fun hb => if_pos hb, fun hb hle => ?_, fun n => ⟨fun h0 => ?_, fun h0 hn hw => ?_⟩,
    fun ofs q h1 hq he hlo hhi hm => ?_, fun h3 => if_pos h3, fun off len r hr => ⟨fun hc hoff h1 h64 => ?_, fun hc => ?_⟩, fun tdi => rfl, fun v => rfl,
    fun r hne hr => ?_, fun r he hh hr => ?_, fun r v hh hr hv => ?_, fun v => ?_⟩
  · rw [htd]
    exact traceFifoDrain_of_record f hn hf ha hrun hlo hhi hmem hni
  · rw [hwc, execWatchCopy, hx]
    dsimp only
    rw [if_neg (by simp [hrun, hrdy])]
    cases gfeReady s (watchDst s w.val) (64 * watchLen s w.val) <;> rfl
  · exact if_pos (by rw [hb, decide_eq_true hle]; rfl)
  · exact if_neg h0
  · exact quenchTrigger_fields h0 hn hw
  · have hdue : stopDue s ofs.toNat = true := by
      have hdel : stopDelay q ofs.toNat = true := by
        rw [stopDelay, decide_eq_true hhi, decide_eq_true hlo]
        rcases hm with hm | ⟨hh, hm⟩ | ⟨hh, hm⟩
        · simp [hm]
        · simp [hh, hm]
        · simp [hh, hm]
      rw [stopDue, hq]
      dsimp only
      rw [decide_eq_true he, hdel]
      rfl
    rw [hqs]
    exact if_pos (by rw [decide_eq_true h1, hdue]; rfl)
  · subst hr
    rw [hqw]
    exact if_pos (by rw [hc, decide_eq_true hoff, decide_eq_true h1, decide_eq_true h64]; rfl)
  · rw [hqw]
    exact if_neg (by simp [hc])
  · rw [hjd, execJtagDbgdata]
    dsimp only
    rw [decide_eq_false hne, Bool.false_and, if_neg Bool.false_ne_true, if_neg hne, ← hr]
    rfl
  · have hany : ((List.range 8).any fun i => portHeld s (fld s.jtagAddr 35 0 * 64 + 8 * i)) = false := by
      rw [List.any_eq_false]
      intro i hi
      rw [hh i (List.mem_range.1 hi)]
      decide
    rw [hjd, execJtagDbgdata]
    dsimp only
    rw [hany, Bool.and_false, if_neg Bool.false_ne_true, if_pos he, ← hr]
    rfl
  · rw [hjc, execJtagDbgregCapture, hh, if_neg Bool.false_ne_true, ← hr, hv]
    rfl
  · have hx : exec (.jtagDbgregUpdate v) s = execJtagDbgregUpdate v s := rfl
    rw [hx, execJtagDbgregUpdate]
    cases v.getLsbD 63 <;> rfl

end Sys2Proof.Claims
end

section
/-! SUPPORT. The round trip of the small float formats (R61, R65, R66), as a test of every code. -/

namespace Sys2Proof.Claims

open Sys2Proof Sys2Proof.Machine

/-- The roundings of R65. -/
def allRnd : List Rnd := [.rne, .rtz, .rup, .rdn]

/-- Code `c` of format `f` decodes to NaN, or is encoded back to itself with no event under every rounding. -/
def roundTrips (f : Fmt) (c : Nat) : Bool :=
  decide (decodeEl f [] false c = .nan) || allRnd.all fun r => decide (encodeEl f [] false r (decodeEl f [] false c) = (c, 0))

theorem smallFloats_roundTrip : (smallFloats.all fun n => (List.range (2 ^ (fixedFmts.getD n fmtFp32).width)).all fun c =>
    roundTrips (fixedFmts.getD n fmtFp32) c) = true := by decide +kernel

theorem mem_allRnd (r : Rnd) : r ∈ allRnd := by
  cases r <;> decide

end Sys2Proof.Claims
end

section
/-! PROOFS. Small float formats. -/

namespace Sys2Proof.Claims

open Sys2Proof Sys2Proof.Machine

/-- Settles O32, by the test of every code of the five formats. -/
theorem smallFloatsRoundTrip : Obligations.SmallFloatsRoundTrip := by
  intro n hn r c hc _ hnan
  have h := List.all_eq_true.1 (List.all_eq_true.1 smallFloats_roundTrip n hn) c (List.mem_range.2 hc)
  rw [roundTrips, decide_eq_false hnan, Bool.false_or] at h
  exact of_decide_eq_true (List.all_eq_true.1 h r (mem_allRnd r))

end Sys2Proof.Claims
end

section
/-! SUPPORT. The way that a filled line takes in a data cache (R248). -/

namespace Sys2Proof.Machine

open Sys2Proof

variable {s : State}

theorem mapFind?_mapDel_other {α : Type} (m : List (Nat × α)) {k j : Nat} (h : j ≠ k) : mapFind? (mapDel m k) j = mapFind? m j := by
  induction m with
  | nil => rfl
  | cons e t ih =>
    obtain ⟨k', v⟩ := e
    rw [mapDel]
    split
    · next hk =>
      rw [mapFind?, if_neg (by omega)]
    · rw [mapFind?, mapFind?, ih]

/-- A victim among unlocked ways is picked from a full set, so that other lines of the set stay. -/
theorem mapDel_dcVictim_ne_nil (m : SMap CLine) (set : Nat) (h : (mapFind? m (dcVictim m 0 set)).isSome = true) :
    mapDel m (dcVictim m 0 set) ≠ [] := by
  have hways : ((List.range 4).filter fun w => !(0 : Nat).testBit w) = [0, 1, 2, 3] := by decide
  have hfull : ∀ w ∈ [0, 1, 2, 3], (mapFind? m (4 * set + w)).isSome = true := by
    unfold dcVictim at h
    dsimp only at h
    rw [hways] at h
    intro w hw
    cases hf : ([0, 1, 2, 3] : List Nat).find? fun w => (mapFind? m (4 * set + w)).isNone with
    | some v =>
      have hv := List.find?_some hf
      rw [hf] at h
      dsimp only at h
      rw [Option.isNone_iff_eq_none] at hv
      rw [hv] at h
      exact absurd h Bool.false_ne_true
    | none =>
      have := List.find?_eq_none.1 hf w hw
      simpa [Option.isSome_iff_ne_none] using this
  intro hnil
  have hlost : ∀ w ∈ [0, 1, 2, 3], 4 * set + w = dcVictim m 0 set := fun w hw => by
    by_contra hne
    have hj := mapFind?_mapDel_other m hne
    have hw' := hfull w hw
    rw [← hj, hnil] at hw'
    exact absurd hw' Bool.false_ne_true
  have h0 := hlost 0 (by decide)
  have h1 := hlost 1 (by decide)
  omega

/-- The core whose clean victim is dropped still runs its task or holds the other lines of the set. -/
theorem evicted_ne_coreInit {c set slot : Nat} {l : CLine} (hs : slot = dcVictim (core s c).dcache (lockMaskOf s c) set)
    (hl : mapFind? (core s c).dcache slot = some l) : ({ core s c with dcache := mapDel (core s c).dcache slot } : Core) ≠ coreInit := by
  intro he
  cases hp : (core s c).prog with
  | some p =>
    have := congrArg Core.prog he
    dsimp only at this
    rw [hp] at this
    exact absurd this (by simp [coreInit])
  | none =>
    have hm : lockMaskOf s c = 0 := by rw [lockMaskOf, prog?, hp]; rfl
    rw [hm] at hs
    have hne := mapDel_dcVictim_ne_nil (core s c).dcache set (by rw [← hs, hl]; rfl)
    rw [← hs] at hne
    exact hne (congrArg Core.dcache he)

/-- A buffered store that lacks its line asks for it, or uses the failure of the request for it. -/
theorem drainStore_of_miss {c : Nat} {b : BufStore} (hnc : b.nc = false) (ho : ∀ slot l, ownCopy s c b.tgt = some (slot, l) → hasOwn l = false) :
    (drainStore c b).run s = (drainMiss c b) s := by
  rw [M_run]
  simp only [drainStore, M_bind, M_get, hnc, Bool.false_eq_true, if_false]
  cases hc : ownCopy s c b.tgt with
  | none => rfl
  | some e => simp only [ho e.1 e.2 hc, Bool.false_eq_true, if_false]

theorem drainMiss_request {c : Nat} {b : BufStore} (hf : failedFill s c b.tgt = none) :
    (drainMiss c b) s = .error .wait (requestLine s c (setOf b.named) b.tgt true false false) := by
  simp only [drainMiss, M_bind, M_get, hf]
  rfl

theorem drainMiss_failed {c : Nat} {b : BufStore} {l : CLine} (hf : failedFill s c b.tgt = some l) : (drainMiss c b) s = .ok () (useFailed s c) := by
  simp only [drainMiss, M_bind, M_get, hf]
  rfl

/-- A fill of a core whose write-back buffer is empty finds room; the dirty line that it evicts waits in that buffer. -/
theorem dcRoom_of_wb_none (t : Txn) (hwb : (core s t.core).wb = none) : ∃ slot v, dcRoom s t = some (slot, v) ∧ v.mem = s.mem
    ∧ ∀ l, findLine (core s t.core).dcache t.host t.line = none → mapFind? (core s t.core).dcache slot = some l →
      (core v t.core).wb = if isDirty l.st then some l else none := by
  unfold dcRoom
  dsimp only
  cases hf : findLine (core s t.core).dcache t.host t.line with
  | some e => exact ⟨e.1, s, rfl, rfl, fun _ h => absurd h (by simp)⟩
  | none =>
    dsimp only
    cases hv : mapFind? (core s t.core).dcache (dcVictim (core s t.core).dcache (lockMaskOf s t.core) t.set) with
    | none => exact ⟨_, s, rfl, rfl, fun l _ h => absurd (hv.symm.trans h) (by simp)⟩
    | some v =>
      dsimp only
      rw [hwb]
      by_cases hd : isDirty v.st = true
      · rw [if_pos hd]
        refine ⟨_, _, rfl, rfl, fun l _ h => ?_⟩
        rw [hv, Option.some.injEq] at h
        rw [← h, if_pos hd, core, setCore_cores, mapGet_mapSet_self_of_ne]
        intro he
        exact absurd (congrArg Core.wb he) (by simp [coreInit])
      · rw [if_neg hd]
        refine ⟨_, _, rfl, rfl, fun l _ h => ?_⟩
        rw [hv, Option.some.injEq] at h
        rw [← h, if_neg hd, core, setDcache, setCore_cores, mapGet_mapSet_self_of_ne _ _ _ _ (evicted_ne_coreInit rfl hv)]
        exact hwb

end Sys2Proof.Machine
end

section
/-! PROOFS. Line requests and the store buffer. -/

namespace Sys2Proof.Claims

open Sys2Proof Sys2Proof.Machine

/-- Settles O33. -/
theorem lineRequestsAreServed : Obligations.LineRequestsAreServed := by
  refine ⟨fun s t line hrun hheld hline hhost => ⟨fun cl hf => ?_, fun rg hf hen hroom => ?_, fun hf hroom => ?_⟩,
    fun s k line hrun => ⟨fun t hf hwb => ?_, fun hwb => ?_, fun rg hb => ?_, fun u v hh hb hu hv hhb => ?_⟩⟩
  · have hx : exec (.ringRequestGrant cl line) s = execRingRequestGrant cl line s := rfl
    rw [hline, hhost] at hf
    rw [hx, execRingRequestGrant, hf]
    exact if_pos (by rw [hrun, hheld]; rfl)
  · have hx : exec (.homeAgentRequest rg line) s = execHomeAgentRequest rg line s := rfl
    rw [hline, hhost] at hf
    rw [hx, execHomeAgentRequest, hf]
    dsimp only
    rw [hline, hhost] at hroom ⊢
    exact if_pos (by rw [hrun, hen, hheld, hroom]; rfl)
  · have hx : exec (.locationRequest line) s = execLocationRequest line s := rfl
    rw [hline, hhost] at hf
    rw [hx, execLocationRequest, hf]
    dsimp only
    have hr : (t.host || filterRoom s t.line) = true := by
      rcases hroom with h | h <;> simp [h]
    exact if_pos (by rw [hrun, hheld, hr]; rfl)
  · have hx : exec (.lineFillDone k line) s = execLineFillDone k line s := rfl
    have hcore : t.core = k.val := by
      have := List.find?_some hf
      simp only [Bool.and_eq_true, decide_eq_true_eq] at this
      exact this.1.1.1
    obtain ⟨slot, v, hroom, hmem, hwbv⟩ := dcRoom_of_wb_none (s := s) t (by rw [hcore]; exact hwb)
    rw [hcore] at hwbv
    refine ⟨slot, v, _, hroom, hmem, hwbv, ?_, rfl⟩
    rw [hx, execLineFillDone, hf]
    dsimp only
    rw [if_neg (by simp [hrun]), hroom]
    rfl
  · have hx : exec (.wbBufferDrain k) s = execWbBufferDrain k s := rfl
    rw [hx]
    exact if_pos (by rw [hrun, hwb]; rfl)
  · have hx : exec (.dirRecall (some rg) line) s = execDirRecall (some rg) line s := rfl
    rw [hx]
    exact if_neg (by rw [hrun, hb]; decide)
  · have hx : exec (.dirRecall none line) s = execDirRecall none line s := rfl
    rw [hx, execDirRecall]
    dsimp only
    rw [hh, hb, hrun, ← hu, ← hv, hhb]
    rfl

/-- Settles O34. -/
theorem storeBufferDrains : Obligations.StoreBufferDrains := by
  intro s k n b rest hrun hd hrest
  have hx : exec (.storeBufferDrain k n) s = execStoreBufferDrain k n s := rfl
  have hok : ∀ t, (drainStore k.val b).run s = .ok () t → exec (.storeBufferDrain k n) s = after (setCore t k.val { Machine.core t k.val with sbuf := rest }) := by
    intro t ht
    rw [hx, execStoreBufferDrain, hd]
    dsimp only
    rw [if_neg (by simp [hrun]), ht, hrest]
    rfl
  refine ⟨fun slot l t hnc hown hl ht => ⟨hok t ?_, ?_⟩, fun hnc hown => ⟨fun hff => ?_, fun l t hff ht => hok t ?_⟩, fun t hnc hio hhost hun ht => ⟨hok t ?_, fun hw hkey a ha => ?_⟩⟩
  · rw [ht, M_run]
    simp only [drainStore, M_bind, M_get, hnc, Bool.false_eq_true, if_false, hown, hl, if_true]
    rfl
  · rw [ht]; rfl
  · have hmiss : (drainStore k.val b).run s = .error .wait (requestLine s k.val (setOf b.named) b.tgt true false false) := by
      rw [drainStore_of_miss hnc hown, drainMiss_request hff]
    rw [hx, execStoreBufferDrain, hd]
    dsimp only
    rw [if_neg (by simp [hrun]), hmiss]
    rfl
  · rw [drainStore_of_miss hnc hown, drainMiss_failed hff, ht]
  · rw [ht, M_run]
    simp only [drainStore, M_bind, M_get, hnc, hhost, hio, Bool.false_and, Bool.false_eq_true, if_true, if_false, writePart, cohWrite, hun]
    rfl
  · rw [ht, hkey]
    exact chunkWrite_other _ _ _ _ _ _ hw ha

end Sys2Proof.Claims
end

section
/-! SUPPORT. Predicates of the state that the package's memory operations keep: a `Kept` is one that sees only a few fields and is closed under
the writes of registers, bytes, caches and programs; each function that is built from such writes keeps it. -/

namespace Sys2Proof.Machine

open Sys2Proof

/-- The fields that a `Kept` may speak of. -/
def keptView (s : State) :=
  (s.mem, s.regs, s.held, s.keys, s.mcImage, s.stc, s.hreqs, s.devc, s.tasks, s.cores, s.work)

/-- What the operations below leave of a program: its counter, scalar registers, queues and banks. -/
def progCore (p : Prog) := (p.pc, p.s, p.queues, p.banks)

/-- The register of the bank's trigger and count (R375), which none of the operations below writes. -/
def bankKey : Nat := rk .ep 0x20010

/-- The register is no block's fault status (R409), which only the taking of a fault event writes. -/
def FaultFree (b : Blk) (o : Nat) : Prop := ∀ b', rk b o ≠ rk b' 0x40

/-- The register is no block's fault status and not the bank's. -/
def Spare (b : Blk) (o : Nat) : Prop := FaultFree b o ∧ rk b o ≠ bankKey

/-- A predicate that sees only `keptView` and that the elementary writes below keep. -/
structure Kept where
  holds : State → Prop
  frame : ∀ {s t : State}, holds s → keptView t = keptView s → holds t
  reg : ∀ {s : State} {b : Blk} {o : Nat} (w : Word), Spare b o → holds s → holds (setReg s b o w)
  byte : ∀ {s : State} (a : Nat) (v : Byte), holds s → holds (setByte s a v)
  caches : ∀ {s : State} (c : Nat) (k : Core), k.prog = (core s c).prog → holds s → holds (setCore s c k)
  prog : ∀ {s : State} (c : Nat) (f : Prog → Prog), (∀ p, progCore (f p) = progCore p) → holds s → holds (updProg s c f)
  dev : ∀ {s : State} (n slot : Nat) (l l' : CLine), devLine s n = some (slot, l) → holds s → holds (putDev s slot l')

variable {I : Kept} {s : State}

theorem ite_holds {c : Prop} [Decidable c] {t : State} (h : I.holds s) (h' : I.holds t) : I.holds (if c then s else t) := by
  split
  · exact h
  · exact h'

theorem snd_ite_holds {α : Type} {c : Prop} [Decidable c] {x y : α × State} (h : I.holds x.2) (h' : I.holds y.2) : I.holds (if c then x else y).2 := by
  split
  · exact h
  · exact h'

/-- What every step of a fold keeps, the fold keeps; `Q` picks the state out of what is folded. -/
theorem foldl_keeps {α β : Type} (Q : β → Prop) (f : β → α → β) (hf : ∀ b a, Q b → Q (f b a)) (l : List α) (b : β) (h : Q b) : Q (l.foldl f b) := by
  induction l generalizing b with
  | nil => exact h
  | cons a t ih => exact ih (f b a) (hf b a h)

theorem foldl_holds {α : Type} (f : State → α → State) (hf : ∀ t a, I.holds t → I.holds (f t a)) (l : List α) (h : I.holds s) : I.holds (l.foldl f s) :=
  foldl_keeps I.holds f hf l s h

/-! Registers and events. -/

theorem blkSize_ge (b : Blk) : 0x10000 ≤ blkSize b := by cases b <;> simp [blkSize]

theorem faultFree_of_lt {b : Blk} {o : Nat} (ho : o < blkSize b) (h40 : o ≠ 0x40) : FaultFree b o := by
  intro b' he
  have h1 : locate (rk b o) = some (b, o) := locate_rk b o (by cases b <;> exact ho)
  have h2 : locate (rk b' 0x40) = some (b', 0x40) := locate_rk b' 0x40 (have h := blkSize_ge b'; by cases b' <;> exact Nat.lt_of_lt_of_le (by decide) h)
  rw [he, h2, Option.some.injEq, Prod.mk.injEq] at h1
  exact h40 h1.2.symm

theorem faultFree_low (b : Blk) {o : Nat} (ho : o < 0x10000) (h40 : o ≠ 0x40) : FaultFree b o :=
  faultFree_of_lt (Nat.lt_of_lt_of_le ho (blkSize_ge b)) h40

/-- A register of a block above the endpoint's is not the bank's. -/
theorem spare_of_faultFree {b : Blk} {o : Nat} (hb : bankKey < blkBase b) (h : FaultFree b o) : Spare b o := by
  refine ⟨h, ?_⟩
  rw [rk]
  omega

theorem bankKey_lt_ctx (c : BitVec 12) : bankKey < blkBase (.ctx c) := by
  simp only [bankKey, rk, blkBase]
  omega

theorem bankKey_lt_core (c : Nat) : bankKey < blkBase (bCore c) := by
  simp only [bankKey, rk, blkBase, bCore]
  omega

theorem bankKey_lt_cluster (c : Nat) : bankKey < blkBase (bCluster c) := by
  simp only [bankKey, rk, blkBase, bCluster]
  omega

theorem setRf_holds {b : Blk} {o : Nat} (hi lo v : Nat) (hb : Spare b o) (h : I.holds s) : I.holds (setRf s b o hi lo v) := I.reg _ hb h

/-- A counter of a block above the endpoint's. -/
theorem ctr_holds {b : Blk} (i n : Nat) (hb : bankKey < blkBase b) (hi : 0x1000 + 8 * i < blkSize b) (h : I.holds s) : I.holds (addReg s b (0x1000 + 8 * i) n) :=
  I.reg _ (spare_of_faultFree hb (faultFree_of_lt hi (by omega))) h

theorem globalCtr_holds (i n : Nat) (hi : i < 0x1000) (h : I.holds s) : I.holds (globalCtr s i n) :=
  I.reg _ (spare_of_faultFree (by decide) (faultFree_of_lt (by simp only [blkSize]; omega) (by omega))) h

theorem ctxCtr_holds (c : BitVec 12) (i n : Nat) (hi : i < 0x1000) (h : I.holds s) : I.holds (ctxCtr s c i n) :=
  ctr_holds i n (bankKey_lt_ctx c) (by simp only [blkSize]; omega) h

theorem coreCtr_holds (c i n : Nat) (hi : i < 0x1000) (h : I.holds s) : I.holds (coreCtr s c i n) :=
  ctr_holds i n (bankKey_lt_core c) (by simp only [blkSize, bCore]; omega) h

theorem clusterCtr_holds (c i n : Nat) (hi : i < 0x1000) (h : I.holds s) : I.holds (clusterCtr s c i n) :=
  ctr_holds i n (bankKey_lt_cluster c) (by simp only [blkSize, bCluster]; omega) h

theorem raiseFault_holds (b : Blk) (src : Nat) (u a : Option Nat) (h : I.holds s) : I.holds (raiseFault s b src u a) := I.frame h rfl

theorem spare_finj (b : Blk) : Spare b 0x70 := by
  refine ⟨faultFree_low b (by decide) (by decide), ?_⟩
  cases b
  all_goals
    simp only [rk, blkBase, bankKey]
    omega

theorem fireInjection_holds (b : Blk) (src : Nat) (u a : Option Nat) (h : I.holds s) : I.holds (fireInjection s b src u a).2 := by
  rw [fireInjection]
  split
  · have h1 : I.holds { s with inject := mapSet (fun _ => 0) s.inject (blkNo b) 0 } := I.frame h rfl
    exact I.frame (setRf_holds 62 62 0 (spare_finj b) h1) rfl
  · exact h

theorem ringAt_holds {b : Blk} {base pos : Nat} (code ctx : Nat) (d : Word) (hb : bankKey < blkBase b) (h1 : 0x40 < base) (h2 : base + 0x400 < 0x10000)
    (h3 : 0x40 < pos) (h4 : pos < 0x10000) (h : I.holds s) : I.holds (ringAt s b base pos code ctx d) := by
  have hr : ∀ {t : State} (o : Nat) (w : Word), 0x40 < o → o < 0x10000 → I.holds t → I.holds (setReg t b o w) := fun o w ho ho' ht =>
    I.reg w (spare_of_faultFree hb (faultFree_low b ho' (by omega))) ht
  rw [ringAt]
  exact ite_holds h (hr _ _ h3 h4 (hr _ _ (by omega) (by omega) (hr _ _ (by omega) (by omega) h)))

theorem gfeRing_holds (code ctx : Nat) (d : Word) (h : I.holds s) : I.holds (gfeRing s code ctx d) :=
  ringAt_holds _ _ _ (by decide) (by decide) (by decide) (by decide) (by decide) h

/-! Jig slips. -/

theorem slipEnd_holds (k : Nat) (h : I.holds s) : I.holds (slipEnd s k) := by
  have hb : Spare (bCore k) 0x2C0 := spare_of_faultFree (bankKey_lt_core k) (faultFree_low _ (by decide) (by decide))
  rw [slipEnd]
  split
  · exact h
  · exact I.prog _ _ (fun _ => rfl) (ctxCtr_holds _ _ _ (by decide) (coreCtr_holds _ _ _ (by decide) (coreCtr_holds _ _ _ (by decide) (setRf_holds _ _ _ hb (setRf_holds _ _ _ hb h)))))

theorem slipStart_holds (c cause stall : Nat) (h : I.holds s) : I.holds (slipStart s c cause stall) := by
  refine foldl_holds _ (fun t k ht => ?_) _ h
  exact I.prog _ _ (fun _ => rfl) (ite_holds (slipEnd_holds k ht) ht)

theorem slipFor_holds (w : Who) (cause stall : Nat) (h : I.holds s) : I.holds (slipFor s w cause stall) := by
  rw [slipFor]
  refine ite_holds ?_ h
  split
  · exact slipStart_holds _ _ _ h
  · exact h

/-! Memory's chunks. -/

theorem setChunkPoison_holds (k : Nat) (p : Bool) (h : I.holds s) : I.holds (setChunkPoison s k p) := I.frame h rfl

theorem setBytes_holds (a : Nat) (d : List Byte) (h : I.holds s) : I.holds (setBytes s a d) := by
  induction d generalizing s a with
  | nil => exact h
  | cons b t ih => exact ih (a + 1) (I.byte a b h)

theorem markUncorrectable_holds (k : Nat) (h : I.holds s) : I.holds (markUncorrectable s k) := by
  rw [markUncorrectable]
  split
  · exact ite_holds (setChunkPoison_holds _ _ h) (raiseFault_holds _ _ _ _ h)
  · exact setChunkPoison_holds _ _ h

theorem chunkCheck_holds (w : Who) (k : Nat) (h : I.holds s) : I.holds (chunkCheck s w k).2 := by
  rw [chunkCheck]
  split
  · split
    · exact setChunkPoison_holds _ _ h
    · exact h
  · next b unit cause stall _ =>
    dsimp only
    have h1 := fireInjection_holds b 0 unit (some (k * 64)) h
    generalize fireInjection s b 0 unit (some (k * 64)) = r at h1
    have h2 : I.holds (if (r.1 && decide (cause ≠ 0)) = true then slipFor r.2 w cause stall else r.2) := ite_holds (slipFor_holds _ _ _ h1) h1
    generalize (if (r.1 && decide (cause ≠ 0)) = true then slipFor r.2 w cause stall else r.2) = u at h2
    have h3 : ∀ t : State, I.holds t → I.holds (fireInjection t b 1 unit (some (k * 64))).2 := fun _ ht => fireInjection_holds _ _ _ _ ht
    split
    · have h4 := h3 _ (fireInjection_holds b 2 unit (some (k * 64)) h2)
      exact snd_ite_holds (markUncorrectable_holds _ h4) h4
    · exact snd_ite_holds (markUncorrectable_holds _ (h3 _ h2)) (h3 _ h2)

theorem noteUndo_holds (w : Who) (k : Nat) (h : I.holds s) : I.holds (noteUndo s w k) := by
  rw [noteUndo]
  split
  · exact ite_holds h (I.frame h rfl)
  · exact h

theorem lt_of_caKind_stack {a n x : Nat} (h : caKind a = .stack n x) : n < 12 := by
  unfold caKind at h
  split_ifs at h with h1
  obtain ⟨rfl, -⟩ := CaKind.stack.inj h
  exact Nat.div_lt_of_lt_mul (by rw [Nat.mul_comm]; exact h1)

theorem lt_of_caKind_far {a n x : Nat} (h : caKind a = .far n x) : n < 4 := by
  unfold caKind at h
  split_ifs at h with h1 h2 h3 h4 h5 h6
  obtain ⟨rfl, -⟩ := CaKind.far.inj h
  omega

theorem countBytes_holds (w : Who) (k n : Nat) (wr : Bool) (h : I.holds s) : I.holds (countBytes s w k n wr) := by
  have hseam : I.holds (countSeam s w k n wr) := by
    rw [countSeam]
    split
    · refine ite_holds h (globalCtr_holds _ _ ?_ h)
      split <;> decide
    · exact h
  rw [countBytes]
  dsimp only
  split
  · next i x hk =>
    have hi := lt_of_caKind_stack hk
    have h1 : I.holds (globalCtr (countSeam s w k n wr) (if wr = true then 16 + i else i) n) := globalCtr_holds _ _ (by split <;> omega) hseam
    split
    · exact ctxCtr_holds _ _ _ (by split <;> decide) h1
    · exact h1
  · exact coreCtr_holds _ _ _ (by split <;> decide) hseam
  · exact coreCtr_holds _ _ _ (by decide) hseam
  · next p x hk =>
    have hp := lt_of_caKind_far hk
    exact globalCtr_holds _ _ (by split <;> omega) hseam
  · exact hseam

theorem chunkRead_holds (w : Who) (k off n : Nat) (key : Option Nat) (h : I.holds s) : I.holds (chunkRead s w k off n key).2 :=
  countBytes_holds _ _ _ _ (chunkCheck_holds _ _ h)

theorem chunkWrite_holds (w : Who) (k off : Nat) (d : List Byte) (p : Bool) (key : Option Nat) (h : I.holds s) :
    I.holds (chunkWrite s w k off d p key) := by
  have hbase : ∀ (whole clear : Bool), I.holds (countBytes (if whole = true then
      (if (whole && clear) = true then { noteUndo s w k with farBad := mapSet (fun _ => false) (noteUndo s w k).farBad k false } else noteUndo s w k)
      else if (partialWord off d.length || key.isSome) = true then
        (chunkCheck (if (whole && clear) = true then { noteUndo s w k with farBad := mapSet (fun _ => false) (noteUndo s w k).farBad k false } else noteUndo s w k) w k).2
      else (if (whole && clear) = true then { noteUndo s w k with farBad := mapSet (fun _ => false) (noteUndo s w k).farBad k false } else noteUndo s w k))
      w k d.length true) := fun whole clear => by
    have h1 : I.holds (if (whole && clear) = true then { noteUndo s w k with farBad := mapSet (fun _ => false) (noteUndo s w k).farBad k false } else noteUndo s w k) :=
      ite_holds (I.frame (noteUndo_holds w k h) rfl) (noteUndo_holds w k h)
    exact countBytes_holds _ _ _ _ (ite_holds h1 (ite_holds (chunkCheck_holds _ _ h1) h1))
  have hb := hbase (decide (d.length = 64)) (!(noteUndo s w k).farBad.isEmpty)
  rw [chunkWrite]
  dsimp only
  revert hb
  generalize countBytes _ w k d.length true = u
  intro hb
  split
  · refine ite_holds (raiseFault_holds _ _ _ _ (setBytes_holds _ _ hb)) (setChunkPoison_holds _ _ ?_)
    split
    · exact setBytes_holds _ _ hb
    · exact setBytes_holds _ _ hb
  · refine setChunkPoison_holds _ _ ?_
    split
    · exact setBytes_holds _ _ hb
    · exact setBytes_holds _ _ hb

/-! Caches. -/

theorem devWriteBack_holds (k : Nat) (d : List Byte) (p : Bool) (h : I.holds s) : I.holds (devWriteBack s k d p) := by
  rw [devWriteBack]
  split
  · next slot l hl => exact I.dev k slot l _ hl h
  · exact h

theorem setCluster_holds (c : Nat) (k : Cluster) (h : I.holds s) : I.holds (setCluster s c k) := I.frame h rfl

theorem setCcache_holds (cl : Nat) (m : SMap CLine) (h : I.holds s) : I.holds (setCcache s cl m) := I.frame h rfl

theorem setDcache_holds (c : Nat) (m : SMap CLine) (h : I.holds s) : I.holds (setDcache s c m) := I.caches c _ rfl h

theorem notePresence_holds (host : Bool) (k cl : Nat) (h : I.holds s) : I.holds (notePresence s host k cl) := by
  rw [notePresence]
  have h1 : I.holds (setDirBits s (regionOfCluster cl) (if host then 2 ^ 52 + k else k)
      (dirBits s (regionOfCluster cl) (if host then 2 ^ 52 + k else k) ||| 2 ^ (cl % 6))) := I.frame h rfl
  refine ite_holds ?_ (I.frame h1 rfl)
  split
  · next slot l hl => exact I.dev k slot l _ hl h1
  · exact h1

theorem freeNat_holds (h : I.holds s) : I.holds (freeNat s).2 := I.frame h rfl

theorem ccCheck_holds (cl : Nat) (l : CLine) (h : I.holds s) : I.holds (ccCheck s cl l).2 := fireInjection_holds _ _ _ _ (fireInjection_holds _ _ _ _ h)

theorem ccWriteBack_holds (cl : Nat) (l : CLine) (h : I.holds s) : I.holds (ccWriteBack s cl l) :=
  clusterCtr_holds _ _ _ (by decide) (chunkWrite_holds _ _ _ _ _ _ (ccCheck_holds cl l h))

theorem ccInsert_holds (cl : Nat) (l : CLine) (h : I.holds s) : I.holds (ccInsert s cl l) := by
  rw [ccInsert]
  split
  · exact setCcache_holds _ _ h
  · dsimp only
    split
    · exact notePresence_holds _ _ _ (setCcache_holds _ _ h)
    · refine notePresence_holds _ _ _ (setCcache_holds _ _ ?_)
      split
      · exact ite_holds (ccWriteBack_holds _ _ (freeNat_holds h)) (freeNat_holds h)
      · exact freeNat_holds h

theorem evictDirty_holds (c : Nat) (l : CLine) (h : I.holds s) : I.holds (evictDirty s c l) :=
  ite_holds (devWriteBack_holds _ _ _ h) (ite_holds (ccInsert_holds _ _ h) (chunkWrite_holds _ _ _ _ _ _ h))

theorem flushWbOf_holds (c : Nat) (h : I.holds s) : I.holds (flushWbOf s c) := by
  rw [flushWbOf]
  split
  · exact evictDirty_holds _ _ (I.caches c _ rfl h)
  · exact h

theorem flushWb_holds (host : Bool) (k : Nat) (h : I.holds s) : I.holds (flushWb s host k) := by
  refine foldl_holds _ (fun t e ht => ?_) _ h
  split
  · exact ite_holds (flushWbOf_holds _ ht) ht
  · exact ht

theorem dropHolderLine_holds (x : Holder) (slot : Nat) (h : I.holds s) : I.holds (dropHolderLine s x slot) := by
  cases x with
  | dc c => exact setDcache_holds _ _ h
  | cc cl => exact setCcache_holds _ _ h

theorem setHolderLine_holds (x : Holder) (slot : Nat) (l : CLine) (h : I.holds s) : I.holds (setHolderLine s x slot l) := by
  cases x with
  | dc c => exact setDcache_holds _ _ h
  | cc cl => exact setCcache_holds _ _ h

theorem holderCheck_holds (x : Holder) (l : CLine) (h : I.holds s) : I.holds (holderCheck s x l).2 := by
  cases x with
  | dc c => exact h
  | cc cl => exact ccCheck_holds _ _ h

theorem snoopOne_holds (host : Bool) (k : Nat) (own : Bool) (st : State × SnoopRes) (x : Holder) (h : I.holds st.1) :
    I.holds (snoopOne host k own st x).1 := by
  rw [snoopOne]
  split
  · exact h
  · next slot l _ =>
    have hc : I.holds (if l.st ≠ .s then holderCheck st.1 x l else (l, st.1)).2 := by
      split
      · exact holderCheck_holds _ _ h
      · exact h
    cases own with
    | true => exact dropHolderLine_holds x slot hc
    | false => exact setHolderLine_holds x slot _ hc

theorem snoopAll_holds (host : Bool) (k : Nat) (own : Bool) (h : I.holds s) : I.holds (snoopAll s host k own).1 :=
  foldl_keeps (fun st : State × SnoopRes => I.holds st.1) _ (snoopOne_holds host k own) _ _ (flushWb_holds _ _ (flushWb_holds _ _ h))

theorem recallLine_holds (host : Bool) (k : Nat) (h : I.holds s) : I.holds (recallLine s host k) := by
  have hr := snoopAll_holds host k true h
  rw [recallLine]
  split
  · exact ite_holds (ite_holds (devWriteBack_holds _ _ _ hr) (chunkWrite_holds _ _ _ _ _ _ hr)) hr
  · exact hr

/-! The GFE's accesses. -/

theorem send_holds (m : Msg) (h : I.holds s) : I.holds (send s m) := I.frame h rfl

theorem sendBis_holds (k : Nat) (own : Bool) (h : I.holds s) : I.holds (sendBis s k own) :=
  ite_holds h (globalCtr_holds _ _ (by decide) (send_holds _ (I.frame h rfl)))

theorem useBis_holds (k : Nat) (h : I.holds s) : I.holds (useBis s k) := I.frame h rfl

theorem gfePost_holds (a n : Nat) (x : GfePost) (h : I.holds s) : I.holds (gfePost s a n x) :=
  I.frame (foldl_holds _ (fun _ _ ht => ite_holds ht (sendBis_holds _ _ ht)) _ h) rfl

theorem gfeRead_holds (w : Who) (a n : Nat) (key : Option Nat) (h : I.holds s) : I.holds (gfeRead s w a n key).2 := by
  refine foldl_keeps (fun st : (List Byte × Bool) × State => I.holds st.2) _ (fun st q ht => ?_) _ _ h
  have hr := snoopAll_holds false q.1 false (useBis_holds q.1 ht)
  dsimp only
  split
  · exact hr
  · exact chunkRead_holds w q.1 q.2.1 q.2.2 key hr

theorem gfePut_holds (a : Nat) (d : List Byte) (h : I.holds s) : I.holds (gfePut s a d) :=
  foldl_keeps (fun st : State × List Byte => I.holds st.1) _ (fun _ _ ht => chunkWrite_holds _ _ _ _ _ _ (recallLine_holds _ _ ht)) _ (s, d) h

theorem gfeWrite_holds (a : Nat) (d : List Byte) (h : I.holds s) : I.holds (gfeWrite s a d) := ite_holds (gfePut_holds _ _ h) (gfePost_holds _ _ _ h)

theorem writeDescWord1_holds (a : Nat) (w : Word) (h : I.holds s) : I.holds (writeDescWord1 s a w) := gfeWrite_holds _ _ h

theorem refStep_holds (a : Nat) (up : Bool) (h : I.holds s) : I.holds (refStep s a up) :=
  ite_holds (gfePost_holds _ _ _ h) (writeDescWord1_holds _ _ (gfeRead_holds _ _ _ _ h))

theorem recheckWaits_holds (q : Nat × Nat → Bool) (h : I.holds s) : I.holds (recheckWaits s q) := I.frame h rfl

theorem fenceWrite_holds (c : BitVec 12) (f : Nat) (v : Word) (h : I.holds s) : I.holds (fenceWrite s c f v) :=
  ite_holds (gfePost_holds _ _ _ h) (gfeRing_holds _ _ _ (gfeWrite_holds _ _ (recheckWaits_holds _ h)))

theorem fenceAdd_holds (c : BitVec 12) (f : Nat) (n : Word) (h : I.holds s) : I.holds (fenceAdd s c f n) :=
  ite_holds h (ite_holds (gfePost_holds _ _ _ h) (fenceWrite_holds _ _ _ h))

/-- A register of a channel is no fault status. -/
theorem spare_chan (n : Nat) : Spare .dt (0x3018 + 32 * n) := by
  refine spare_of_faultFree (by decide) fun b' => ?_
  cases b'
  all_goals
    simp only [rk, blkBase]
    omega

theorem bindProd_holds (n : Nat) (h : I.holds s) : I.holds (bindProd s n) :=
  ite_holds (gfePost_holds _ _ _ h) (setRf_holds _ _ _ (spare_chan n) (I.frame h rfl))

theorem performPosts_holds (h : I.holds s) : I.holds (performPosts s) := by
  refine foldl_holds _ (fun t x ht => ?_) _ (I.frame h rfl)
  cases x with
  | write a d => exact gfeWrite_holds _ _ ht
  | ref a up => exact refStep_holds _ _ ht
  | fenceSet c f v => exact fenceWrite_holds _ _ _ ht
  | fenceAdd c f v => exact fenceAdd_holds _ _ _ ht
  | bind n => exact bindProd_holds _ ht

theorem nthBit_lt (mask n x : Nat) (hn : 0 < n) : nthBit mask n x < n := by
  have hm : ∀ i, (setBits mask n).getD i 0 < n := by
    intro i
    rw [List.getD_eq_getElem?_getD]
    cases hi : (setBits mask n)[i]? with
    | none => exact hn
    | some v => exact List.mem_range.1 (List.mem_filter.1 (List.mem_of_getElem? hi)).1
  exact hm _

theorem sendAck_holds (e : AckDue) (h : I.holds s) : I.holds (sendAck s e) := by
  have hs : ∀ o, 0x40 < o → o < 0x10000 → Spare .dt o := fun o h1 h2 => spare_of_faultFree (by decide) (faultFree_low _ h2 (by omega))
  refine ite_holds ?_ (setRf_holds _ _ _ (hs _ (by decide) (by decide)) (I.reg _ (hs _ (by decide) (by decide)) h))
  refine ite_holds (I.frame h rfl) (globalCtr_holds _ _ ?_ (send_holds _ (I.frame h rfl)))
  have := nthBit_lt (dtPorts { s with nextTag := s.nextTag + 1, dtOut := s.dtOut ++ [{ tag := s.nextTag, peer := e.pkg, core := 384, task := 0, eng := 0, kind := .ack e.ch }] } e.pkg) 16
    (Config.routeHash (e.ca / 4096)) (by decide)
  simp only [dtPort]
  omega

theorem queueAck_holds (e : AckDue) (h : I.holds s) : I.holds (queueAck s e) := ite_holds (I.frame h rfl) (sendAck_holds _ h)

theorem servePosts_holds (h : I.holds s) : I.holds (servePosts s) :=
  foldl_holds _ (fun _ e ht => queueAck_holds e ht) _ (I.frame (performPosts_holds h) rfl)

theorem disableContexts_holds (h : I.holds s) : I.holds (disableContexts s) := by
  have hs : ∀ (c : BitVec 12) o, 0x40 < o → o < 0x10000 → Spare (.ctx c) o := fun c o h1 h2 =>
    spare_of_faultFree (bankKey_lt_ctx c) (faultFree_low _ h2 (by omega))
  refine foldl_holds _ (fun t e ht => ?_) _ h
  split
  · next c _ => exact setRf_holds _ _ _ (hs c _ (by decide) (by decide)) (setRf_holds _ _ _ (hs c _ (by decide) (by decide)) ht)
  · exact ht

end Sys2Proof.Machine
end

section
/-! SUPPORT. The predicates that see memory, the registers, the keys, the image, held accesses and the time alone, and that every write of a
register and the clearing of a range keep: what runs at the end of a command, and what resets and enables share, keeps them too. -/

namespace Sys2Proof.Machine

open Sys2Proof

/-- The fields that an `OpenKept` may speak of. -/
def openView (s : State) := (s.mem, s.regs, s.held, s.keys, s.mcImage, s.stc)

/-- A `Kept` that sees only `openView` and the marks of a taken fault event, and that every other write of a register keeps. -/
structure SettleKept extends Kept where
  regs : ∀ {s : State} {b : Blk} {o : Nat} (w : Word), FaultFree b o → holds s → holds (setReg s b o w)
  status : ∀ {s : State} {b : Blk} {w : Word}, (∀ i, i < 61 → flag (Machine.reg s b 0x40) i = true → flag w i = true) → holds s → holds (setReg s b 0x40 w)
  free : ∀ {s t : State}, holds s → openView t = openView s → holds t

/-- A `SettleKept` that every write of a register and the clearing of a range keep. -/
structure OpenKept extends SettleKept where
  anyReg : ∀ {s : State} (b : Blk) (o : Nat) (w : Word), holds s → holds (setReg s b o w)
  zero : ∀ {s : State} (base size : Nat), holds s → holds (zeroRange s base size)

section
variable {I : OpenKept} {s : State}

theorem setRf_any (b : Blk) (o hi lo v : Nat) (h : I.holds s) : I.holds (setRf s b o hi lo v) := I.anyReg _ _ _ h

theorem raise_any (b : Blk) (st i : Nat) (h : I.holds s) : I.holds (raise s b st i) := setRf_any _ _ _ _ _ (I.anyReg _ _ _ h)

end

variable {I : SettleKept} {s : State}

/-- A register past the fault status and inside every window. -/
theorem setReg_kept (b : Blk) {o : Nat} (w : Word) (h1 : 0x40 < o) (h2 : o < 0x10000) (h : I.holds s) : I.holds (setReg s b o w) :=
  I.regs w (faultFree_low b h2 (by omega)) h

theorem setRf_kept (b : Blk) {o : Nat} (hi lo v : Nat) (h1 : 0x40 < o) (h2 : o < 0x10000) (h : I.holds s) : I.holds (setRf s b o hi lo v) :=
  setReg_kept b _ h1 h2 h

theorem setCore_holds (c : Nat) (k : Core) (h : I.holds s) : I.holds (setCore s c k) := I.free h rfl

theorem updTask_holds (id : Nat) (f : Task → Task) (h : I.holds s) : I.holds (updTask s id f) := I.free h rfl

/-- Any change of a program, which `openView` does not see. -/
theorem updProg_holds (c : Nat) (f : Prog → Prog) (h : I.holds s) : I.holds (updProg s c f) := by
  rw [updProg]
  split
  · exact I.free h rfl
  · exact h

theorem setProg_holds (c : Nat) (p : Prog) (h : I.holds s) : I.holds (setProg s c p) := I.free h rfl

theorem dropDev_holds (slot : Nat) (h : I.holds s) : I.holds (dropDev s slot) := I.free h rfl

theorem putDev_holds (slot : Nat) (l : CLine) (h : I.holds s) : I.holds (putDev s slot l) := I.free h rfl

theorem withLines_holds (l : SMap StrikeLine) (h : I.holds s) : I.holds { s with lines := l } := I.free h rfl

/-! The interrupt lines and the endpoint's messages. -/

theorem noteSent_holds (m : Msg) (h : I.holds s) : I.holds (noteSent s m) := by
  unfold noteSent
  split
  · exact ite_holds (I.free h rfl) h
  · exact h

theorem upstream_holds (m : Msg) (h : I.holds s) : I.holds (upstream s m) :=
  ite_holds (send_holds m (noteSent_holds m h)) (setRf_kept _ _ _ _ (by decide) (by decide) (setReg_kept _ _ (by decide) (by decide) (I.free h rfl)))

theorem settleIrq_holds (h : I.holds s) : I.holds (settleIrq s) := by
  have h1 : I.holds (settleInta s) := ite_holds h (ite_holds (I.free h rfl) (I.free h rfl))
  exact ite_holds (ite_holds (I.free h1 rfl) (upstream_holds _ (I.free h1 rfl))) h1

theorem signalCorr_holds (i : Nat) (h : I.holds s) : I.holds (signalCorr s i) := by
  have h1 : I.holds (markCorr s i) := I.free h rfl
  exact ite_holds (send_holds _ h1) h1

theorem logHeader_holds (i : Nat) (h : I.holds s) : I.holds (logHeader s i) := ite_holds h (ite_holds (I.free h rfl) (signalCorr_holds _ h))

theorem markUncorr_holds (i : Nat) (h : I.holds s) : I.holds (markUncorr s i) :=
  I.free (logHeader_holds i (ite_holds (I.free h rfl : I.holds (firstError s i)) h)) rfl

theorem orCfg_holds (o : Nat) (w : BitVec 32) (h : I.holds s) : I.holds (orCfg s o w) := I.free h rfl

theorem signalUncorr_holds (i : Nat) (h : I.holds s) : I.holds (signalUncorr s i) := by
  have h1 : ∀ w, I.holds (orCfg (markUncorr s i) 0x78 w) := fun w => orCfg_holds _ w (markUncorr_holds i h)
  have h2 : ∀ w c, I.holds (if c = true then orCfg (orCfg (markUncorr s i) 0x78 w) 0x04 0x40000000 else orCfg (markUncorr s i) 0x78 w) :=
    fun w c => ite_holds (orCfg_holds _ _ (h1 w)) (h1 w)
  exact ite_holds (h1 _) (ite_holds (send_holds _ (h2 _ _)) (h2 _ _))

/-! Programs, engines and tasks. -/

theorem performPackage_holds (h : I.holds s) : I.holds (performPackage s) := by
  have htx : ∀ {t : State} (x : Txn), I.holds t → I.holds (txnWriteBack t x) := fun x ht =>
    ite_holds ht (ite_holds (devWriteBack_holds _ _ _ ht) (chunkWrite_holds _ _ _ _ _ _ ht))
  have h1 : I.holds ((s.txns.filter Txn.host).foldl txnWriteBack s) := foldl_holds _ (fun _ x ht => htx x ht) _ h
  have h2 := foldl_holds (fun t (e : Nat × Core) => ((dirtyLines e.2).filter CLine.host).foldl (fun t l => devWriteBack t l.line l.data l.poison) t)
    (fun _ e ht => foldl_holds _ (fun _ l hu => devWriteBack_holds _ _ _ hu) _ ht) s.cores h1
  exact foldl_holds _ (fun _ e ht => foldl_holds _ (fun _ x hu => ccWriteBack_holds _ _ (setCcache_holds _ _ hu)) _ ht) _ h2

theorem txnWriteBack_holds (x : Txn) (h : I.holds s) : I.holds (txnWriteBack s x) :=
  ite_holds h (ite_holds (devWriteBack_holds _ _ _ h) (chunkWrite_holds _ _ _ _ _ _ h))

theorem signalCore_holds (ctx : BitVec 12) (c q n : Nat) (h : I.holds s) : I.holds (signalCore s ctx c q n).2 := by
  rw [signalCore]
  split
  · split
    · split
      · exact updProg_holds _ _ h
      · split
        · exact updTask_holds _ _ h
        · exact updTask_holds _ _ h
    · exact h
  · exact h

theorem setGctx_holds (c : BitVec 12) (g : Gctx) (h : I.holds s) : I.holds (setGctx s c g) := I.free h rfl

theorem progress_holds (c : BitVec 12) (h : I.holds s) : I.holds (progress s c) :=
  have h1 : I.holds (addReg s (.ctx c) 0x08 1) := I.regs _ (faultFree_low _ (by decide) (by decide)) h
  have h2 := setGctx_holds c { gctx s c with lastProgress := (addReg s (.ctx c) 0x08 1).stc, stalled := false } h1
  I.regs _ (faultFree_low _ (by decide) (by decide)) (I.regs _ (faultFree_low _ (by decide) (by decide)) h2)

theorem completeOp_holds (c e : Nat) (op : EngOp) (h : I.holds s) : I.holds (completeOp s c e op) := by
  have hcredit : ∀ t : State, I.holds t → I.holds (match op.credit with
      | some q => updProg t c fun p => addCredit p q 1
      | none => t) := by
    intro t ht
    cases op.credit with
    | some q => exact updProg_holds _ _ ht
    | none => exact ht
  have hsig : ∀ t : State, I.holds t → ∀ ctx w0, I.holds (if (signalCore (if fld w0 54 52 < 4 then t else performPackage t) ctx (fld w0 51 43) (fld w0 42 39) 1).1 = true
      then (signalCore (if fld w0 54 52 < 4 then t else performPackage t) ctx (fld w0 51 43) (fld w0 42 39) 1).2
      else updProg (signalCore (if fld w0 54 52 < 4 then t else performPackage t) ctx (fld w0 51 43) (fld w0 42 39) 1).2 c fun p => { p with sigdrop := true }) := by
    intro t ht ctx w0
    have h1 : I.holds (if fld w0 54 52 < 4 then t else performPackage t) := ite_holds ht (performPackage_holds ht)
    have h2 := signalCore_holds ctx (fld w0 51 43) (fld w0 42 39) 1 h1
    exact ite_holds h2 (updProg_holds _ _ h2)
  have h1 := hcredit _ (setCore_holds c { core s c with engAt := mapSet (fun _ => 0) (core s c).engAt e s.cclk } h)
  exact ctxCtr_holds _ _ _ (by decide) (progress_holds _ (ite_holds (hsig _ h1 _ _) h1))

theorem flushEngines_holds (c : Nat) (h : I.holds s) : I.holds (flushEngines s c) := by
  rw [flushEngines]
  split
  · exact h
  · refine updProg_holds _ _ (foldl_holds _ (fun _ _ ht => setCore_holds _ _ ht) _ ?_)
    exact foldl_holds _ (fun _ _ ht => foldl_holds _ (fun _ op hu => completeOp_holds _ _ op hu) _ ht) _ h

theorem fifoPush_holds (k : Nat) (r : List Word) (h : I.holds s) : I.holds (fifoPush s k r) := ite_holds (I.free h rfl) (I.free h rfl)

theorem traceRec_holds (c ty ctx : Nat) (w2 w3 : Word) (h : I.holds s) : I.holds (traceRec s c ty ctx w2 w3) := ite_holds (fifoPush_holds _ _ h) h

theorem coreRing_holds (c code ctx : Nat) (d : Word) (h : I.holds s) : I.holds (coreRing s c code ctx d) :=
  ringAt_holds _ _ _ (bankKey_lt_core c) (by decide) (by decide) (by decide) (by decide) h

theorem taskFinish_holds (id : Nat) (h : I.holds s) : I.holds (taskFinish s id) := by
  rw [taskFinish]
  split
  · exact h
  · refine globalCtr_holds _ _ (by decide) (ctxCtr_holds _ _ _ (by decide) (progress_holds _ (foldl_holds _ (fun _ l ht => ?_) _ (updTask_holds _ _ h))))
    exact I.free ht rfl

theorem partEnd_holds (c : Nat) (p : Prog) (code : Nat) (h : I.holds s) : I.holds (partEnd s c p code) := by
  have hrec : ∀ w2 w3 d, I.holds (coreRing (traceRec s c 2 p.ctx.toNat w2 w3) c 0x02 p.ctx.toNat d) :=
    fun _ _ _ => coreRing_holds _ _ _ _ (traceRec_holds _ _ _ _ _ h)
  rw [partEnd]
  have hend : ∀ (u : State) (f : Task → Task), I.holds u → I.holds { updTask (dropWaiters u c p.task) p.task f with lines := (updTask (dropWaiters u c p.task) p.task f).lines.map fun e =>
      (e.1, { e.2 with armed := e.2.armed.filter (· ≠ c), strikers := e.2.strikers.filter fun k => k.1 ≠ c }) } :=
    fun u f hu => withLines_holds _ (updTask_holds _ _ (setCluster_holds _ _ hu))
  dsimp only
  split
  · exact ite_holds (taskFinish_holds _ (setCore_holds _ _ (hend _ _ (ite_holds h (hrec _ _ _))))) (setCore_holds _ _ (hend _ _ (ite_holds h (hrec _ _ _))))
  · exact setCore_holds _ _ (hend _ _ (ite_holds h (hrec _ _ _)))

theorem leaveNow_holds (c code : Nat) (h : I.holds s) : I.holds (leaveNow s c code) := by
  have hf := flushEngines_holds c h
  rw [leaveNow]
  dsimp only
  split
  · exact hf
  · exact partEnd_holds _ _ _ (I.free hf rfl)

theorem endPartFenced_holds (c : Nat) (t : Task) (einfo : Word) (jig : Nat) (h : I.holds s) : I.holds (endPartFenced s c t einfo jig) := by
  have hu := updTask_holds t.id (fun t => { firstExc t { ecode := 0, jigcode := jig, core := c, einfo, stc := s.stc } with faulted := true }) h
  refine ite_holds (leaveNow_holds _ _ hu) ?_
  split
  · exact partEnd_holds _ _ _ hu
  · exact partEnd_holds _ _ _ hu

theorem flushCore_holds (c : Nat) (h : I.holds s) : I.holds (flushCore s c) :=
  setCore_holds _ _ (foldl_holds _ (fun _ l ht => ite_holds (evictDirty_holds _ l ht) ht) _ h)

/-! Host snoops. -/

theorem devCheck_holds (l : CLine) (h : I.holds s) : I.holds (devCheck s l).2 := fireInjection_holds _ _ _ _ (fireInjection_holds _ _ _ _ h)

theorem wakeWatch_holds (k : Nat) (h : I.holds s) : I.holds (wakeWatch s k) :=
  foldl_holds _ (fun _ _ ht => ite_holds (globalCtr_holds _ _ (by decide) (setGctx_holds _ _ ht)) ht) _ h

theorem snpHit_holds (l : CLine) (data : Bool) (h : I.holds s) : I.holds (snpHit s l data) := send_holds _ (globalCtr_holds _ _ (by decide) h)

theorem snoopData_holds (k : Nat) (h : I.holds s) : I.holds (snoopData s k) := by
  refine foldl_holds _ (fun t x ht => ?_) _ (flushWb_holds _ _ h)
  split
  · exact ite_holds (devWriteBack_holds _ _ _ (dropHolderLine_holds _ _ ht)) (setHolderLine_holds _ _ _ ht)
  · exact ht

theorem snpInv_holds (k : Nat) (h : I.holds s) : I.holds (snpInv s k) := by
  have h1 : I.holds (wakeWatch (recallLine s true k) k) := wakeWatch_holds _ (recallLine_holds _ _ h)
  rw [snpInv]
  dsimp only
  split
  · exact snpHit_holds _ _ (dropDev_holds _ (devCheck_holds _ h1))
  · exact send_holds _ h1

theorem snpData_holds (k : Nat) (h : I.holds s) : I.holds (snpData s k) := by
  have h1 : I.holds (wakeWatch (snoopData s k) k) := wakeWatch_holds _ (snoopData_holds _ h)
  rw [snpData]
  dsimp only
  split
  · exact snpHit_holds _ _ (putDev_holds _ _ (devCheck_holds _ h1))
  · exact send_holds _ h1

theorem snpCur_holds (k : Nat) (h : I.holds s) : I.holds (snpCur s k) := by
  rw [snpCur]
  split
  · exact snpHit_holds _ _ (putDev_holds _ _ (devCheck_holds _ h))
  · exact send_holds _ h

theorem serveSnoops_holds (k : Nat) (h : I.holds s) : I.holds (serveSnoops s k) := by
  refine ite_holds (foldl_holds _ (fun t x ht => ?_) _ (I.free h rfl)) h
  rw [snpAnswer]
  split
  · exact snpInv_holds _ ht
  · exact snpData_holds _ ht
  · exact snpCur_holds _ ht

theorem serveAllSnoops_holds (h : I.holds s) : I.holds (serveAllSnoops s) := foldl_holds _ (fun _ _ ht => serveSnoops_holds _ ht) _ h

/-! Fences and aborts. -/

theorem departCore_holds (c : Nat) (gated : Bool) (h : I.holds s) : I.holds (departCore s c gated) :=
  setRf_kept _ _ _ _ (by decide) (by decide) (setRf_kept _ _ _ _ (by decide) (by decide) (foldl_holds _ (fun _ _ ht => ite_holds (setRf_kept _ _ _ _ (by decide) (by decide) ht) ht) _ (setRf_kept _ _ _ _ (by decide) (by decide) h)))

theorem departCluster_holds (cl : Nat) (h : I.holds s) : I.holds (departCluster s cl) :=
  setRf_kept _ _ _ _ (by decide) (by decide) (foldl_holds _ (fun _ _ ht => ite_holds (setRf_kept _ _ _ _ (by decide) (by decide) ht) ht) _ (setRf_kept _ _ _ _ (by decide) (by decide) h))

theorem withWork_holds (tx : List Txn) (po : Power) (cb : List CopyBack) (sr : List SlotRel) (sh : List Share) (h : I.holds s) :
    I.holds { s with txns := tx, power := po, copyBacks := cb, slotRels := sr, shares := sh } := I.free h rfl

theorem fenceOne_holds (c : Nat) (einfo : Word) (mark inRegion : Bool) (h : I.holds s) : I.holds (fenceOne s c einfo mark inRegion) := by
  have hparts : ∀ (l : List Task) (u : State), I.holds u → I.holds (l.foldl (fun s t => endPartFenced s c t einfo (if inRegion then 7 else 0)) u) :=
    fun l _ hu => foldl_holds _ (fun _ t ht => endPartFenced_holds _ t _ _ ht) l hu
  have hflush : ∀ u : State, I.holds u → I.holds (flushCore ((u.txns.filter fun t => t.core = c).foldl txnWriteBack u) c) :=
    fun _ hu => flushCore_holds c (foldl_holds _ (fun _ x ht => txnWriteBack_holds x ht) _ hu)
  have hdepart : ∀ (u : State) (k : Core) (tx : List Txn) (po : Power) (cb : List CopyBack) (sr : List SlotRel) (sh : List Share), I.holds u →
      I.holds (serveAllSnoops (departCore { setCore u c k with txns := tx, power := po, copyBacks := cb, slotRels := sr, shares := sh } c false)) :=
    fun _ _ _ _ _ _ _ hu => serveAllSnoops_holds (departCore_holds _ _ (withWork_holds _ _ _ _ _ (setCore_holds _ _ hu)))
  have h1 := updProg_holds c (fun p => { p with armed := false, jig := none }) h
  refine ite_holds h (ite_holds (setRf_kept _ _ _ _ (by decide) (by decide) ?_) ?_)
  · exact hdepart _ _ _ _ _ _ _ (hflush _ (hparts _ _ h1))
  · exact hdepart _ _ _ _ _ _ _ (hflush _ (hparts _ _ h1))

theorem jigEndRecs_holds (c : Nat) (p : Prog) (code : Nat) (h : I.holds s) : I.holds (jigEndRecs s c p code) :=
  coreRing_holds _ _ _ _ (traceRec_holds _ _ _ _ _ h)

theorem mixChunk_holds (u : Undo) (h : I.holds s) : I.holds (mixChunk s u) :=
  ite_holds (freeNat_holds h) (setChunkPoison_holds _ _ (setBytes_holds _ _ (freeNat_holds h)))

theorem withUndo_holds (l : List Undo) (h : I.holds s) : I.holds { s with undo := l } := I.free h rfl

theorem abortTrace_holds (c : Nat) (j : Jig) (h : I.holds s) : I.holds (abortTrace s c j) := by
  have h1 := slipEnd_holds c (withUndo_holds (((s.undo.filter fun u => u.core = c).foldl mixChunk s).undo.filter fun u => u.core ≠ c)
    (foldl_holds _ (fun _ u ht => mixChunk_holds u ht) (s.undo.filter fun u => u.core = c) h))
  rw [abortTrace]
  split
  · exact setRf_kept _ _ _ _ (by decide) (by decide) h1
  · exact h1

theorem fencedPart_holds (c : Nat) (h : I.holds s) : I.holds (fencedPart s c) := by
  rw [fencedPart]
  split
  · split
    · exact updProg_holds _ _ (jigEndRecs_holds _ _ _ (abortTrace_holds _ _ h))
    · exact h
  · exact h

theorem sealEpc_holds (c : Nat) (p : Prog) (j : Jig) (h : I.holds s) : I.holds (sealEpc s c p j).2 := by
  rw [sealEpc]
  dsimp only
  split
  · split
    · exact h
    · exact freeNat_holds h
  · exact h

theorem mixSlots_holds {α : Type} [DecidableEq α] (old new : SMap α) (n : Nat) (st : State × SMap α) (h : I.holds st.1) :
    I.holds (mixSlots old new n st).1 := by
  induction n with
  | zero => exact h
  | succ n ih =>
    rw [mixSlots]
    dsimp only
    split
    · exact ih
    · split
      · exact freeNat_holds ih
      · exact freeNat_holds ih

theorem leaveRest_holds (c code : Nat) (h : I.holds s) : I.holds (leaveRest s c code) := by
  rw [leaveRest]
  split
  · exact h
  · exact ite_holds (leaveNow_holds _ _ h) (setCore_holds _ _ (withLines_holds _ (setCluster_holds _ _ h)))

theorem noteException_holds (c code : Nat) (einfo : Word) (jig : Nat) (h : I.holds s) : I.holds (noteException s c code einfo jig) := by
  rw [noteException]
  split
  · exact h
  · exact updTask_holds _ _ h

theorem withLinesOut_holds (l : SMap StrikeLine) (d : List DtReq) (h : I.holds s) : I.holds { s with lines := l, dtOut := d } := I.free h rfl

theorem takeException_holds (c code : Nat) (einfo : Word) (eaddr epc : BitVec 52) (h : I.holds s) : I.holds (takeException s c code einfo eaddr epc) := by
  rw [takeException]
  split
  · exact h
  · next p _ =>
    have h1 : ∀ w (k : Core) (l : SMap StrikeLine) (d : List DtReq), I.holds
        { setCore (noteException (coreRing s c 0x03 p.ctx.toNat w) c code einfo p.jcode.toNat) c k with lines := l, dtOut := d } := fun w k l d =>
      withLinesOut_holds l d (setCore_holds c k (noteException_holds c code einfo p.jcode.toNat (coreRing_holds c 0x03 p.ctx.toNat w h)))
    exact ite_holds (leaveRest_holds _ _ (flushEngines_holds _ (h1 _ _ _ _))) (setProg_holds _ _ (h1 _ _ _ _))

theorem abortAt_holds (c code orig : Nat) (einfo : Word) (eaddr : Nat) (h : I.holds s) : I.holds (abortAt s c code orig einfo eaddr) := by
  have h1 := flushEngines_holds c h
  rw [abortAt]
  dsimp only
  split
  · exact h1
  · next p _ =>
    split
    · exact h1
    · next j _ =>
      have h2 := mixSlots_holds j.rules0 p.rules 16 (_, p.rules) (mixSlots_holds j.curves0 p.curves 8 (_, p.curves) (mixSlots_holds j.cb0 p.cb 16 (_, p.cb)
        (mixSlots_holds j.fmt0 p.fmt 32 (_, p.fmt) (sealEpc_holds c p j h1))))
      exact takeException_holds _ _ _ _ _ (jigEndRecs_holds _ _ _ (setProg_holds _ _ (abortTrace_holds _ _ h2)))

theorem fenceCores_holds (l : List Nat) (einfo : Word) (mark : Bool) (h : I.holds s) : I.holds (fenceCores s l einfo mark) :=
  foldl_holds _ (fun _ _ ht => fenceOne_holds _ _ _ _ ht) _
    (foldl_holds _ (fun _ _ ht => fencedPart_holds _ ht) _ (foldl_holds _ (fun _ _ ht => abortAt_holds _ _ _ _ _ ht) _ h))

theorem fenceCluster_holds (cl : Nat) (einfo : Word) (h : I.holds s) : I.holds (fenceCluster s cl einfo) :=
  ite_holds h (setRf_kept _ _ _ _ (by decide) (by decide) (departCluster_holds _ (setCluster_holds _ _
    (foldl_holds _ (fun _ _ ht => ite_holds (ccWriteBack_holds _ _ ht) ht) _ (fenceCores_holds _ _ _ h)))))

/-! What resets share. -/

theorem releaseCaps_holds (l : List Nat) (h : I.holds s) : I.holds (releaseCaps s l) := foldl_holds _ (fun _ _ ht => refStep_holds _ _ ht) _ h

theorem offcutWrite_holds (c : BitVec 12) (ws : List Word) (h : I.holds s) : I.holds (offcutWrite s c ws) :=
  setRf_kept _ _ _ _ (by decide) (by decide) (gfeWrite_holds _ _ (gfeRing_holds _ _ _ h))

theorem indeterminate_holds (h : I.holds s) : I.holds (indeterminate s) :=
  foldl_holds _ (fun _ _ ht => offcutWrite_holds _ _ (ite_holds ht (setGctx_holds _ _ ht))) _ h

theorem withHreqs_holds (l : List HostReq) (h : I.holds s) : I.holds { s with hreqs := l } := I.free h rfl

theorem cxlRequest_holds (agent kind line off : Nat) (d : List Byte) (p : Bool) (h : I.holds s) : I.holds (cxlRequest s agent kind line off d p) := by
  have h1 := globalCtr_holds 75 d.length (by decide) (withHreqs_holds (s.hreqs ++ [{ line, kind, core := agent, off, data := d, poison := p }]) h)
  exact ite_holds (send_holds _ h1) (upstream_holds _ h1)

theorem withDevc_holds (m : SMap CLine) (h : I.holds s) : I.holds { s with devc := m } := I.free h rfl

theorem devFlush_holds (h : I.holds s) : I.holds (devFlush s) := by
  refine withDevc_holds [] (foldl_holds _ (fun _ _ ht => ite_holds (setGctx_holds _ _ (cxlRequest_holds _ _ _ _ _ _ ht)) ht) _
    (foldl_holds _ (fun _ _ ht => ite_holds (cxlRequest_holds _ _ _ _ _ _ (devCheck_holds _ ht)) (cxlRequest_holds _ _ _ _ _ _ ht)) _ h))

theorem writeBackAll_holds (h : I.holds s) : I.holds (writeBackAll s) := by
  have h1 : I.holds (s.txns.foldl txnWriteBack s) := foldl_holds _ (fun _ x ht => txnWriteBack_holds x ht) _ h
  refine foldl_holds _ (fun _ _ ht => foldl_holds _ (fun _ _ hu => ite_holds (ccWriteBack_holds _ _ hu) hu) _ ht) _
    (foldl_holds _ (fun _ _ ht => foldl_holds _ (fun _ _ hu => ite_holds (ite_holds (devWriteBack_holds _ _ _ hu) (chunkWrite_holds _ _ _ _ _ _ hu)) hu) _ ht) _ h1)

theorem computeClear_holds (h : I.holds s) : I.holds (computeClear s) := I.free h rfl

theorem performLocal_holds (h : I.holds s) : I.holds (performLocal s) := by
  refine foldl_holds _ (fun t x ht => ?_) _ (I.frame h rfl)
  split
  · exact gfeWrite_holds _ _ ht
  · exact refStep_holds _ _ ht
  · exact ht

theorem setPhase_holds (p : Nat) (h : I.holds s) : I.holds (setPhase s p) := setRf_kept _ _ _ _ (by decide) (by decide) h

/-! Fault reactions, for a predicate that does not see the image. -/

section
variable (himg : ∀ (t : State) (p : Power) (f : SMap (SMap Word)), I.holds t → I.holds { t with mcImage := none, power := p, heldFmts := f })
include himg

theorem enterBsm_holds (g : Bool) (h : I.holds s) : I.holds (enterBsm s g) :=
  setPhase_holds _ (setRf_kept _ _ _ _ (by decide) (by decide) (setReg_kept _ _ (by decide) (by decide) (setRf_kept _ _ _ _ (by decide) (by decide) (himg _ _ _ (serveAllSnoops_holds (disableContexts_holds (performLocal_holds
    (computeClear_holds (devFlush_holds (writeBackAll_holds (releaseCaps_holds _ (ite_holds h (indeterminate_holds h)))))))))))))

theorem reactNow_holds (b : Blk) (code : Nat) (u : Option Nat) (ff : Word) (h : I.holds s) : I.holds (reactNow s b code u ff) := by
  refine ite_holds h ?_
  split
  · exact fenceCores_holds _ _ _ h
  · exact fenceCluster_holds _ _ h
  · exact fenceCluster_holds _ _ h
  · exact fenceCluster_holds _ _ h
  · exact enterBsm_holds himg _ h
  · exact h

theorem react_holds (b : Blk) (code : Nat) (u : Option Nat) (h : I.holds s) : I.holds (react s b code u) :=
  ite_holds h (ite_holds (I.free h rfl) (reactNow_holds himg _ _ _ _ h))

omit himg in
theorem eventLevel_holds (b : Blk) {src : Nat} (hsrc : src < 32) (d : SrcDef) (h : I.holds s) : I.holds (eventLevel s b src d).2 := by
  have h1 : ∀ m : SMap Word, I.holds { s with wstart := m } := fun _ => I.free h rfl
  have h2 : ∀ (t : State) v, I.holds t → I.holds (setRf t b (0x800 + 8 * src) 31 0 v) := fun t v ht => setRf_kept _ _ _ _ (by omega) (by omega) ht
  exact snd_ite_holds h (snd_ite_holds (h2 _ _ (ite_holds (h1 _) h)) (h2 _ _ (ite_holds (h1 _) h)))

omit himg in
theorem sources_length (b : Blk) : (sources b).length ≤ 32 := by
  cases b
  all_goals exact Nat.le_of_ble_eq_true rfl

omit himg in
/-- More marks in a block's fault status. -/
theorem status_or {b : Blk} (x y : Word) (h : I.holds s) : I.holds (setReg s b 0x40 (reg s b 0x40 ||| x ||| y)) := I.status (fun i _ hi => by
  rw [flag] at hi ⊢
  rw [BitVec.getLsbD_or, BitVec.getLsbD_or, hi]
  rfl) h

omit himg in
/-- The level in a block's fault status. -/
theorem status_level (b : Blk) (v : Nat) (h : I.holds s) : I.holds (setRf s b 0x40 63 61 v) := by
  refine I.status (fun i hi hf => ?_) h
  rw [flag_setFld_of_apart _ _ _ _ _ (Or.inl hi)]
  exact hf

omit himg in
/-- The count and the time of an event, after its status. -/
theorem eventCount_holds (b : Blk) {src : Nat} (hsrc : src < 32) (v : Nat) (w : Word) (h : I.holds s) :
    I.holds (setReg (setRf s b 0x48 15 0 v) b (0xB00 + 8 * src) w) :=
  setReg_kept _ _ (by omega) (by omega) (setRf_kept _ _ _ _ (by decide) (by decide) h)

/-- A taken event marks its block's status with its own bit and the level, whatever else is set there. -/
theorem takeEvent_after (r : Raised) {d : SrcDef} (hd : (sources r.block)[r.src]? = some d)
    (h : ∀ x, I.holds (setReg (eventLevel s r.block r.src d).2 r.block 0x40 (reg (eventLevel s r.block r.src d).2 r.block 0x40 ||| place r.src r.src 1 ||| x))) :
    I.holds (takeEvent s r) := by
  have hsrc : r.src < 32 := Nat.lt_of_lt_of_le (List.getElem?_eq_some_iff.1 hd).1 (sources_length _)
  have hsig : ∀ (t : State) (n : Nat), I.holds t → I.holds (if n = 0 then t else if n ≤ 2 then signalCorr t 14 else signalUncorr t 22) :=
    fun t n ht => ite_holds ht (ite_holds (signalCorr_holds _ ht) (signalUncorr_holds _ ht))
  have hfirst : ∀ (t : State) w, I.holds t → I.holds (setReg t r.block 0x60 w) := fun t w ht => setReg_kept _ _ (by decide) (by decide) ht
  simp only [takeEvent, hd]
  refine react_holds himg _ _ _ (hsig _ _ ?_)
  refine ite_holds (eventCount_holds _ hsrc _ _ (status_level _ _ (h _))) ?_
  cases r.addr with
  | some a => exact setReg_kept _ _ (by decide) (by decide) (hfirst _ _ (eventCount_holds _ hsrc _ _ (status_level _ _ (h _))))
  | none => exact hfirst _ _ (eventCount_holds _ hsrc _ _ (status_level _ _ (h _)))

omit himg in
theorem takeEvent_none {r : Raised} (hd : (sources r.block)[r.src]? = none) : takeEvent s r = s := by
  simp only [takeEvent, hd]

theorem takeEvent_holds (r : Raised) (h : I.holds s) : I.holds (takeEvent s r) := by
  cases hd : (sources r.block)[r.src]? with
  | none => exact (takeEvent_none hd).symm ▸ h
  | some d =>
    have hsrc : r.src < 32 := Nat.lt_of_lt_of_le (List.getElem?_eq_some_iff.1 hd).1 (sources_length _)
    exact takeEvent_after himg r hd fun x => status_or _ _ (eventLevel_holds r.block hsrc d h)

theorem takeRaised_holds (n : Nat) (h : I.holds s) : I.holds (takeRaised n s) := by
  induction n generalizing s with
  | zero => exact h
  | succ n ih => exact ite_holds h (ih (foldl_holds _ (fun _ r ht => takeEvent_holds himg r ht) _ (I.free h rfl)))

theorem settle_holds (h : I.holds s) : I.holds (settle s) := settleIrq_holds (takeRaised_holds himg 4 h)

end

end Sys2Proof.Machine
end

section
/-! SUPPORT. The bytes that a cleared range leaves; work in the monad M that keeps a predicate, whether it ends or stops. -/

namespace Sys2Proof.Machine

open Sys2Proof

/-- A filter that keeps a key leaves what a canonical map holds there. -/
theorem mapGet_filter {α : Type} [DecidableEq α] (d : Nat → α) (p : Nat × α → Bool) (a : Nat) (hp : ∀ v, p (a, v) = true) (m : List (Nat × α)) (lo : Nat)
    (h : mapWfFrom d lo m = true) : mapGet d (m.filter p) a = mapGet d m a := by
  induction m generalizing lo with
  | nil => rfl
  | cons e t ih =>
    obtain ⟨k, v⟩ := e
    simp only [mapWfFrom, Bool.and_eq_true] at h
    have iht := ih (k + 1) h.2
    by_cases hk : p (k, v) = true
    · rw [List.filter_cons_of_pos hk, mapGet, mapGet, iht]
    · have hne : a ≠ k := fun he => hk (he ▸ hp v)
      rw [List.filter_cons_of_neg hk, iht, mapGet, if_neg hne]
      split
      · next hlt => exact mapGet_below d t (k + 1) a h.2 (by omega)
      · rfl

theorem memByte_zeroRange_other {s : State} {base size a : Nat} (h : Memory.wf s.mem = true) (ha : ¬(base ≤ a ∧ a < base + size)) :
    memByte (zeroRange s base size) a = memByte s a := by
  refine mapGet_filter memDefault _ a (fun v => ?_) s.mem 0 h
  simp only [Bool.not_eq_true', Bool.and_eq_false_iff, decide_eq_false_iff_not]
  omega

/-- The state that a piece of work leaves, ended or stopped. -/
def leftBy {α : Type} : EStateM.Result Stop State α → State
  | .ok _ s => s
  | .error _ s => s

/-- The work `x` at `s` leaves a state of the predicate. -/
def Leaves (I : OpenKept) {α : Type} (x : M α) (s : State) : Prop := I.holds (leftBy (x s))

variable {I : OpenKept} {s : State}

theorem leaves_ite {α : Type} {c : Prop} [Decidable c] {x y : M α} (hx : Leaves I x s) (hy : Leaves I y s) : Leaves I (if c then x else y) s := by
  split
  · exact hx
  · exact hy

theorem leaves_get_bind {α : Type} {f : State → M α} (h : Leaves I (f s) s) : Leaves I (get >>= f) s := h

theorem leaves_throw_bind {α β : Type} {e : Stop} {f : α → M β} (h : I.holds s) : Leaves I (throw e >>= f) s := h

theorem leaves_set_bind {α : Type} {t : State} {f : PUnit → M α} (h : Leaves I (f ⟨⟩) t) : Leaves I (set t >>= f) s := h

theorem leaves_modify_bind {α : Type} {g : State → State} {f : PUnit → M α} (h : Leaves I (f ⟨⟩) (g s)) : Leaves I (modify g >>= f) s := h

/-- A check that stops the work, and then the rest. -/
theorem leaves_guard {α : Type} {c : Prop} [Decidable c] {e : Stop} {x : PUnit → M α} {y : M α} (h : I.holds s) (hy : Leaves I y s) :
    Leaves I (if c then (throw e >>= x) else y) s := leaves_ite (leaves_throw_bind h) hy

theorem requestLine_holds (c set : Nat) (t : Target) (own noData prefetch : Bool) (h : I.holds s) : I.holds (requestLine s c set t own noData prefetch) :=
  ite_holds h (ite_holds h (I.free h rfl))

theorem drainMiss_leaves (c : Nat) (b : BufStore) (h : I.holds s) : Leaves I (drainMiss c b) s := by
  refine leaves_get_bind ?_
  cases failedFill s c b.tgt with
  | some _ => exact setCore_holds c _ h
  | none => exact requestLine_holds _ _ _ _ _ _ h

theorem hostNcStore_leaves (c : Nat) (b : BufStore) (h : I.holds s) : Leaves I (hostNcStore c b) s := by
  refine leaves_get_bind (leaves_guard h ?_)
  cases devLine s (lineOf b.tgt) with
  | some e =>
    refine leaves_ite ?_ (leaves_guard h (leaves_set_bind (cxlRequest_holds _ _ _ _ _ _ h : I.holds (cxlRequest s c 1 (lineOf b.tgt) 0 [] false))))
    exact ctxCtr_holds _ _ _ (by decide) (putDev_holds _ _ (recallLine_holds _ _ h))
  | none =>
    cases (core s c).ncLine with
    | some l => exact leaves_set_bind (leaves_ite (setCore_holds c _ h) (setCore_holds c _ h))
    | none => exact leaves_guard h (globalCtr_holds _ _ (by decide) (cxlRequest_holds _ _ _ _ _ _ h))

theorem hostWrite_leaves (w : Who) (k off : Nat) (d : List Byte) (p : Bool) (h : I.holds s) : Leaves I (hostWrite w k off d p) s := by
  have hr := snoopAll_holds true k true h
  have hctr : ∀ c, I.holds (ctxCtr (snoopAll s true k true).1 c 6 d.length) := fun c => ctxCtr_holds _ _ _ (by decide) hr
  have hput : ∀ (u : State) (slot : Nat) (l : CLine), I.holds u → Leaves I (set (putDev u slot l)) s := fun _ _ _ hu => putDev_holds _ _ hu
  have hask : ∀ (u : State) a b, I.holds u → Leaves I (set (cxlRequest u a b k off d p)) s := fun _ _ _ hu => cxlRequest_holds _ _ _ _ _ _ hu
  refine leaves_get_bind (leaves_guard h ?_)
  cases w.ctx with
  | some c =>
    dsimp only
    split
    · exact leaves_ite (hput _ _ _ (hctr c)) (hask _ _ _ (dropDev_holds _ (hctr c)))
    · exact hask _ _ _ (hctr c)
  | none =>
    dsimp only
    split
    · exact leaves_ite (hput _ _ _ hr) (hask _ _ _ (dropDev_holds _ hr))
    · exact hask _ _ _ hr

theorem cohWrite_leaves (w : Who) (t : Target) (k off : Nat) (d : List Byte) (p : Bool) (h : I.holds s) : Leaves I (cohWrite w t k off d p) s := by
  refine leaves_get_bind (leaves_ite (chunkWrite_holds _ _ _ _ _ _ h) (leaves_guard h (leaves_ite (leaves_set_bind (sendBis_holds _ _ h)) (leaves_guard h ?_))))
  have hr := snoopAll_holds false k true (useBis_holds k h)
  dsimp only
  generalize snoopAll (useBis s k) false k true = r at hr ⊢
  have hctr : ∀ (cl : Nat) (c : Prop) [Decidable c], I.holds (clusterCtr r.1 cl (if c then 0 else 1) 1) := fun cl c _ => clusterCtr_holds cl _ _ (by split <;> decide) hr
  split
  · next cl _ _ _ =>
    refine ccInsert_holds (s := _) _ _ ?_
    refine snd_ite_holds (hctr _ _) ?_
    split
    · exact hctr _ _
    · exact chunkRead_holds _ _ _ _ _ (hctr _ _)
  · refine chunkWrite_holds (s := _) _ _ _ _ _ _ ?_
    split
    · exact ite_holds (chunkWrite_holds _ _ _ _ _ _ hr) hr
    · exact hr

theorem noteIo_holds (c : Option Nat) (h : I.holds s) : I.holds (noteIo s c) := by
  cases c with
  | some c => exact I.free h rfl
  | none => exact h

theorem writePart_leaves (w : Who) (t : Target) (k off : Nat) (d : List Byte) (p : Bool) (h : I.holds s) : Leaves I (writePart w t k off d p) s := by
  refine leaves_ite (leaves_modify_bind ?_) (leaves_ite (hostWrite_leaves _ _ _ _ _ h) (cohWrite_leaves _ _ _ _ _ _ h))
  have h1 : I.holds (globalCtr (upstream (noteIo s w.core) (.ioWrite (k * 64 + off) d p)) 73 d.length) :=
    globalCtr_holds _ _ (by decide) (upstream_holds _ (noteIo_holds _ h))
  cases w.ctx with
  | some c => exact ctxCtr_holds _ _ _ (by decide) h1
  | none => exact h1

theorem drainStore_leaves (c : Nat) (b : BufStore) (h : I.holds s) : Leaves I (drainStore c b) s := by
  refine leaves_get_bind (leaves_ite (leaves_ite (hostNcStore_leaves _ _ h) (writePart_leaves _ _ _ _ _ _ h)) ?_)
  cases ownCopy s c b.tgt with
  | some e => exact leaves_ite (setCore_holds c _ h) (drainMiss_leaves _ _ h)
  | none => exact drainMiss_leaves _ _ h

/-! The host's accesses. -/

theorem signalAdvisory_holds (i : Nat) (h : I.holds s) : I.holds (signalAdvisory s i) := by
  have h1 : I.holds (markCorr s 13) := I.free h rfl
  have h2 := markUncorr_holds i h1
  exact ite_holds (signalUncorr_holds _ h) (ite_holds h1 (ite_holds (send_holds _ h2) h2))

theorem logUnsupported_holds (posted : Bool) (h : I.holds s) : I.holds (logUnsupported s posted) := by
  have h1 := orCfg_holds 0x78 0x80000 h
  exact ite_holds h (ite_holds (signalUncorr_holds _ h1) (signalAdvisory_holds _ h1))

theorem apRead_holds (w : Word) (l : List (Nat × Nat × Nat)) (h : I.holds s) : I.holds (apRead w l s).2 := by
  induction l generalizing s with
  | nil => exact h
  | cons q t ih => exact ih (chunkRead_holds _ _ _ _ _ h)

theorem apWrite_holds (w : Word) (p : Bool) (l : List (Nat × Nat × Nat)) (d : List Byte) (h : I.holds s) : I.holds (apWrite w p l d s) := by
  induction l generalizing s d with
  | nil => exact h
  | cons q t ih => exact ih _ (chunkWrite_holds _ _ _ _ _ _ h)

end Sys2Proof.Machine
end

section
/-! PROOFS. The obligation on the memory's canonical form. -/

namespace Sys2Proof.Claims

open Sys2Proof Sys2Proof.Machine

/-- The memory is in its canonical form. -/
def canonicalMemory : OpenKept where
  holds s := Memory.wf s.mem = true
  frame h e := (congrArg (fun v => Memory.wf v.1) e).trans h
  free h e := (congrArg (fun v => Memory.wf v.1) e).trans h
  reg _ _ h := h
  regs _ _ h := h
  status _ h := h
  anyReg _ _ _ h := h
  byte a v h := setByte_wf _ a v h
  caches _ _ _ h := h
  prog c f _ h := by
    rw [updProg]
    split
    · exact h
    · exact h
  dev _ _ _ _ _ h := h
  zero base size h := zeroRange_wf _ base size h

/-- The command leads, if to a next state, to one with a canonical memory. -/
def EndsCanonical (o : Out) : Prop := ∀ t, o = .next t → Memory.wf t.mem = true

theorem endsCanonical_done {s : State} (h : canonicalMemory.holds s) : EndsCanonical (done s) := by
  intro t ht
  rw [← Host.Outcome.next.inj ht]
  exact settle_holds (I := canonicalMemory.toSettleKept) (fun _ _ _ h => h) h

theorem endsCanonical_idle {s : State} (h : canonicalMemory.holds s) : EndsCanonical (idle s) := by
  intro t ht
  rw [← Host.Outcome.next.inj ht]
  exact settleIrq_holds (I := canonicalMemory.toSettleKept) h

theorem endsCanonical_ite {c : Prop} [Decidable c] {x y : Out} (hx : EndsCanonical x) (hy : EndsCanonical y) : EndsCanonical (if c then x else y) := by
  split
  · exact hx
  · exact hy

section
variable {s : State} (h : canonicalMemory.holds s)
include h

theorem hostMemrd_endsCanonical (a : Nat) (c : Bool) : EndsCanonical (exec (.hostMemrd a c) s) := by
  change EndsCanonical (execHostMemrd a c s)
  rw [execHostMemrd]
  refine endsCanonical_ite (endsCanonical_idle h) ?_
  split
  · exact endsCanonical_done h
  · next a bi _ =>
    have hr : ∀ b : Bool, canonicalMemory.holds (if b = true then snoopAll s false (a / 64) false else (s, snoopNone)).1 := by
      intro b
      cases b with
      | true => exact snoopAll_holds _ _ _ h
      | false => exact h
    have h1 := hr bi
    dsimp only
    refine endsCanonical_ite (endsCanonical_idle h) (endsCanonical_done ?_)
    generalize (if bi = true then snoopAll s false (a / 64) false else (s, snoopNone)) = r at h1 ⊢
    refine globalCtr_holds _ _ (by decide) (send_holds _ (ite_holds
      (canonicalMemory.frame (useBis_holds (a / 64) ?_) rfl) ?_))
    all_goals
      split
      · exact h1
      · exact chunkRead_holds _ _ _ _ _ h1

theorem hostMemwr_endsCanonical (a : Nat) (d : List Byte) (p : Bool) : EndsCanonical (exec (.hostMemwr a d p) s) := by
  change EndsCanonical (execHostMemwr a d p s)
  rw [execHostMemwr]
  refine endsCanonical_ite (endsCanonical_idle h) ?_
  split
  · exact endsCanonical_done (send_holds _ h)
  · exact endsCanonical_ite (endsCanonical_idle h) (endsCanonical_done (globalCtr_holds _ _ (by decide) (send_holds _ (chunkWrite_holds _ _ _ _ _ _
      (ite_holds (snoopAll_holds _ _ _ h) h)))))

theorem bar4Read_endsCanonical (o n : Nat) : EndsCanonical (exec (.bar4Read o n) s) := by
  have href : canonicalMemory.holds (refuseRead s) := send_holds _ (logUnsupported_holds _ h)
  refine endsCanonical_ite (endsCanonical_idle h) (endsCanonical_ite (endsCanonical_done href) ?_)
  split
  · exact endsCanonical_done (send_holds _ (apRead_holds _ _ (globalCtr_holds _ _ (by decide) h)))
  · exact endsCanonical_done href

theorem bar4Write_endsCanonical (o : Nat) (d : List Byte) (p : Bool) : EndsCanonical (exec (.bar4Write o d p) s) := by
  have href : canonicalMemory.holds (logUnsupported s true) := logUnsupported_holds _ h
  refine endsCanonical_ite (endsCanonical_idle h) (endsCanonical_ite (endsCanonical_done href) ?_)
  split
  · have h1 : canonicalMemory.holds (if p = true then poisonedTlp s else s) := ite_holds (signalAdvisory_holds _ (orCfg_holds _ _ h)) h
    exact endsCanonical_ite (endsCanonical_done h1) (endsCanonical_done (apWrite_holds _ _ _ _ (globalCtr_holds _ _ (by decide) h1)))
  · exact endsCanonical_done href

theorem storeBufferDrain_endsCanonical (k : CoreIx) (n : Nat) : EndsCanonical (exec (.storeBufferDrain k n) s) := by
  change EndsCanonical (execStoreBufferDrain k n s)
  rw [execStoreBufferDrain]
  dsimp only
  cases drainable (Machine.core s k.val).sbuf n with
  | none => exact endsCanonical_idle h
  | some b =>
    refine endsCanonical_ite (endsCanonical_idle h) ?_
    have hd : canonicalMemory.holds (leftBy (drainStore k.val b s)) := drainStore_leaves _ _ h
    rw [M_run]
    cases hx : drainStore k.val b s with
    | ok a t =>
      rw [hx] at hd
      exact endsCanonical_done (setCore_holds _ _ hd)
    | error e t =>
      rw [hx] at hd
      exact endsCanonical_done hd

end

/-- Settles O59. -/
theorem memoryStaysCanonical : Obligations.MemoryStaysCanonical := by
  intro s hw
  have h : canonicalMemory.holds s := hw
  refine ⟨fun a d => ⟨setBytes_wf _ a d hw, memBytes_setBytes _ a d hw, fun b hb => memByte_setBytes_other _ a b d hw hb⟩, fun base size a => ⟨zeroRange_wf _ base size hw, ?_⟩,
    fun w k off d p key => chunkWrite_wf _ w k off d p key hw, fun i t hi => ?_⟩
  · by_cases ha : base ≤ a ∧ a < base + size
    · rw [if_pos ha, memByte_zeroRange_self ha.1 ha.2]
    · rw [if_neg ha]
      exact memByte_zeroRange_other hw ha
  · refine (?_ : EndsCanonical (exec i s)) t
    obtain rfl | rfl | ⟨a, c, rfl⟩ | ⟨a, d, p, rfl⟩ | ⟨o, n, rfl⟩ | ⟨o, d, p, rfl⟩ | ⟨k, n, rfl⟩ | ⟨k, rfl⟩ := hi
    · exact endsCanonical_done (rfl : Memory.wf [] = true)
    · exact endsCanonical_ite (endsCanonical_done (setPhase_holds _ (raise_any _ _ _ (canonicalMemory.zero _ _ h)))) (endsCanonical_idle h)
    · exact hostMemrd_endsCanonical h a c
    · exact hostMemwr_endsCanonical h a d p
    · exact bar4Read_endsCanonical h o n
    · exact bar4Write_endsCanonical h o d p
    · exact storeBufferDrain_endsCanonical h k n
    · exact endsCanonical_ite (endsCanonical_done (flushWbOf_holds _ h)) (endsCanonical_idle h)

end Sys2Proof.Claims
end

section
/-! SUPPORT. Enables and held accesses (R41, R42). -/

namespace Sys2Proof.Machine

open Sys2Proof Sys2Proof.Claims

variable {s : State} {b : Blk}

/-! What an enable keeps. -/

section
variable {I : OpenKept}

theorem setWk_holds (b : Blk) (o : Nat) (w : Word) (h : I.holds s) : I.holds (setWk s b o w) := I.free h rfl

theorem ctxEnabled_holds (c : BitVec 12) (h : I.holds s) : I.holds (ctxEnabled s c) := by
  have hask : ∀ (t : State) (g : Gctx) (m : SMap RangeEnt), I.holds t → I.holds { setGctx t c g with atsCpl := m } := fun t g m ht => I.free (setGctx_holds c g ht) rfl
  have h1 : I.holds ((List.range 13).foldl (fun s i => setReg s (.ctx c) (0x1000 + 8 * i) 0) (setRf (setReg s (.ctx c) 0x10 0) (.ctx c) 0x8068 31 0 0)) :=
    foldl_holds _ (fun _ _ ht => I.anyReg _ _ _ ht) _ (setRf_any _ _ _ _ _ (I.anyReg _ _ _ h))
  have h2 := recheckWaits_holds (fun w => decide (w.1 = c.toNat)) h1
  exact ite_holds (cxlRequest_holds _ _ _ _ _ _ (hask _ _ _ h2)) (hask _ _ _ h2)

theorem resizeWindow_holds (cl old new : Nat) (h : I.holds s) : I.holds (resizeWindow s cl old new) :=
  I.zero _ _ (setCcache_holds _ _ (foldl_holds _ (fun _ e ht => ccWriteBack_holds _ e.2 ht) _ h))

theorem takeWork_holds (b : Blk) (h : I.holds s) : I.holds (takeWork s b) := I.free h rfl

theorem purgeXlt_holds (c : BitVec 12) (h : I.holds s) : I.holds (purgeXlt s c) := I.free h rfl

theorem withBeacon_holds (t : Word) (h : I.holds s) : I.holds { s with beaconHeard := false, lastBeacon := t, offset := none } := I.free h rfl

theorem enableBlock_holds (b : Blk) (h : I.holds s) : I.holds (enableBlock s b) := by
  have h1 := setRf_any b (hdrOff b + 8) 0 0 0 (setRf_any b (hdrOff b) 0 0 1 (takeWork_holds b h))
  cases b with
  | ctx c =>
    exact ctxEnabled_holds c (foldl_holds _ (fun _ _ ht => ite_holds ht (setWk_holds _ _ _ ht)) _ (purgeXlt_holds c h1))
  | cluster cl => exact resizeWindow_holds _ _ _ h1
  | dt => exact withBeacon_holds _ (setRf_any .dt 0x100 31 24 _ h1)
  | gfe | ep | pwr | dbg | fmp n | core n | stack n | drawer n => exact h1

theorem enabledBlock_holds (b : Blk) (h : I.holds s) : I.holds (enabledBlock s b) := by
  have h1 := enableBlock_holds b h
  cases b with
  | fmp n => exact ite_holds (setRf_any _ _ _ _ _ h1) h1
  | gfe | ep | pwr | dbg | dt | cluster n | core n | stack n | drawer n | ctx c => exact h1

end

/-- The held accesses are those of a given state. -/
def heldAs (m : SMap (List HeldAcc)) : OpenKept where
  holds s := s.held = m
  frame h e := (congrArg (fun v => v.2.2.1) e).trans h
  free h e := (congrArg (fun v => v.2.2.1) e).trans h
  reg _ _ h := h
  regs _ _ h := h
  status _ h := h
  anyReg _ _ _ h := h
  byte _ _ h := h
  caches _ _ _ h := h
  prog c f _ h := by
    rw [updProg]
    split
    · exact h
    · exact h
  dev _ _ _ _ _ h := h
  zero _ _ h := h

theorem heldAccs_enabledBlock : heldAccs (enabledBlock s b) b = heldAccs s b :=
  congrArg (fun m => mapGet (fun _ => []) m (blkNo b)) (enabledBlock_holds (I := heldAs s.held) b rfl)

/-! Held accesses. -/

theorem mapSet_default {α : Type} [DecidableEq α] (d : Nat → α) (k : Nat) (m : List (Nat × α)) (lo : Nat) (h : mapWfFrom d lo m = true)
    (hg : mapGet d m k = d k) : mapSet d m k (d k) = m := by
  induction m generalizing lo with
  | nil => simp [mapSet]
  | cons e t ih =>
    obtain ⟨k', v⟩ := e
    simp only [mapWfFrom, Bool.and_eq_true, decide_eq_true_eq, Bool.not_eq_true', decide_eq_false_iff_not] at h
    simp only [mapSet]
    simp only [mapGet] at hg
    split
    · rfl
    · next h1 =>
      split
      · next h2 =>
        rw [if_pos h2] at hg
        exact absurd (h2 ▸ hg) h.1.2
      · next h2 =>
        rw [if_neg h2, if_neg h1] at hg
        rw [ih _ h.2 hg]

theorem setHeldAccs_release (h : HeldAcc) (hw : mapWf (fun _ => []) s.held = true) (hn : heldAccs s b = []) :
    setHeldAccs (setHeldAccs s b [h]) b [] = s := by
  have hm : mapSet (fun _ => []) (mapSet (fun _ => []) s.held (blkNo b) [h]) (blkNo b) [] = s.held := by
    rw [mapSet_mapSet _ _ _ _ _ (List.cons_ne_nil _ _)]
    exact mapSet_default (fun _ => []) (blkNo b) s.held 0 hw hn
  change { s with held := mapSet (fun _ => []) (mapSet (fun _ => []) s.held (blkNo b) [h]) (blkNo b) [] } = s
  rw [hm]

theorem heldAccs_setHeldAccs (h : HeldAcc) (l : List HeldAcc) : heldAccs (setHeldAccs s b (h :: l)) b = h :: l :=
  mapGet_mapSet_self_of_ne _ _ _ _ (List.cons_ne_nil _ _)

/-! A write of the control register (R41, R42). -/

theorem hdrOff_div (b : Blk) : hdrOff b / 8 * 8 = hdrOff b := by
  have h : hdrOff b = 0 ∨ hdrOff b = 0x8000 := by cases b <;> simp [hdrOff]
  omega

theorem regFields_hdrOff (b : Blk) : regFields b (hdrOff b) ≠ [] := by
  have h : ¬hdrOff b < hdrOff b := by omega
  unfold regFields
  rw [if_neg h, Nat.sub_self]
  exact List.cons_ne_nil _ _

theorem writeAt_header (rq : Requester) (val : Word) (hk : rk b (hdrOff b) % 8 = 0) (h8 : hdrOff b / 8 * 8 = hdrOff b) :
    writeAt s b { rq, key := rk b (hdrOff b), size := 8, val } (hdrOff b)
      = blkCtl s b { rq, key := rk b (hdrOff b), size := 8, val } (writtenWord s b (hdrOff b) val) := by
  have hv : val &&& 18446744073709551615#64 = val := BitVec.and_allOnes
  simp [writeAt, h8, hk, writtenWord, hv]

section
variable {h : HeldAcc} {w : Word}

theorem blkCtl_enable (hw : flag w 0 = true) (he : blkEn s b = false) (hi : rbit s b (hdrOff b + 8) 0 = true) :
    blkCtl s b h w = enabledBlock (setReg s b (hdrOff b) (setFld w 0 0 0)) b := by
  simp only [blkCtl, hw, he, hi]
  cases b
  all_goals rfl

theorem blkCtl_hold (hw : flag w 0 = true) (he : blkEn s b = false) (hi : rbit s b (hdrOff b + 8) 0 = false) :
    blkCtl s b h w = setHeldAccs s b (heldAccs s b ++ [h]) := by
  simp only [blkCtl, hw, he, hi]
  rfl

theorem blkCtl_disable (hw : flag w 0 = false) (he : blkEn s b = true) :
    blkCtl s b h w = disableBlock (setReg s b (hdrOff b) (setFld w 0 0 1)) b := by
  simp only [blkCtl, hw, he]
  rfl

end

/-! The working copy (R41). -/

/-- A register has a field that is latched at the enable. -/
def latches (fs : List FieldDef) : Bool := fs.any fun f => f.ty = .rwd

theorem latches_hdrFields (o : Nat) : latches (hdrFields o) = false := by
  unfold hdrFields
  split
  all_goals rfl

theorem latches_faultFields (b : Blk) (o : Nat) : latches (faultFields b o) = false := by
  unfold faultFields
  split
  case h_8 =>
    split_ifs
    · rfl
    · rfl
    · split
      · rfl
      · rfl
    · split
      · rfl
      · rfl
  all_goals rfl

theorem latches_gfeFields (o : Nat) : latches (gfeFields o) = false := by
  unfold gfeFields
  split
  case h_20 => split_ifs <;> rfl
  all_goals rfl

theorem latches_epFields (o : Nat) : latches (epFields o) = false := by
  have hcomp : latches (componentFields o) = false := by
    unfold componentFields
    split_ifs <;> rfl
  unfold epFields
  split
  case h_13 =>
    split_ifs
    iterate 3 rfl
    exact hcomp
  all_goals rfl

theorem latches_pwrFields (o : Nat) : latches (pwrFields o) = false := by
  unfold pwrFields
  split
  case h_13 => split <;> rfl
  all_goals rfl

theorem latches_coreFields (o : Nat) : latches (coreFields o) = false := by
  unfold coreFields
  split
  case h_19 => split_ifs <;> rfl
  all_goals rfl

theorem latches_dbgFields (o : Nat) (h : latches (dbgFields o) = true) : o = 0x300 ∨ o = 0x308 := by
  unfold dbgFields at h
  split at h
  case h_9 => exact Or.inl rfl
  case h_10 => exact Or.inr rfl
  case h_14 =>
    split_ifs at h
    iterate 5 · cases h
    split at h
    · split at h
      · cases h
      · cases h
    · cases h
  all_goals cases h

/-- No register of the blocks whose enable does no more than all enables do has a latched field, but TRACE_CTL and TRACE_BASE. -/
theorem latched_regs {r : Nat} (hb : b = .gfe ∨ b = .ep ∨ b = .pwr ∨ b = .dbg ∨ (∃ n, b = .core n) ∨ (∃ n, b = .stack n) ∨ ∃ n, b = .drawer n)
    (hr : (regFields b r).any (fun f => f.ty = .rwd) = true) : b = .dbg ∧ (r = 0x300 ∨ r = 0x308) := by
  change latches (regFields b r) = true at hr
  have hh : latches (if r < hdrOff b then [] else hdrFields (r - hdrOff b)) = false := by
    split
    · rfl
    · exact latches_hdrFields _
  have hf := latches_faultFields b r
  unfold regFields at hr
  split at hr
  · next h => exact absurd (h ▸ hh) (by rw [hr]; exact Bool.noConfusion)
  · cases hff : faultFields b r with
    | cons f fs =>
      rw [hff] at hf
      obtain rfl | rfl | rfl | rfl | ⟨n, rfl⟩ | ⟨n, rfl⟩ | ⟨n, rfl⟩ := hb
      all_goals
        simp only [hff, hf] at hr
        cases hr
    | nil =>
      obtain rfl | rfl | rfl | rfl | ⟨n, rfl⟩ | ⟨n, rfl⟩ | ⟨n, rfl⟩ := hb
      all_goals simp only [hff] at hr
      · exact absurd hr (by rw [latches_gfeFields]; exact Bool.noConfusion)
      · exact absurd hr (by rw [latches_epFields]; exact Bool.noConfusion)
      · exact absurd hr (by rw [latches_pwrFields]; exact Bool.noConfusion)
      · exact ⟨rfl, latches_dbgFields r hr⟩
      · exact absurd hr (by rw [latches_coreFields]; exact Bool.noConfusion)
      · cases hr
      · cases hr

theorem mapGet_of_all_gt {α : Type} (d : Nat → α) (k : Nat) (m : List (Nat × α)) (h : ∀ e ∈ m, k < e.1) : mapGet d m k = d k := by
  cases m with
  | nil => rfl
  | cons e t =>
    have h1 := h e List.mem_cons_self
    rw [mapGet, if_neg (by omega), if_pos h1]

theorem mapGet_append_below {α : Type} (d : Nat → α) (k : Nat) (m n : List (Nat × α)) (h : ∀ e ∈ m, e.1 < k) : mapGet d (m ++ n) k = mapGet d n k := by
  induction m with
  | nil => rfl
  | cons e t ih =>
    have h1 := h e List.mem_cons_self
    rw [List.cons_append, mapGet, if_neg (by omega), if_neg (by omega), ih fun x hx => h x (List.mem_cons_of_mem _ hx)]

theorem mapGet_copied (k lo hi : Nat) (hl : lo ≤ k) (hh : k < hi) (hd : regDefault k = 0) (tail : SMap Word) (ht : ∀ e ∈ tail, k < e.1)
    (m : SMap Word) (b : Nat) (hw : mapWfFrom regDefault b m = true) :
    mapGet (fun _ => 0) (m.filter (fun e => decide (lo ≤ e.1) && decide (e.1 < hi) && decide (e.2 ≠ 0)) ++ tail) k = mapGet regDefault m k := by
  induction m generalizing b with
  | nil => exact (mapGet_of_all_gt _ k tail ht).trans hd.symm
  | cons e t ih =>
    obtain ⟨k', v⟩ := e
    simp only [mapWfFrom, Bool.and_eq_true, decide_eq_true_eq, Bool.not_eq_true', decide_eq_false_iff_not] at hw
    obtain ⟨⟨_, hv⟩, hwt⟩ := hw
    have iht := ih (k' + 1) hwt
    rw [mapGet]
    by_cases hk : k = k'
    · subst hk
      have hv0 : v ≠ 0 := fun h0 => hv (h0.trans hd.symm)
      have hp : (decide (lo ≤ k) && decide (k < hi) && decide (v ≠ 0)) = true := by
        rw [decide_eq_true hl, decide_eq_true hh, decide_eq_true hv0]
        rfl
      rw [List.filter_cons, if_pos hp, if_pos rfl, List.cons_append, mapGet, if_pos rfl]
    · rw [if_neg hk]
      have hcons : mapGet (fun _ => 0) (((k', v) :: t).filter (fun e => decide (lo ≤ e.1) && decide (e.1 < hi) && decide (e.2 ≠ 0)) ++ tail) k
          = if k < k' then 0 else mapGet regDefault t k := by
        rw [List.filter_cons]
        by_cases hp : (decide (lo ≤ k') && decide (k' < hi) && decide (v ≠ 0)) = true
        · rw [if_pos hp, List.cons_append, mapGet, if_neg hk, iht]
        · rw [if_neg hp, iht]
          split
          · next hlt => exact (mapGet_below regDefault t (k' + 1) k hwt (by omega)).trans hd
          · rfl
      rw [hcons, hd]

/-- An enable's working copy holds what the block's registers held (R41). -/
theorem wk_takeWork (r : Nat) (hr : r < blkSize b) (hw : mapWf regDefault s.regs = true) (hd : regDefault (rk b r) = 0) : wk (takeWork s b) b r = reg s b r := by
  have hlow : ∀ e ∈ s.work.filter (fun e => decide (e.1 < blkBase b)), e.1 < rk b r := fun e he => by
    have := of_decide_eq_true (List.mem_filter.1 he).2
    simp only [rk]
    omega
  have hhigh : ∀ e ∈ s.work.filter (fun e => decide (blkBase b + blkSize b ≤ e.1)), rk b r < e.1 := fun e he => by
    have := of_decide_eq_true (List.mem_filter.1 he).2
    simp only [rk]
    omega
  rw [wk, takeWork]
  dsimp only
  rw [List.append_assoc, mapGet_append_below _ _ _ _ hlow]
  exact mapGet_copied (rk b r) _ _ (Nat.le_add_right _ _) (Nat.add_lt_add_left hr _) hd _ hhigh s.regs 0 hw

end Sys2Proof.Machine
end

section
/-! PROOFS. The obligation on enables and drains. -/

namespace Sys2Proof.Claims

open Sys2Proof Sys2Proof.Machine

/-- The blocks whose enable does no more than what all enables do have nothing more in `enabledBlock`. -/
theorem enabledBlock_plain {s : State} {b : Blk}
    (hb : b = .gfe ∨ b = .ep ∨ b = .pwr ∨ b = .dbg ∨ (∃ n, b = .core n) ∨ (∃ n, b = .stack n) ∨ ∃ n, b = .drawer n) :
    enabledBlock s b = setRf (setRf (takeWork s b) b (hdrOff b) 0 0 1) b (hdrOff b + 8) 0 0 0 := by
  obtain rfl | rfl | rfl | rfl | ⟨n, rfl⟩ | ⟨n, rfl⟩ | ⟨n, rfl⟩ := hb
  all_goals rfl

theorem reg_chanUnbind {s : State} (n : Nat) (hw : mapWf regDefault s.regs = true) :
    mapWf regDefault (chanUnbind s n).regs = true ∧ reg (chanUnbind s n) .dt 0 = reg s .dt 0 := by
  have hregs : (chanUnbind s n).regs = (setRf s .dt (0x3000 + 32 * n) 63 63 0).regs := by
    simp only [chanUnbind]
    split <;> rfl
  have hne : rk .dt 0 ≠ rk .dt (0x3000 + 32 * n) := mt (rk_inj .dt 0 _).1 (by omega)
  refine ⟨hregs ▸ setRf_wf _ _ _ _ _ hw, ?_⟩
  rw [reg, hregs]
  exact reg_setRf_other _ _ _ hw hne

theorem reg_foldl_chanUnbind {s : State} (l : List Nat) (hw : mapWf regDefault s.regs = true) : reg (l.foldl chanUnbind s) .dt 0 = reg s .dt 0 := by
  induction l generalizing s with
  | nil => rfl
  | cons n t ih =>
    obtain ⟨hw', hr⟩ := reg_chanUnbind n hw
    rw [List.foldl_cons, ih hw', hr]

theorem blkEn_disableBlock {s : State} {b : Blk} (hc : isCtxBlk b = false) (hw : mapWf regDefault s.regs = true) : blkEn (disableBlock s b) b = false := by
  have h1 : rbit (setRf s b (hdrOff b) 0 0 0) b (hdrOff b) 0 = false := rbit_setRf_self _ _ _ hw (by omega) (by omega) (by omega)
  cases b with
  | ctx c => cases hc
  | dt =>
    rw [blkEn, rbit, show reg (disableBlock s .dt) .dt (hdrOff .dt) = _ from reg_foldl_chanUnbind _ (setRf_wf _ _ _ _ _ hw)]
    exact h1
  | gfe | ep | pwr | dbg | fmp n | cluster n | core n | stack n | drawer n => exact h1

/-- Settles O42. -/
theorem blocksEnableAndDrain : Obligations.BlocksEnableAndDrain := by
  refine ⟨fun s e rq b val w o hw hwk hh hlive ho hwv hr hl hpmc hp hn hloc he => ?_, fun s b he hi => ?_, fun s b h l hhd hi hlive => ?_,
    fun s rq b o val h l hhd hr hl hpmc hp hloc h8 hf => ?_, fun s slot e he => ?_⟩
  · subst ho hwv he
    have h8 : hdrOff b / 8 * 8 = hdrOff b := hdrOff_div b
    have hfields : regFields b (hdrOff b / 8 * 8) ≠ [] := h8.symm ▸ regFields_hdrOff b
    have hk : rk b (hdrOff b) % 8 = 0 := rk_mod b _ (by omega)
    have hwrite : performWrite s { rq, key := rk b (hdrOff b), size := 8, val }
        = blkCtl s b { rq, key := rk b (hdrOff b), size := 8, val } (writtenWord s b (hdrOff b) val) := by
      rw [performWrite_reaches _ b (hdrOff b) hloc hfields hr hl hpmc (by rwa [h8]) hn, writeAt_header rq val hk h8]
    refine ⟨fun hf hen hi => ⟨?_, ?_, fun hb => ?_⟩, fun hf hen hi => ?_, fun hf hen => ⟨_, ?_, rfl, fun hc => blkEn_disableBlock hc (setReg_wf _ _ _ _ hw)⟩⟩
    · change after (regArrived s rq (rk b (hdrOff b)) 8 (performWrite s { rq, key := rk b (hdrOff b), size := 8, val })) = _
      rw [hwrite, blkCtl_enable hf hen hi]
      rfl
    · change execBlkHeldEnable b _ = _
      have hc : (rbit (setHeldAccs s b [{ rq, key := rk b (hdrOff b), size := 8, val }]) b (hdrOff b + 8) 0
          && !(heldAccs (setHeldAccs s b [{ rq, key := rk b (hdrOff b), size := 8, val }]) b).isEmpty
          && regsLive (setHeldAccs s b [{ rq, key := rk b (hdrOff b), size := 8, val }]) b) = true := by
        rw [heldAccs_setHeldAccs]
        change (rbit s b (hdrOff b + 8) 0 && true && regsLive s b) = true
        rw [hi, hlive]
        rfl
      rw [execBlkHeldEnable, if_pos hc, heldAccs_setHeldAccs, setHeldAccs_release _ hh hn, performHeld]
      simp only [hloc]
      rw [writeAt_header rq val hk h8, blkCtl_enable hf hen hi, heldAccs_enabledBlock]
      change done (if (heldAccs s b).isEmpty = true then _ else _) = _
      rw [hn]
      rfl
    · have hw1 := setReg_wf s b (hdrOff b) (setFld (writtenWord s b (hdrOff b) val) 0 0 0) hw
      have hw2 : mapWf regDefault (setRf (takeWork (setReg s b (hdrOff b) (setFld (writtenWord s b (hdrOff b) val) 0 0 0)) b) b (hdrOff b) 0 0 1).regs = true :=
        setRf_wf _ _ _ _ _ hw1
      have hne : rk b (hdrOff b) ≠ rk b (hdrOff b + 8) := mt (rk_inj b _ _).1 (by omega)
      rw [enabledBlock_plain hb]
      refine ⟨?_, rbit_setRf_self _ _ _ hw2 (by omega) (by omega) (by omega), fun r hr hlat => ?_⟩
      · have hwt : mapWf regDefault (takeWork (setReg s b (hdrOff b) (setFld (writtenWord s b (hdrOff b) val) 0 0 0)) b).regs = true := hw1
        rw [blkEn, rbit_setRf_other _ _ _ _ hw2 hne, rbit_setRf_self _ _ _ hwt (by omega) (by omega) (by omega)]
        rfl
      · obtain ⟨rfl, hr'⟩ := latched_regs hb hlat
        have hd : regDefault (rk .dbg r) = 0 := by
          obtain rfl | rfl := hr'
          · rfl
          · rfl
        have hne' : rk .dbg r ≠ rk .dbg (hdrOff .dbg) := mt (rk_inj .dbg _ _).1 (by change r ≠ 0; omega)
        exact (wk_takeWork r hr hw1 hd).trans (reg_setReg_other _ _ _ _ _ _ hw hne')
    · change after (regArrived s rq (rk b (hdrOff b)) 8 (performWrite s { rq, key := rk b (hdrOff b), size := 8, val })) = _
      rw [hwrite, blkCtl_hold hf hen hi, hn]
      rfl
    · change after (regArrived s rq (rk b (hdrOff b)) 8 (performWrite s { rq, key := rk b (hdrOff b), size := 8, val })) = _
      rw [hwrite, blkCtl_disable hf hen]
      rfl
  · change execBlkDrainDone b s = _
    rw [execBlkDrainDone, he, hi]
    rfl
  · change execBlkHeldEnable b s = _
    rw [execBlkHeldEnable, hi, hlive, hhd]
    rfl
  · have h8' : o / 8 * 8 = o := by omega
    have hne : (heldAccs s b).isEmpty = false := by rw [hhd]; rfl
    have hpmc' : (decide (rq = .pmc) && decide (b ≠ .pwr)) = false := by
      by_cases hq : rq = .pmc
      · simp [hpmc hq]
      · simp [hq]
    have hfe : (regFields b o).isEmpty = false := by simpa using hf
    simp only [performWrite, hloc, h8', hfe, hl, hr, hpmc', hp, hne]
    rw [hhd]
    rfl
  · change execKeyEffective slot s = _
    rw [execKeyEffective, he]
    rfl

end Sys2Proof.Claims
end

section
/-! SUPPORT. What a warm reset and the banked state keep and lose (R369, R376). -/

namespace Sys2Proof.Machine

open Sys2Proof

variable {s : State}

section
variable {I : OpenKept}

theorem dtDown_holds (h : I.holds s) : I.holds (dtDown s) := I.free h rfl

theorem drainDesc_holds (a : Nat) (h : I.holds s) : I.holds ((drainDesc s a).getD s) := by
  have hr : I.holds (readDesc s a).2 := snd_ite_holds h (gfeRead_holds _ _ _ _ h)
  rw [drainDesc]
  dsimp only
  split
  · exact h
  · split
    · exact ite_holds (writeDescWord1_holds _ _ hr) (fenceAdd_holds _ _ _ (writeDescWord1_holds _ _ hr))
    · exact h

theorem endAllTasks_holds (h : I.holds s) : I.holds (endAllTasks s) := foldl_holds _ (fun _ a ht => drainDesc_holds a ht) _ (releaseCaps_holds _ h)

theorem stopCompute_holds (h : I.holds s) : I.holds (stopCompute s) := computeClear_holds (dtDown_holds (writeBackAll_holds (endAllTasks_holds h)))

end

/-! The predicates: the registers' form with the keys, the image and the time; these and the bank's register; and empty compute dies. -/

/-- The registers are a canonical map, and the keys, the image and the time are those given. -/
def storeKept (keys : SMap (Option (BitVec 512))) (img : Option McImage) (stc : Word) : OpenKept where
  holds s := mapWf regDefault s.regs = true ∧ s.keys = keys ∧ s.mcImage = img ∧ s.stc = stc
  frame h e := by
    obtain ⟨hw, hk, hm, ht⟩ := h
    exact ⟨(congrArg (fun v => mapWf regDefault v.2.1) e).trans hw, (congrArg (fun v => v.2.2.2.1) e).trans hk, (congrArg (fun v => v.2.2.2.2.1) e).trans hm,
      (congrArg (fun v => v.2.2.2.2.2.1) e).trans ht⟩
  free h e := by
    obtain ⟨hw, hk, hm, ht⟩ := h
    exact ⟨(congrArg (fun v => mapWf regDefault v.2.1) e).trans hw, (congrArg (fun v => v.2.2.2.1) e).trans hk, (congrArg (fun v => v.2.2.2.2.1) e).trans hm,
      (congrArg (fun v => v.2.2.2.2.2) e).trans ht⟩
  reg w _ h := ⟨setReg_wf _ _ _ w h.1, h.2⟩
  regs w _ h := ⟨setReg_wf _ _ _ w h.1, h.2⟩
  status _ h := ⟨setReg_wf _ _ _ _ h.1, h.2⟩
  anyReg b o w h := ⟨setReg_wf _ b o w h.1, h.2⟩
  byte _ _ h := h
  caches _ _ _ h := h
  prog c f _ h := by
    rw [updProg]
    split
    · exact h
    · exact h
  dev _ _ _ _ _ h := h
  zero _ _ h := h

/-- As `storeKept`, and the bank's register (R375) holds `v`. -/
def bankKept (keys : SMap (Option (BitVec 512))) (img : Option McImage) (stc v : Word) : Kept where
  holds s := (storeKept keys img stc).holds s ∧ mapGet regDefault s.regs bankKey = v
  frame h e := ⟨(storeKept keys img stc).frame h.1 e, (congrArg (fun x => mapGet regDefault x.2.1 bankKey) e).trans h.2⟩
  reg w hb h := ⟨(storeKept keys img stc).reg w hb h.1, (mapGet_mapSet_other regDefault _ 0 _ _ w h.1.1 hb.2.symm).trans h.2⟩
  byte a v h := ⟨(storeKept keys img stc).byte a v h.1, h.2⟩
  caches c k hp h := ⟨(storeKept keys img stc).caches c k hp h.1, h.2⟩
  prog c f _ h := by
    rw [updProg]
    split
    · exact h
    · exact h
  dev n slot l l' hd h := ⟨(storeKept keys img stc).dev n slot l l' hd h.1, h.2⟩

theorem core_of_idle (c : Nat) (h : ∀ e ∈ s.cores, e.2.prog = none) : (core s c).prog = none := by
  have hm : ∀ m : SMap Core, (∀ e ∈ m, e.2.prog = none) → (mapGet (fun _ => coreInit) m c).prog = none := by
    intro m hm
    induction m with
    | nil => rfl
    | cons e t ih =>
      rw [mapGet]
      split
      · exact hm e List.mem_cons_self
      · split
        · rfl
        · exact ih fun x hx => hm x (List.mem_cons_of_mem _ hx)
  exact hm s.cores h

/-- The compute dies hold no program, the device cache no line, the task list no task; the host requests are those given. -/
def clearKept (hreqs : List HostReq) : Kept where
  holds s := s.hreqs = hreqs ∧ s.devc = [] ∧ s.tasks = [] ∧ ∀ e ∈ s.cores, e.2.prog = none
  frame h e := by
    obtain ⟨hh, hd, ht, hc⟩ := h
    exact ⟨(congrArg (fun v => v.2.2.2.2.2.2.1) e).trans hh, (congrArg (fun v => v.2.2.2.2.2.2.2.1) e).trans hd,
      (congrArg (fun v => v.2.2.2.2.2.2.2.2.1) e).trans ht, fun x hx => hc x ((congrArg (fun v => x ∈ v.2.2.2.2.2.2.2.2.2.1) e).mp hx)⟩
  reg _ _ h := h
  byte _ _ h := h
  caches c k hp h := by
    obtain ⟨hh, hd, ht, hc⟩ := h
    refine ⟨hh, hd, ht, fun x hx => ?_⟩
    rcases mem_mapSet hx with hx | rfl
    · exact hc x hx
    · exact hp.trans (core_of_idle c hc)
  prog c f _ h := by
    obtain ⟨hh, hd, ht, hc⟩ := h
    rw [updProg, show prog? _ c = none from core_of_idle c hc]
    exact ⟨hh, hd, ht, hc⟩
  dev n slot l l' hd h := by
    rw [devLine, h.2.1] at hd
    cases hd

/-! What resets do to the registers. -/

/-- What no write of a register and no reset of the fields touches. -/
def besideRegs (s : State) := (s.mem, s.cores, s.keys, s.hreqs, s.devc, s.tasks, s.stc)

theorem besideRegs_keepSlots (s0 : State) (r : Bool) : besideRegs (keepSlots s0 s r) = besideRegs s := by
  refine foldl_frame besideRegs _ (fun t n => ?_) _ s
  dsimp only
  split
  · rfl
  · rfl

theorem besideRegs_resetFields (s : State) : besideRegs (resetFields s) = besideRegs s := rfl

theorem keepSlots_wf (s0 : State) (r : Bool) (hw : mapWf regDefault s.regs = true) : mapWf regDefault (keepSlots s0 s r).regs = true := by
  refine foldl_keeps (fun t : State => mapWf regDefault t.regs = true) _ (fun t n ht => ?_) _ _ hw
  dsimp only
  split
  · exact ht
  · exact setReg_wf _ _ _ _ ht

theorem mapWfFrom_filterMap {α : Type} [DecidableEq α] (d : Nat → α) (f : Nat × α → Option (Nat × α)) (hf : ∀ e q, f e = some q → q.1 = e.1 ∧ q.2 ≠ d q.1)
    (m : List (Nat × α)) (lo : Nat) (h : mapWfFrom d lo m = true) : mapWfFrom d lo (m.filterMap f) = true := by
  induction m generalizing lo with
  | nil => rfl
  | cons e t ih =>
    simp only [mapWfFrom, Bool.and_eq_true, decide_eq_true_eq] at h
    obtain ⟨⟨hlo, _⟩, ht⟩ := h
    rw [List.filterMap_cons]
    split
    · exact mapWfFrom_mono d _ _ _ (ih _ ht) (by omega)
    · next q hq =>
      obtain ⟨h1, h2⟩ := hf e q hq
      obtain ⟨k, v⟩ := q
      simp only at h1 h2
      subst h1
      simp [mapWfFrom, hlo, h2, ih _ ht]

theorem resetFields_wf (hw : mapWf regDefault s.regs = true) : mapWf regDefault (resetFields s).regs = true := by
  refine mapWfFrom_filterMap regDefault _ (fun e q hq => ?_) s.regs 0 hw
  dsimp only at hq
  split at hq
  · cases hq
  · split at hq
    · cases hq
    · next hne =>
      rw [← Option.some.inj hq]
      exact ⟨rfl, hne⟩

/-- The phase and the cause that a warm reset ends with. -/
theorem setPhase_setCause (c p : Nat) (hw : mapWf regDefault s.regs = true) :
    phase (setPhase (setCause s c) p) = p % 4 ∧ rf (setPhase (setCause s c) p) .gfe 0x3000 3 0 = c % 16 := by
  have hw1 : mapWf regDefault (setCause s c).regs = true := setRf_wf _ _ _ _ _ hw
  refine ⟨rf_setRf_self _ _ _ _ hw1 (by decide), ?_⟩
  rw [setPhase, rf_setRf_of_apart _ _ _ hw1 (Or.inl (by decide)), setCause, rf_setRf_self _ _ _ _ hw (by decide)]
  rfl

/-- A warm reset's compute dies stopped, with the requests of the host side gone. -/
def warmHalted (s : State) : State := { stopCompute s with devc := [], hreqs := [], bis := [], refused := [], snps := [], filt := [], recs := [] }

/-- The state of a warm reset before its fields are reset: posted accesses are done, the keys and the memories of the dies are cleared. -/
def warmStopped (s : State) : State := zeroDrawers (zeroWindows (zeroSpads (emptyKeys (servePosts (warmHalted s)))))

/-- A warm reset's end, from the state `u` with its fields reset. -/
def warmDone (u : State) (cause : Nat) : State :=
  setPhase (setCause { u with mcImage := none, ep := { Endpoint.reset with linkUp := u.ep.linkUp, inta := u.ep.inta && u.ep.linkUp }, inject := [], wstart := [], fifos := [],
                              power := { u.power with computeOn := false } } cause) 0

theorem warmReset_eq (cause : Nat) :
    warmReset s cause = warmDone (bumpLgen (keepSlots (warmStopped s) (resetFields (warmStopped s)) true)) cause := by
  unfold warmReset warmDone warmStopped warmHalted
  rfl

theorem warmDone_beside (u : State) (cause : Nat) : besideRegs (warmDone (bumpLgen u) cause) = besideRegs u := rfl

theorem warmDone_phase (u : State) (cause : Nat) (hw : mapWf regDefault u.regs = true) :
    phase (warmDone u cause) = 0 ∧ rf (warmDone u cause) .gfe 0x3000 3 0 = cause % 16 :=
  setPhase_setCause cause 0 hw

/-- The compute dies are empty once they have stopped, and the posted accesses leave them so. -/
theorem warmHalted_clear : (clearKept []).holds (warmHalted s) := ⟨rfl, rfl, rfl, fun _ hx => absurd hx List.not_mem_nil⟩

theorem zeroed_clear {u : State} {l : List HostReq} (h : (clearKept l).holds u) : (clearKept l).holds (zeroDrawers (zeroWindows (zeroSpads (emptyKeys u)))) := h

theorem warmStopped_clear : (clearKept []).holds (warmStopped s) := zeroed_clear (servePosts_holds warmHalted_clear)

theorem warmHalted_holds {I : OpenKept} (h : I.holds s) : I.holds (warmHalted s) := I.free (stopCompute_holds h) rfl

theorem warmDone_mcImage (u : State) (cause : Nat) : (warmDone u cause).mcImage = none := rfl

theorem zeroed_keys (u : State) : (zeroDrawers (zeroWindows (zeroSpads (emptyKeys u)))).keys = [] := rfl

theorem zeroed_drawers (u : State) {a : Nat} (h1 : drawerBase 0 ≤ a) (h2 : a < drawerBase 0 + 384 * drawerSize) :
    memByte (zeroDrawers (zeroWindows (zeroSpads (emptyKeys u)))) a = 0 := memByte_zeroRange_self h1 h2

theorem emptyKeys_beside (u : State) : (zeroDrawers (zeroWindows (zeroSpads (emptyKeys u)))).regs = u.regs ∧ (zeroDrawers (zeroWindows (zeroSpads (emptyKeys u)))).stc = u.stc :=
  ⟨rfl, rfl⟩

theorem warmStopped_store (hw : mapWf regDefault s.regs = true) : mapWf regDefault (warmStopped s).regs = true ∧ (warmStopped s).stc = s.stc := by
  have h0 : (storeKept s.keys s.mcImage s.stc).holds s := ⟨hw, rfl, rfl, rfl⟩
  obtain ⟨hw', -, -, ht⟩ := servePosts_holds (warmHalted_holds h0)
  obtain ⟨hr, hs⟩ := emptyKeys_beside (servePosts (warmHalted s))
  exact ⟨(congrArg (mapWf regDefault) hr).trans hw', hs.trans ht⟩

/-! Entry to the banked state (R376). -/

/-- What `bankKept` sees. -/
def storeView (s : State) := (s.regs, s.keys, s.mcImage, s.stc)

theorem setBytes_storeView (a : Nat) (d : List Byte) : storeView (setBytes s a d) = storeView s := by
  induction d generalizing s a with
  | nil => rfl
  | cons b t ih => exact ih (a + 1)

theorem writeManifest_storeView (trigger : Nat) (stc : Word) (ind : BitVec 12 → Nat) : storeView (writeManifest s trigger stc ind) = storeView s := by
  rw [writeManifest, foldl_frame storeView _ (fun t c => setBytes_storeView _ _), setBytes_storeView]
  rfl

theorem bankKept_of_storeView {keys : SMap (Option (BitVec 512))} {img : Option McImage} {stc v : Word} {t : State} (h : (bankKept keys img stc v).holds s)
    (e : storeView t = storeView s) : (bankKept keys img stc v).holds t := by
  obtain ⟨⟨hw, hk, hm, ht⟩, hv⟩ := h
  exact ⟨⟨(congrArg (fun x => mapWf regDefault x.1) e).trans hw, (congrArg (fun x => x.2.1) e).trans hk, (congrArg (fun x => x.2.2.1) e).trans hm,
    (congrArg (fun x => x.2.2.2) e).trans ht⟩, (congrArg (fun x => mapGet regDefault x.1 bankKey) e).trans hv⟩

/-- Bank entry up to the marks of its trigger: tasks ended, lines written back. -/
def bankStopped (s0 : State) : State :=
  { bankEnter.stopWrites (indeterminate { s0 with hreqs := [], snps := [], ep := { s0.ep with held := [] } }) with filt := [], bis := [] }

/-- The marks of a bank entry: its count and its trigger. -/
def bankMarked (s : State) (trigger : Nat) : State :=
  setRf (setRf (bumpLgen s) .ep 0x20010 63 32 (rf s .ep 0x20010 63 32 + 1)) .ep 0x20010 3 0 trigger

/-- The compute dies gone and the posted accesses done. -/
def bankCleared (s : State) : State := disableContexts (servePosts (computeClear (dtDown s)))

/-- A bank entry's end. -/
def bankDone (s : State) : State := setPhase (raise { s with power := { s.power with computeOn := false } } .ep 0x20040 0) 3

theorem bankEnter_eq (trigger : Nat) :
    bankEnter s trigger = bankDone (bankCleared (writeManifest (bankMarked (bankStopped s) trigger) trigger s.stc (indetCount s))) := by
  delta bankEnter bankDone bankCleared bankMarked bankStopped
  with_reducible rfl

section
variable {I : OpenKept}

theorem withoutHost_holds (e : Endpoint) (h : I.holds s) : I.holds { s with hreqs := [], snps := [], ep := e } := I.free h rfl

theorem withoutFilter_holds (h : I.holds s) : I.holds { s with filt := [], bis := [] } := I.free h rfl

theorem bankStopped_holds (h : I.holds s) : I.holds (bankStopped s) :=
  withoutFilter_holds (writeBackAll_holds (endAllTasks_holds (indeterminate_holds (withoutHost_holds _ h))))

end

section
variable {keys : SMap (Option (BitVec 512))} {img : Option McImage} {stc : Word}

theorem bankMarked_kept (trigger : Nat) (h : (storeKept keys img stc).holds s) :
    ∃ v, fld v 3 0 = trigger % 16 ∧ (bankKept keys img stc v).holds (bankMarked s trigger) := by
  have h1 : (storeKept keys img stc).holds (setRf (bumpLgen s) .ep 0x20010 63 32 (rf s .ep 0x20010 63 32 + 1)) := setRf_any _ _ _ _ _ (setRf_any _ _ _ _ _ h)
  exact ⟨_, rf_setRf_self .ep 0x20010 0 trigger h1.1 (by decide), setRf_any _ _ _ _ _ h1, rfl⟩

theorem bankCleared_kept {v : Word} (h : (bankKept keys img stc v).holds s) : (bankKept keys img stc v).holds (bankCleared s) :=
  disableContexts_holds (servePosts_holds (bankKept_of_storeView h rfl))

theorem bankDone_kept {v : Word} (h : (bankKept keys img stc v).holds s) : (bankKept keys img stc v).holds (bankDone s) ∧ phase (bankDone s) = 3 := by
  have h1 : (bankKept keys img stc v).holds { s with power := { s.power with computeOn := false } } := bankKept_of_storeView h rfl
  have h2 : (bankKept keys img stc v).holds (raise { s with power := { s.power with computeOn := false } } .ep 0x20040 0) :=
    setRf_holds _ _ _ (⟨faultFree_of_lt (by decide) (by decide), by decide⟩) ((bankKept keys img stc v).reg _ (⟨faultFree_of_lt (by decide) (by decide), by decide⟩) h1)
  exact ⟨setRf_holds _ _ _ (⟨faultFree_of_lt (by decide) (by decide), by decide⟩) h2, rf_setRf_self _ _ _ _ h2.1.1 (by decide)⟩

end

theorem bankDone_clear {l : List HostReq} (h : (clearKept l).holds s) : (clearKept l).holds (bankDone s) := h

theorem bankCleared_clear : (clearKept s.hreqs).holds (bankCleared s) := by
  have h : (clearKept s.hreqs).holds (computeClear (dtDown s)) := ⟨rfl, rfl, rfl, fun _ hx => absurd hx List.not_mem_nil⟩
  exact disableContexts_holds (servePosts_holds h)

end Sys2Proof.Machine
end

section
/-! PROOFS. The obligation on resets. -/

namespace Sys2Proof.Claims

open Sys2Proof Sys2Proof.Machine

variable {s : State}

/-- A warm reset's loss and what it leaves (R369). -/
theorem warmReset_loses (hw : mapWf regDefault s.regs = true) : phase (warmReset s 2) = 0 ∧ rf (warmReset s 2) .gfe 0x3000 3 0 = 2
    ∧ (∀ c, prog? (warmReset s 2) c = none) ∧ (∀ k, keyAt (warmReset s 2) k = none) ∧ (warmReset s 2).mcImage = none ∧ (warmReset s 2).hreqs = []
    ∧ (warmReset s 2).devc = [] ∧ (warmReset s 2).tasks = [] ∧ (warmReset s 2).stc = s.stc
    ∧ (∀ a, drawerBase 0 ≤ a → a < drawerBase 0 + 384 * drawerSize → memByte (warmReset s 2) a = 0) := by
  obtain ⟨hws, hstc⟩ := warmStopped_store hw
  obtain ⟨hreq, hdev, htask, hprog⟩ := warmStopped_clear (s := s)
  have hb : besideRegs (warmDone (bumpLgen (keepSlots (warmStopped s) (resetFields (warmStopped s)) true)) 2) = besideRegs (warmStopped s) :=
    (warmDone_beside _ 2).trans ((besideRegs_keepSlots _ _).trans (besideRegs_resetFields _))
  obtain ⟨hphase, hcause⟩ := warmDone_phase (bumpLgen (keepSlots (warmStopped s) (resetFields (warmStopped s)) true)) 2
    (setRf_wf _ _ _ _ _ (keepSlots_wf _ true (resetFields_wf hws)))
  have himg := warmDone_mcImage (bumpLgen (keepSlots (warmStopped s) (resetFields (warmStopped s)) true)) 2
  have hkeys : (warmStopped s).keys = [] := zeroed_keys _
  have hmem : ∀ a, drawerBase 0 ≤ a → a < drawerBase 0 + 384 * drawerSize → memByte (warmStopped s) a = 0 := fun a h1 h2 => zeroed_drawers _ h1 h2
  rw [warmReset_eq]
  generalize warmDone (bumpLgen (keepSlots (warmStopped s) (resetFields (warmStopped s)) true)) 2 = t at hb hphase hcause himg ⊢
  simp only [besideRegs, Prod.mk.injEq] at hb
  obtain ⟨emem, ecores, ekeys, ehreqs, edevc, etasks, estc⟩ := hb
  refine ⟨hphase, hcause, fun c => core_of_idle c (ecores.symm ▸ hprog), fun k => ?_, himg, ehreqs.trans hreq, edevc.trans hdev, etasks.trans htask, estc.trans hstc,
    fun a h1 h2 => ?_⟩
  · rw [keyAt, ekeys, hkeys]
    rfl
  · rw [memByte, emem]
    exact hmem a h1 h2

/-- What the banked state keeps and loses (R376). -/
theorem bankEnter_keeps (hw : mapWf regDefault s.regs = true) : phase (bankEnter s 2) = 3 ∧ rf (bankEnter s 2) .ep 0x20010 3 0 = 2
    ∧ (∀ c, prog? (bankEnter s 2) c = none) ∧ (bankEnter s 2).keys = s.keys ∧ (bankEnter s 2).mcImage = s.mcImage ∧ (bankEnter s 2).stc = s.stc := by
  have h0 : (storeKept s.keys s.mcImage s.stc).holds s := ⟨hw, rfl, rfl, rfl⟩
  obtain ⟨v, hv, h1⟩ := bankMarked_kept 2 (bankStopped_holds h0)
  have h2 := bankKept_of_storeView h1 (writeManifest_storeView 2 s.stc (indetCount s))
  obtain ⟨⟨⟨_, hk, hm, ht⟩, hreg⟩, hphase⟩ := bankDone_kept (bankCleared_kept h2)
  obtain ⟨-, -, -, hprog⟩ := bankDone_clear (bankCleared_clear (s := writeManifest (bankMarked (bankStopped s) 2) 2 s.stc (indetCount s)))
  rw [bankEnter_eq]
  refine ⟨hphase, ?_, fun c => core_of_idle c hprog, hk, hm, ht⟩
  exact (congrArg (fun w => fld w 3 0) hreg).trans hv

/-- Settles O49. -/
theorem resetsKeepAndLose : Obligations.ResetsKeepAndLose := by
  intro s hq hw
  have hquench : quenchOver s = s := by rw [quenchOver, if_pos hq]
  refine ⟨rfl, fun h3 h1 => ?_, fun h2 hb ha => ?_, rfl, fun t ht => ?_, rfl, fun hi => ?_, fun hf => ?_, fun h3 hc => ?_⟩
  · refine ⟨warmReset s 2, ?_, warmReset_loses hw⟩
    change done (hostLoss s 2 3) = done (warmReset s 2)
    have hloss : hostLoss s 2 3 = warmReset s 2 := by
      simp only [hostLoss, hquench]
      obtain h1 | h1 := h1
      · rw [if_pos h1]
      · simp [h3, h1]
    rw [hloss]
  · refine ⟨bankEnter s 2, ?_, bankEnter_keeps hw⟩
    change done (hostLoss s 2 3) = done (bankEnter s 2)
    have hloss : hostLoss s 2 3 = bankEnter s 2 := by
      simp only [hostLoss, hquench]
      simp [h2, hb, ha]
    rw [hloss]
  · rw [ht]
    rfl
  · change execLinkUp s = _
    simp only [execLinkUp, hi]
    rfl
  · change execFlrComplete s = _
    rw [execFlrComplete, if_pos hf]
    rfl
  · change execReattachComplete s = _
    rw [execReattachComplete, h3, hc]
    rfl

end Sys2Proof.Claims
end

section
/-! SUPPORT. What a settled state tells of the state before: where no block's fault status shows a source, no event was taken, and memory is as
it was. -/

namespace Sys2Proof.Machine

open Sys2Proof

/-- A value that is no default stays under the writes of other keys, whatever the map's form. -/
theorem mapGet_mapSet_of_found {α : Type} [DecidableEq α] (d : Nat → α) (m : List (Nat × α)) {j k : Nat} (w : α) (hk : k ≠ j) (h : mapGet d m j ≠ d j) :
    mapGet d (mapSet d m k w) j = mapGet d m j := by
  induction m with
  | nil => exact absurd rfl h
  | cons e t ih =>
    obtain ⟨k', v'⟩ := e
    rw [mapGet] at h ⊢
    by_cases hj : j = k'
    · subst hj
      rw [if_pos rfl]
      rw [mapSet, if_neg hk]
      split_ifs
      · rw [mapGet, if_pos rfl]
      · rw [mapGet, if_neg (Ne.symm hk), if_neg (by omega), mapGet, if_pos rfl]
      · rw [mapGet, if_pos rfl]
    · rw [if_neg hj] at h ⊢
      by_cases hlt : j < k'
      · rw [if_pos hlt] at h
        exact absurd rfl h
      · rw [if_neg hlt] at h ⊢
        simp only [mapSet]
        split_ifs
        · rw [mapGet, if_neg hj, if_neg hlt]
        · rw [mapGet, if_neg (Ne.symm hk), if_neg (by omega), mapGet, if_neg hj, if_neg hlt]
        · rfl
        · rw [mapGet, if_neg (Ne.symm hk), if_neg (by omega)]
        · rw [mapGet, if_neg hj, if_neg hlt, ih h]

theorem locate_status (b : Blk) : locate (rk b 0x40) = some (b, 0x40) :=
  locate_rk b 0x40 (by
    have h := blkSize_ge b
    cases b <;> exact Nat.lt_of_lt_of_le (show 0x40 < 0x10000 by decide) h)

/-- Every block's fault status is 0 at reset. -/
theorem regDefault_status (b : Blk) : regDefault (rk b 0x40) = 0 := by
  rw [regDefault, locate_status]
  cases b
  all_goals rfl

variable {s : State}

theorem reg_setReg_self {b : Blk} {o : Nat} {w : Word} (h : w ≠ regDefault (rk b o)) : reg (setReg s b o w) b o = w := mapGet_mapSet_self_of_ne _ _ _ _ h

theorem reg_ne_default {b : Blk} {i : Nat} (h : flag (reg s b 0x40) i = true) : reg s b 0x40 ≠ regDefault (rk b 0x40) := by
  intro he
  rw [he, regDefault_status] at h
  simp [flag] at h

/-- The fault status of `b` shows source `i`. -/
def flaggedKept (b : Blk) (i : Nat) (hi : i < 61) : SettleKept where
  holds s := flag (reg s b 0x40) i = true
  frame h e := (congrArg (fun v : _ × SMap Word × _ => flag (mapGet regDefault v.2.1 (rk b 0x40)) i) e).trans h
  free h e := (congrArg (fun v : _ × SMap Word × _ => flag (mapGet regDefault v.2.1 (rk b 0x40)) i) e).trans h
  reg w hb h := (congrArg (flag · i) (mapGet_mapSet_of_found regDefault _ w (hb.1 b) (reg_ne_default h))).trans h
  regs w hb h := (congrArg (flag · i) (mapGet_mapSet_of_found regDefault _ w (hb b) (reg_ne_default h))).trans h
  status {s b' w} hw h := by
    by_cases hb : rk b' 0x40 = rk b 0x40
    · have h' : flag w i = true := hw i hi ((congrArg (fun k => flag (mapGet regDefault s.regs k) i) hb).trans h)
      have hne : w ≠ regDefault (rk b' 0x40) := by
        intro he
        rw [he, regDefault_status] at h'
        simp [flag] at h'
      exact (congrArg (flag · i) ((congrArg (mapGet regDefault _) hb.symm).trans (mapGet_mapSet_self_of_ne _ _ _ _ hne))).trans h'
    · exact (congrArg (flag · i) (mapGet_mapSet_of_found regDefault _ w hb (reg_ne_default h))).trans h
  byte _ _ h := h
  caches _ _ _ h := h
  prog c f _ h := by
    rw [updProg]
    split
    · exact h
    · exact h
  dev _ _ _ _ _ h := h

/-- A source of a block is shown once its event is taken. -/
theorem takeEvent_flagged {r : Raised} {d : SrcDef} (hd : (sources r.block)[r.src]? = some d) : flag (reg (takeEvent s r) r.block 0x40) r.src = true := by
  have hsrc : r.src < 32 := Nat.lt_of_lt_of_le (List.getElem?_eq_some_iff.1 hd).1 (sources_length _)
  refine takeEvent_after (I := flaggedKept r.block r.src (by omega)) (fun _ _ _ h => h) r hd fun x => ?_
  have hp : flag (reg (eventLevel s r.block r.src d).2 r.block 0x40 ||| place r.src r.src 1 ||| x) r.src = true := by
    have h1 := flag_place r.src r.src 1 r.src (by omega)
    rw [flag] at h1 ⊢
    rw [BitVec.getLsbD_or, BitVec.getLsbD_or, h1]
    simp
  have hne : reg (eventLevel s r.block r.src d).2 r.block 0x40 ||| place r.src r.src 1 ||| x ≠ regDefault (rk r.block 0x40) := by
    intro he
    rw [he, regDefault_status] at hp
    simp [flag] at hp
  exact (congrArg (flag · r.src) (reg_setReg_self hne)).trans hp

/-- No block's fault status shows a source. -/
def Quiescent (s : State) : Prop := ∀ b i, i < 61 → flag (reg s b 0x40) i = false

theorem foldl_takeEvent_mem (l : List Raised) (hq : Quiescent (l.foldl takeEvent s)) : l.foldl takeEvent s = s := by
  induction l generalizing s with
  | nil => rfl
  | cons r t ih =>
    have h1 : takeEvent s r = s := by
      cases hd : (sources r.block)[r.src]? with
      | none => exact takeEvent_none hd
      | some d =>
        have hsrc : r.src < 32 := Nat.lt_of_lt_of_le (List.getElem?_eq_some_iff.1 hd).1 (sources_length _)
        have h2 := foldl_keeps (fun u : State => flag (reg u r.block 0x40) r.src = true) takeEvent
          (fun _ x hu => takeEvent_holds (I := flaggedKept r.block r.src (by omega)) (fun _ _ _ h => h) x hu) t _ (takeEvent_flagged (s := s) hd)
        rw [List.foldl_cons, Quiescent] at hq
        rw [hq r.block r.src (by omega)] at h2
        cases h2
    rw [List.foldl_cons, h1] at hq ⊢
    exact ih hq

theorem takeRaised_mem (n : Nat) (hq : Quiescent (takeRaised n s)) : (takeRaised n s).mem = s.mem := by
  induction n generalizing s with
  | zero => rfl
  | succ n ih =>
    rw [takeRaised] at hq ⊢
    split
    · rfl
    · next hr =>
      rw [if_neg hr] at hq
      rw [ih hq]
      have h0 : ∀ u : State, u.mem = s.mem → Quiescent ((sortRaised s.raised).foldl takeEvent u) → ((sortRaised s.raised).foldl takeEvent u).mem = s.mem :=
        fun u hu hx => (congrArg State.mem (foldl_takeEvent_mem (sortRaised s.raised) hx)).trans hu
      refine h0 { s with raised := [] } rfl fun b i hi => ?_
      by_contra hne
      have h1 := takeRaised_holds (I := flaggedKept b i hi) (fun _ _ _ h => h) n (Bool.not_eq_false _ |>.mp hne)
      exact absurd ((hq b i hi).symm.trans h1) Bool.noConfusion

theorem settle_mem (hq : Quiescent (settle s)) : (settle s).mem = s.mem := by
  rw [settle, settleIrq_mem]
  refine takeRaised_mem 4 fun b i hi => ?_
  by_contra hne
  exact absurd ((hq b i hi).symm.trans (settleIrq_holds (I := flaggedKept b i hi) (Bool.not_eq_false _ |>.mp hne))) Bool.noConfusion

/-- A test of quiescence. -/
def quietRegs (m : SMap Word) : Bool := m.all fun e => match locate e.1 with
  | some (_, o) => decide (o ≠ 0x40)
  | none => true

theorem quiescent_of_test (h : quietRegs s.regs = true) : Quiescent s := by
  intro b i _
  have hm : ∀ m : SMap Word, quietRegs m = true → mapGet regDefault m (rk b 0x40) = 0 := by
    intro m hm
    induction m with
    | nil => exact regDefault_status b
    | cons e t ih =>
      simp only [quietRegs, List.all_cons, Bool.and_eq_true] at hm
      obtain ⟨he, ht⟩ := hm
      have hne : rk b 0x40 ≠ e.1 := by
        intro heq
        rw [← heq, locate_status] at he
        exact absurd rfl (of_decide_eq_true he)
      rw [mapGet, if_neg hne]
      split
      · exact regDefault_status b
      · exact ih ht
  rw [reg, hm _ h]
  simp [flag]

/-! Equal memories. -/

theorem memByte_of_mem {s t : State} (h : s.mem = t.mem) (a : Nat) : memByte s a = memByte t a := by
  rw [memByte, memByte, h]

theorem memBytes_of_mem {s t : State} (h : s.mem = t.mem) (a n : Nat) : memBytes s a n = memBytes t a n := by
  induction n generalizing a with
  | zero => rfl
  | succ n ih => rw [memBytes, memBytes, memByte_of_mem h, ih]

end Sys2Proof.Machine
end

section
/-! SUPPORT. Concrete states for refutations: core 0 of `openPackage` has one operation at the front of an engine's queue, and memory is given
byte by byte, in its canonical form or not. -/

namespace Sys2Proof.Claims

open Sys2Proof Sys2Proof.Machine

/-- Task 0 of context 1, started on core 0, with one table, of the descriptor `tb` at CA 0x80, captured. -/
def tableTask (tb : List Word) : Task :=
  { id := 0, ctx := 1, words := [], placed := true, cores := [0], started := [0], ended := [], lines := [], caps := [0x80], capWords := [tb], args := [], faulted := false,
    tStart := 0, tEnd := 0, exc := none, status := .ok, numsum := 0, poisonCnt := 0, missCnt := 0, saved := [], finished := false, issuedRec := none, early := [] }

/-- The operation of descriptor `d` that has not run. -/
def freshOp (d : List Word) : EngOp := { idleOp with desc := d, ran := false }

/-- The program `p` with `op` alone in the queue of engine `e`. -/
def queued (p : Prog) (e : Nat) (op : EngOp) : Prog := { p with queues := [(e, [op])] }

/-- Core 0 runs `p`; its task has a table of the descriptor `tb`; memory is `m`. -/
def workState (p : Prog) (tb : List Word) (m : SMap Byte) : State :=
  { openPackage with cores := [(0, { awakeCore with prog := some p })], tasks := [tableTask tb], mem := m }

/-- What `EngineReady` asks, as a test. -/
def readyTest (s : State) (e code : Nat) (p : Prog) (op : EngOp) : Bool :=
  engineUp s 0 e && decide (prog? s 0 = some p) && decide (nextOp p e = some op) && !opHeld p e op && !startHeld s 0 e p op && decide (opcodeOf op = code)
    && decide (parityMet s 0 e op = s)

theorem engineReady_of_test {s : State} {e code : Nat} {p : Prog} {op : EngOp} (h : readyTest s e code p op = true) : EngineReady s 0 e code p op := by
  simp only [readyTest, Bool.and_eq_true, decide_eq_true_eq, Bool.not_eq_true'] at h
  obtain ⟨⟨⟨⟨⟨⟨hup, hp⟩, hn⟩, hh⟩, hs⟩, hc⟩, hpar⟩ := h
  exact ⟨hup, hp, hn, hh, hs, hc, hpar⟩

/-- The segment of context 1 covers all the CAs below its end, with every permission. -/
theorem segCheck_openSegment {s : State} {a n : Nat} (perm : Perm) (h : a + n ≤ 2 ^ 51) (h0 : wk s (.ctx 1) 0x8200 = place 63 63 1)
    (h1 : wk s (.ctx 1) 0x8208 = openSegment) : segCheck s 1 a n perm = .ok openSegment := by
  have hgov : govSeg s 1 a = some (0, (2 ^ 40 - 1) * 4096, openSegment) := by
    have hbase : fld (place 63 63 1) 51 12 = 0 := by decide
    have hlen : fld openSegment 39 0 = 2 ^ 40 - 1 := by decide +kernel
    have hvalid : flag (place 63 63 1) 63 = true := by decide
    have hin : decide (a < 0 * 4096 + (2 ^ 40 - 1) * 4096) = true := by
      rw [decide_eq_true_eq]
      omega
    rw [govSeg, show List.range 16 = 0 :: (List.range 15).map (· + 1) from rfl, List.findSome?_cons]
    simp only [Nat.mul_zero, Nat.add_zero, h0, h1, hbase, hlen, hvalid, hin]
    rw [decide_eq_true (Nat.zero_le a)]
    rfl
  have hend : ¬ 0 + (2 ^ 40 - 1) * 4096 < a + n := by omega
  rw [segCheck, hgov]
  simp only [hend, if_false]
  cases perm
  all_goals rfl

theorem wk_of_work {s u : State} (h : s.work = u.work) (b : Blk) (o : Nat) : wk s b o = wk u b o := by
  rw [wk, wk, h]

section
variable (p : Prog) (tb : List Word) (m : SMap Byte)

theorem workState_frame : (workState p tb m).work = openPackage.work ∧ (workState p tb m).regs = openPackage.regs
    ∧ (workState p tb m).harvest = openPackage.harvest := by
  simp only [workState, and_self]

theorem workState_segment {a n : Nat} (perm : Perm) (h : a + n ≤ 2 ^ 51) : segCheck (workState p tb m) 1 a n perm = .ok openSegment :=
  by
  obtain ⟨hw, -, -⟩ := workState_frame p tb m
  exact segCheck_openSegment perm h ((wk_of_work hw _ _).trans (by decide +kernel)) ((wk_of_work hw _ _).trans (by decide +kernel))

theorem workState_openSpad : OpenSpad (workState p tb m) 0 1 := fun a n perm _ h => by
  rw [workState_segment p tb m perm (by unfold spadBase spadSize at h; omega)]
  rfl

theorem workState_quiet : Quiet (workState p tb m) := by
  refine ⟨rfl, fun k => ?_, fun c => ?_⟩
  · rw [hostBit, Machine.filter, show (workState p tb m).filt = [] from rfl]
    simp [mapGet]
  · change (mapGet (fun _ => coreInit) [(0, { awakeCore with prog := some p })] c).wb = none
    rw [mapGet]
    split_ifs
    all_goals rfl

/-- A CA of core 0's scratchpad names memory that is there. -/
theorem workState_spad {x : Nat} (h1 : spadBase 0 ≤ x) (h2 : x < spadBase 0 + spadSize) :
    isHole (workState p tb m) (canon x) = false ∧ isMirror x = false := by
  obtain ⟨-, hr, hh⟩ := workState_frame p tb m
  have hen : coreEnabled (workState p tb m) 0 = true := by
    rw [coreEnabled, hh]
    decide +kernel
  have hfen : clusterFenced (workState p tb m) 0 = false := by
    rw [clusterFenced, rbit, reg, hr]
    decide +kernel
  unfold spadBase spadSize at h1 h2
  have hc : canon x = x := by
    rw [canon, if_neg (by omega), if_neg (by omega), if_neg (by omega)]
  have hk : caKind x = .spad 0 (x % 0x400000) := by
    unfold caKind stackSize drawerSize spadSize
    rw [if_neg (by omega), if_neg (by omega), if_pos (by omega), show (x - 0x11000000000) / 0x400000 = 0 by omega]
  rw [hc, isHole, hk, isMirror, hc, hk]
  exact ⟨by simp [hen, hfen, show clusterOf 0 = 0 from rfl], rfl⟩

theorem workState_reach {a n : Nat} (h : (decide (spadBase 0 ≤ a) && decide (a + n ≤ spadBase 0 + spadSize)) = true) : Reach (workState p tb m) 1 a n := by
  simp only [Bool.and_eq_true, decide_eq_true_eq] at h
  obtain ⟨hl, hh⟩ := h
  have hb : spadBase 0 + spadSize ≤ 2 ^ 51 := by decide
  refine ⟨by omega, fun x l perm hl1 hx hy => ⟨⟨openSegment, workState_segment p tb m perm (by omega), ?_⟩, (workState_spad p tb m (by omega) (by omega)).1,
    (workState_spad p tb m (by omega) (by omega)).1, (workState_spad p tb m (by omega) (by omega)).2⟩⟩
  rw [show flag openSegment 52 = false by decide +kernel]
  rfl

end

/-- A command that settles to a state without a fault status has left memory as that state holds it. -/
theorem mem_of_after {i : Instr} {s t : State} (h : exec i s = after t) (hq : quietRegs (stateAfter (exec i s)).regs = true) :
    (stateAfter (exec i s)).mem = t.mem := by
  have hs : stateAfter (exec i s) = settle t := congrArg stateAfter h
  rw [hs] at hq ⊢
  exact settle_mem (quiescent_of_test hq)

theorem countPoison_mem (s : State) (c n : Nat) : (countPoison s c n).mem = s.mem := by
  change (updProg s c fun p => { p with poisonCnt := satAdd64 p.poisonCnt n }).mem = s.mem
  exact updProg_mem _ _ _

theorem poisonRow_mem (s : State) (c : Nat) (r : Nat × Nat) : (poisonRow s c r).mem = s.mem := by
  refine foldl_frame State.mem _ (fun t q => ?_) _ s
  dsimp only
  split_ifs
  · rfl
  · exact countPoison_mem _ _ _

theorem engineParity_mem (s : State) (p : Prog) (c e : Nat) (op : EngOp) : (engineParity s p c e op).mem = s.mem := by
  have h1 : (if movesRows e then ((curOp s c e op).parity && e = 2, s) else fireInjection s (bCore c) 5 (some c) none).2.mem = s.mem := by
    split_ifs
    · rfl
    · exact fireInjection_mem _ _ _ _ _
  have h2 : ∀ u : State, (if e = 0 then fireInjection u (bCore c) 7 (some c) none else (false, u)).2.mem = u.mem := by
    intro u
    split_ifs
    · exact fireInjection_mem _ _ _ _ _
    · rfl
  rw [engineParity]
  generalize (if movesRows e then ((curOp s c e op).parity && e = 2, s) else fireInjection s (bCore c) 5 (some c) none) = r at h1 ⊢
  have h3 := (h2 r.2).trans h1
  generalize (if e = 0 then fireInjection r.2 (bCore c) 7 (some c) none else (false, r.2)) = q at h3 ⊢
  split
  · rw [foldl_frame State.mem _ (fun t x => foldl_frame State.mem _ (fun t r => poisonRow_mem t c r) _ t)]
    split
    · exact (updProg_mem _ _ _).trans h3
    · exact h3
  · exact h3

theorem ranTo_mem (t : State) (p : Prog) (c e : Nat) (op : EngOp) : (ranTo t p c e op).mem = t.mem := (engineParity_mem _ p c e op).trans (updProg_mem _ _ _)

/-- What a command that runs an operation says of the state before the settling holds of memory after it, where no event is taken. -/
theorem runsOp_mem {s : State} {k : CoreIx} {e : Nat} {p : Prog} {op : EngOp} {i : Instr} {Q : State → Prog → Prop} (h : RunsOp s k e p op i Q)
    (hq : quietRegs (stateAfter (exec i s)).regs = true) : ∃ t q, (stateAfter (exec i s)).mem = t.mem ∧ prog? t k.val = some q ∧ Q t q := by
  obtain ⟨t, q, ht, hp, -, -, hQ⟩ := h
  exact ⟨t, q, (mem_of_after ht hq).trans (ranTo_mem t p k.val e op), hp, hQ⟩

end Sys2Proof.Claims
end

section
/-! PROOFS. Two statements about the engines whose states are not asked to have a canonical memory. -/

namespace Sys2Proof.Claims

open Sys2Proof.Machine

/-- A FILL of one row of 8 zero bytes in core 0's scratchpad. -/
def zeroFill : EngOp := freshOp [place 63 56 0x81, 0, place 51 0 (spadBase 0 + 64), place 63 32 8, 0, 0, 0, 0]

/-- Memory that names the row's first byte twice: the first cell counts. -/
def twiceFilled : State := workState (queued plainProg 4 zeroFill) [] [(spadBase 0 + 64, 1), (spadBase 0 + 64, 1)]

/-- Refutes O26: its clause on FILL does not ask that memory be canonical. Where memory names a byte twice, a zero that is written there
removes the first cell, and the byte then reads as the second. -/
theorem not_transferOperationsComplete : ¬ Obligations.TransferOperationsComplete := by
  unfold Obligations.TransferOperationsComplete
  intro hall
  have hspace := workState_reach (queued plainProg 4 zeroFill) [] [(spadBase 0 + 64, 1), (spadBase 0 + 64, 1)] (a := spadBase 0 + 64) (n := 8) (by decide +kernel)
  obtain ⟨-, hfill, -⟩ := hall twiceFilled 0 0 (queued plainProg 4 zeroFill) zeroFill _ (workState_quiet _ _ _) ⟨rfl, by decide +kernel, rfl, rfl, rfl, rfl, rfl⟩ rfl rfl
  obtain ⟨t, -, hmem, -, hbytes⟩ := runsOp_mem (hfill (engineReady_of_test (by decide +kernel)) (by decide +kernel) fun i hi => by
    obtain rfl : i = 0 := by
      have h1 : xRows zeroFill.desc = 1 := by decide +kernel
      omega
    exact hspace) (by decide +kernel)
  have hzero := hbytes (by decide +kernel) ⟨0, by decide +kernel⟩ 0 (by decide +kernel)
  rw [← memByte_of_mem hmem] at hzero
  revert hzero
  decide +kernel

end Sys2Proof.Claims
end

section
/-! PROOFS. A statement about SEL whose states are not asked to have a canonical memory. -/

namespace Sys2Proof.Claims

open Sys2Proof.Machine

/-- A SREAD of stream 0 that writes the number of entries at offset 64 of core 0's scratchpad. -/
def emptyRead : EngOp := freshOp [place 63 56 0x63, 0, place 63 32 64, 0, 0, 0, 0, 0]

/-- A program with an empty stream open. -/
def streamProg : Prog := queued { plainProg with streams := [(0, { isOpen := true, inJig := false, k := 2, min := false, entries := [] })] } 3 emptyRead

/-- Memory that names the first byte of the number twice. -/
def twiceCounted : State := workState streamProg [] [(spadBase 0 + 64, 1), (spadBase 0 + 64, 1)]

/-- Refutes O25: its clause on SREAD does not ask that memory be canonical. Where memory names a byte of the number twice, the zero that is
written there removes the first cell, and the byte then reads as the second. -/
theorem not_selectionOperationsComplete : ¬ Obligations.SelectionOperationsComplete := by
  unfold Obligations.SelectionOperationsComplete
  intro hall
  obtain ⟨-, -, -, hread, -⟩ := hall twiceCounted 0 streamProg emptyRead _ (workState_openSpad _ _ _) rfl
  obtain ⟨t, -, hmem, -, hbytes, -⟩ := runsOp_mem (hread (engineReady_of_test (by decide +kernel)) (by decide +kernel) (by decide +kernel) (by decide +kernel)
    (by decide +kernel)) (by decide +kernel)
  rw [← memBytes_of_mem hmem] at hbytes
  revert hbytes
  decide +kernel

end Sys2Proof.Claims
end

section
/-! PROOFS. A statement about tables whose states are not asked to have a canonical memory. -/

namespace Sys2Proof.Claims

open Sys2Proof.Machine

/-- A TSWAP that finds no handle 1 and answers 1 at offset 0 of core 0's scratchpad. -/
def failingSwap : EngOp := freshOp [place 63 56 0x48, 0, 0, 0, 0, place 51 0 1, 0, 0]

/-- Memory that names the answer's second byte twice. -/
def twiceAnswered : State := workState (queued plainProg 2 failingSwap) [] [(spadBase 0 + 1, 1), (spadBase 0 + 1, 1)]

/-- Refutes O27: its clause on TSWAP does not ask that memory be canonical. Where memory names a byte of the answer twice, the zero that is
written there removes the first cell, and the byte then reads as the second. -/
theorem not_tableOperationsComplete : ¬ Obligations.TableOperationsComplete := by
  unfold Obligations.TableOperationsComplete
  intro hall
  obtain ⟨-, -, -, -, -, hswap, -⟩ := hall twiceAnswered 0 (queued plainProg 2 failingSwap) failingSwap _ (0, []) _ rfl rfl
  have hdesc : (readDesc twiceAnswered (oArg2 failingSwap.desc)).1.map dPlace = some 0 := by decide +kernel
  obtain ⟨t, ht, hbytes⟩ := hswap false (engineReady_of_test (by decide +kernel)) (workState_openSpad _ _ _) (workState_quiet _ _ _) (by decide +kernel) (by decide +kernel)
    (fun e he => by
      rw [he, Option.map_some, Option.some.injEq] at hdesc
      omega) (by decide +kernel)
  have hevent : (engEvent t 0 0x260 128).mem = t.mem := rfl
  have hmem := ((mem_of_after ht (by decide +kernel)).trans (ranTo_mem _ _ _ _ _)).trans hevent
  rw [← memBytes_of_mem hmem] at hbytes
  revert hbytes
  decide +kernel

end Sys2Proof.Claims
end

section
/-! SUPPORT. A LIVE table of two rows in core 0's scratchpad. -/

namespace Sys2Proof.Claims

open Sys2Proof Sys2Proof.Machine

/-- Two rows of four E4M3 elements, with two pools of 64 slots: data, row words and bitmaps in the scratchpad. -/
def liveDesc : List Word :=
  [0, 0, place 63 60 3 ||| place 59 59 1 ||| place 57 53 3 ||| place 31 16 1 ||| place 15 0 4, place 63 28 2 ||| place 27 0 1,
   place 51 0 (spadBase 0 + 0x1000), 0, place 51 0 (spadBase 0 + 0x2000), 0, place 51 0 (spadBase 0 + 0x3000), place 63 38 64 ||| place 37 12 64,
   place 51 0 (spadBase 0 + 0x4000), 0, 0, 0, 0, 0]

/-- What `TableOp` asks of an operation on that table, as a test. -/
def tableTest (p : Prog) (m : SMap Byte) (code : Nat) (op : EngOp) : Bool :=
  readyTest (workState p liveDesc m) 2 code p op && decide (p.ctx = 1) && !p.injig && decide (((queue p 2).filter fun o => o.ord = op.ord) = [op]) && !op.inJig
    && decide (op.progress = 0) && decide (op.tags = []) && decide (op.hole = none) && decide (op.deferred = []) && oOk code op.desc
    && decide (tableOf (workState p liveDesc m) p (oSlot op.desc) = some (0x80, liveDesc)) && fmtUsable (rowFmt op liveDesc) op.cbs
    && descFmtOk liveDesc (rowFmt op liveDesc)

theorem tableOp_of_test {p : Prog} {m : SMap Byte} {code : Nat} {op : EngOp} (h : tableTest p m code op = true) :
    TableOp (workState p liveDesc m) 0 code p op (0x80, liveDesc) := by
  simp only [tableTest, Bool.and_eq_true, decide_eq_true_eq, Bool.not_eq_true'] at h
  obtain ⟨⟨⟨⟨⟨⟨⟨⟨⟨⟨⟨⟨hready, hctx⟩, hjig⟩, hqueue⟩, hin⟩, hprog⟩, htags⟩, hhole⟩, hdef⟩, hok⟩, htable⟩, hfmt⟩, hdesc⟩ := h
  refine ⟨engineReady_of_test hready, ?_, workState_quiet _ _ _, ⟨hjig, hqueue, hin, hprog, htags, hhole, hdef⟩, hok, htable, hfmt, hdesc⟩
  rw [hctx]
  exact workState_openSpad _ _ _

end Sys2Proof.Claims
end

section
/-! PROOFS. A statement about LIVE tables whose states are not asked to have a canonical memory. -/

namespace Sys2Proof.Claims

open Sys2Proof.Machine

/-- A COMMIT of one row, listed at the scratchpad's begin. -/
def rowCommit : EngOp := freshOp [place 63 56 0x45 ||| place 31 0 1, 0, 0, 0, 0, 0, 0, 0]

/-- The word of a row that is home, busy, and of version 0xFF. -/
def busyWord : Word := place 59 59 1 ||| place 23 0 0xFF

/-- Row 0 is listed with slot 3 of pool 0 and its word; memory names the first byte of the row's word twice. -/
def commitMem : SMap Byte :=
  [(spadBase 0 + 11, 3), (spadBase 0 + 16, 0xFF), (spadBase 0 + 23, 8),
   (rowStateCa liveDesc 0, 0xFF), (rowStateCa liveDesc 0, 1), (rowStateCa liveDesc 0 + 7, 8)]

def twiceCommitted : State := workState (queued plainProg 2 rowCommit) liveDesc commitMem

theorem twiceCommitted_reach : Reach twiceCommitted 1 (rowStateCa liveDesc 0) 8 := workState_reach _ _ _ (by decide +kernel)

/-- Refutes O28: its clause on COMMIT does not ask that memory be canonical. The version's low byte goes from 0xFF to 0; where memory names
that byte twice, the zero removes the first cell, and the byte then reads as the second. -/
theorem not_liveTableOperationsComplete : ¬ Obligations.LiveTableOperationsComplete := by
  unfold Obligations.LiveTableOperationsComplete
  intro hall
  obtain ⟨-, hcommit, -⟩ := hall twiceCommitted 0 (queued plainProg 2 rowCommit) rowCommit _ (0x80, liveDesc) 0 0 busyWord rfl (by decide +kernel)
    ⟨⟨0, by decide +kernel⟩, by decide +kernel⟩ twiceCommitted_reach (by decide +kernel)
  obtain ⟨t, -, hmem, -, hbytes, -⟩ := runsOp_mem (hcommit _ (tableOp_of_test (by decide +kernel))
    ⟨homeCa liveDesc 0, by decide +kernel, by decide +kernel, by decide +kernel⟩ (by decide +kernel) (by decide +kernel) (by decide +kernel) rfl (by decide +kernel)
    (by decide +kernel) (by decide +kernel) (by decide +kernel) (by decide +kernel) (by decide +kernel)) (by decide +kernel)
  rw [← memBytes_of_mem hmem] at hbytes
  revert hbytes
  decide +kernel

end Sys2Proof.Claims
end

section
/-! PROOFS. A statement about the tables' background work whose states are not asked to have a canonical memory. -/

namespace Sys2Proof.Claims

open Sys2Proof.Machine

/-- A MIGRATE of one row that waits for the row's lock. -/
def waitingMigrate : EngOp := { freshOp [place 63 56 0x46 ||| place 31 0 1, 0, 0, 0, 0, 0, 0, 0] with parked := true }

/-- The word of a row that is home and whose lock is one of boot number 1, now past. -/
def staleWord : Word := place 58 51 1

/-- Memory that names the byte of the boot number twice. -/
def twiceLocked : State := workState (queued plainProg 2 waitingMigrate) liveDesc [(rowStateCa liveDesc 0 + 6, 8), (rowStateCa liveDesc 0 + 6, 1)]

theorem twiceLocked_reach {a n : Nat} (h : (decide (spadBase 0 ≤ a) && decide (a + n ≤ spadBase 0 + spadSize)) = true) : Reach twiceLocked 1 a n :=
  workState_reach _ _ _ h

/-- Refutes O30: its clause on the row lock does not ask that memory be canonical. The lock takes the boot number 0; where memory names the
byte of the old number twice, the zero removes the first cell, and the byte then reads as the second. -/
theorem not_tableBackgroundWorkIsDone : ¬ Obligations.TableBackgroundWorkIsDone := by
  unfold Obligations.TableBackgroundWorkIsDone
  intro hall
  obtain ⟨-, hlock, -⟩ := hall twiceLocked
  obtain ⟨t, ht, hbytes, -⟩ := (hlock 0 (queued plainProg 2 waitingMigrate) waitingMigrate (0x80, liveDesc) 0 staleWord (by decide +kernel) (by decide +kernel)
    (workState_openSpad _ _ _) (by decide +kernel) (by decide +kernel) rfl (by decide +kernel) (Or.inr (by decide +kernel)) (by decide +kernel) (by decide +kernel)
    ⟨⟨0, by decide +kernel⟩, by decide +kernel⟩ (twiceLocked_reach (by decide +kernel))).1 rfl rfl (by decide +kernel) (by decide +kernel)
    (twiceLocked_reach (by decide +kernel))
  have hmem := mem_of_after ht (by decide +kernel)
  rw [← memBytes_of_mem hmem] at hbytes
  revert hbytes
  decide +kernel

end Sys2Proof.Claims
end

section
/-! PROOFS. A statement about Chisel whose states are not asked to have a canonical memory. -/

namespace Sys2Proof.Claims

open Sys2Proof.Machine

/-- An ADD of one FP32 element at offset 0 of core 0's scratchpad to itself, with its sum at offset 64. -/
def zeroAdd : EngOp := freshOp [place 63 56 0x20, 0, 0, 0, place 63 32 64, place 63 48 1 ||| place 47 32 1, 0, 0]

/-- Memory that names the sum's first byte twice; the element is 0. -/
def twiceSummed : State := workState (queued plainProg 1 zeroAdd) [] [(spadBase 0 + 64, 1), (spadBase 0 + 64, 1)]

theorem rowsFit_first {off n : Nat} (h : off + n ≤ spadSize) (stride : Nat) : RowsFit off stride n 1 := fun i hi => by
  obtain rfl : i = 0 := by omega
  omega

/-- Refutes O29: its clause on the bytes of Z does not ask that memory be canonical. Where memory names a byte of Z twice, the zero that is
written there removes the first cell, and the byte then reads as the second. -/
theorem not_chiselOperationsComplete : ¬ Obligations.ChiselOperationsComplete := by
  unfold Obligations.ChiselOperationsComplete
  rintro ⟨hadd, -⟩
  obtain ⟨t, -, hmem, -, -, -, -, -, -, hbytes⟩ := runsOp_mem (hadd twiceSummed 0 (queued plainProg 1 zeroAdd) zeroAdd _ 1 1 _ (engineReady_of_test (by decide +kernel))
    (workState_openSpad _ _ _) rfl (by decide +kernel) (by decide +kernel) rfl (by decide +kernel) (by decide +kernel) (by decide +kernel)
    (rowsFit_first (by decide +kernel) _) (fun _ _ => rowsFit_first (by decide +kernel) _) (fun h => absurd h (by decide +kernel))
    (rowsFit_first (by decide +kernel) _) (by decide +kernel) (fun h => absurd h (by decide +kernel))) (by decide +kernel)
  obtain ⟨hz, -⟩ := hbytes _ _ _ _ rfl rfl rfl rfl rfl rfl (fun _ => rfl) (Or.inr (by decide +kernel))
  rw [← memBytes_of_mem hmem] at hz
  revert hz
  decide +kernel

end Sys2Proof.Claims
end

section
/-! SUPPORT. Rows in a core's scratchpad: the checks of an operand's rows, and their reads and writes, which no cache sees. -/

namespace Sys2Proof.Machine

open Sys2Proof

variable {s : State} {c : Nat}

/-! Bytes of memory, cut up. -/

theorem memBytes_append (s : State) (a m n : Nat) : memBytes s a (m + n) = memBytes s a m ++ memBytes s (a + m) n := by
  induction m generalizing a with
  | zero => rw [Nat.zero_add]; rfl
  | succ m ih => rw [Nat.add_right_comm, memBytes, memBytes, List.cons_append, ih, Nat.add_assoc, Nat.add_comm 1 m]

theorem length_memBytes (s : State) (a n : Nat) : (memBytes s a n).length = n := by
  induction n generalizing a with
  | zero => rfl
  | succ n ih => rw [memBytes, List.length_cons, ih]

theorem memBytes_drop_take (s : State) (a : Nat) {i n m : Nat} (h : i + n ≤ m) : ((memBytes s a m).drop i).take n = memBytes s (a + i) n := by
  obtain ⟨r, rfl⟩ := Nat.exists_eq_add_of_le h
  rw [Nat.add_assoc, memBytes_append, List.drop_append_of_le_length (Nat.le_of_eq (length_memBytes s a i).symm), List.drop_of_length_le (Nat.le_of_eq (length_memBytes s a i)),
    List.nil_append, memBytes_append, List.take_append_of_le_length (Nat.le_of_eq (length_memBytes s _ n).symm), List.take_of_length_le (Nat.le_of_eq (length_memBytes s _ n))]

/-- A part lies in its chunk and in the range that is cut. -/
theorem chunkParts_bounds {fuel a n : Nat} {q : Nat × Nat × Nat} (h : q ∈ chunkParts fuel a n) :
    a ≤ q.1 * 64 + q.2.1 ∧ q.1 * 64 + q.2.1 + q.2.2 ≤ a + n ∧ 1 ≤ q.2.2 ∧ q.2.1 + q.2.2 ≤ 64 := by
  induction fuel generalizing a n with
  | zero => cases h
  | succ fuel ih =>
    rw [chunkParts] at h
    split at h
    · cases h
    · next hn =>
      rcases List.mem_cons.1 h with rfl | h
      · dsimp only
        omega
      · have := ih h
        omega

theorem chunkParts_bytes (s : State) {fuel a n : Nat} (h : n = 0 ∨ n + a % 64 ≤ 64 * fuel) :
    (chunkParts fuel a n).flatMap (fun q => memBytes s (q.1 * 64 + q.2.1) q.2.2) = memBytes s a n := by
  induction fuel generalizing a n with
  | zero =>
    obtain rfl : n = 0 := by omega
    rfl
  | succ fuel ih =>
    rw [chunkParts]
    split
    · next hn =>
      rw [hn]
      rfl
    · have hrest : n - min n (64 - a % 64) = 0 ∨ n - min n (64 - a % 64) + (a + min n (64 - a % 64)) % 64 ≤ 64 * fuel := by
        rcases Nat.le_total n (64 - a % 64) with hle | hle
        · rw [Nat.min_eq_left hle]
          omega
        · rw [Nat.min_eq_right hle]
          omega
      dsimp only
      rw [List.flatMap_cons, ih hrest, show a / 64 * 64 + a % 64 = a by omega, ← memBytes_append, show min n (64 - a % 64) + (n - min n (64 - a % 64)) = n by omega]

theorem parts_bytes (s : State) (a n : Nat) : (parts a n).flatMap (fun q => memBytes s (q.1 * 64 + q.2.1) q.2.2) = memBytes s a n :=
  chunkParts_bytes s (Or.inr (by omega))

/-! What an engine's reads and writes leave of its program and of the segments. -/

/-- A program that a core has stays under a change of another core. -/
theorem prog?_setCore_found {k : Nat} {p : Prog} (x : Core) (hk : k ≠ c) (hp : prog? s c = some p) : prog? (setCore s k x) c = prog? s c := by
  have hne : mapGet (fun _ => coreInit) s.cores c ≠ coreInit := fun he => by
    rw [prog?, core, he] at hp
    cases hp
  exact congrArg Core.prog (mapGet_mapSet_of_found (fun _ => coreInit) s.cores x hk hne)

/-- Core `c` has a program of the core `v`, and segments and keys are those of `s0`. -/
def engKept (c : Nat) (s0 : State) (p0 : Prog) : Kept where
  holds s := s.work = s0.work ∧ s.keys = s0.keys ∧ ∃ q, prog? s c = some q ∧ progCore q = progCore p0
  frame {s t} h e := by
    obtain ⟨hw, hk, q, hp, hq⟩ := h
    simp only [keptView, Prod.mk.injEq] at e
    obtain ⟨-, -, -, ekeys, -, -, -, -, -, ecores, ework⟩ := e
    refine ⟨ework.trans hw, ekeys.trans hk, q, ?_, hq⟩
    rw [prog?, core, ecores]
    exact hp
  reg _ _ h := h
  byte _ _ h := h
  caches {s} k x hx h := by
    obtain ⟨hw, hk, q, hp, hq⟩ := h
    refine ⟨hw, hk, q, ?_, hq⟩
    by_cases hkc : k = c
    · subst hkc
      exact prog?_setCore_run s k x q (hx.trans hp)
    · exact (prog?_setCore_found x hkc hp).trans hp
  prog {s} k f hf h := by
    obtain ⟨hw, hk, q, hp, hq⟩ := h
    by_cases hkc : k = c
    · subst hkc
      refine ⟨?_, ?_, f q, prog?_updProg f hp, (hf q).trans hq⟩
      all_goals
        rw [updProg, hp]
        assumption
    · rw [updProg]
      split
      · exact ⟨hw, hk, q, (prog?_setCore_found _ hkc hp).trans hp, hq⟩
      · exact ⟨hw, hk, q, hp, hq⟩
  dev _ _ _ _ _ h := h


/-! The scratchpad. -/

/-- A checked target of `n` bytes in core `c`'s scratchpad, which no key encrypts. -/
def SpadTarget (c n : Nat) (t : Target) : Prop :=
  t.host = false ∧ t.io = false ∧ t.key = none ∧ spadBase c ≤ t.addr ∧ t.addr + n ≤ spadBase c + spadSize

theorem canon_spad {x : Nat} (hc : c < 384) (h1 : spadBase c ≤ x) (h2 : x ≤ spadBase c + spadSize) : canon x = x := by
  unfold spadBase spadSize at h1 h2
  rw [canon, if_neg (by omega), if_neg (by omega), if_neg (by omega)]

theorem caKind_spad {x : Nat} (hc : c < 384) (h1 : spadBase c ≤ x) (h2 : x < spadBase c + spadSize) : ∃ o, caKind x = .spad c o := by
  unfold spadBase spadSize at h1 h2
  refine ⟨x % 0x400000, ?_⟩
  unfold caKind stackSize drawerSize spadSize
  rw [if_neg (by omega), if_neg (by omega), if_pos (by omega), show (x - 0x11000000000) / 0x400000 = c by omega]

/-- A chunk of a part of a target lies in the scratchpad. -/
theorem caKind_part (hc : c < 384) {t : Target} {n : Nat} (ht : SpadTarget c n t) {q : Nat × Nat × Nat} (hq : q ∈ parts t.addr n) :
    ∃ o, caKind (q.1 * 64) = .spad c o := by
  obtain ⟨-, -, -, hlo, hhi⟩ := ht
  obtain ⟨h1, h2, h3, h4⟩ := chunkParts_bounds hq
  refine caKind_spad hc ?_ (by omega)
  unfold spadBase spadSize at hlo ⊢
  omega

theorem encApplies_spad {x : Nat} (h1 : 0x11000000000 ≤ x) (h2 : x ≤ 0x11000000000 + 384 * 0x400000) : encApplies x = false := by
  unfold encApplies caKind stackSize drawerSize spadSize
  rw [if_neg (by omega), if_neg (by omega)]
  by_cases h : x < 0x11000000000 + 384 * 0x400000
  · rw [if_pos ⟨h1, h⟩]
  · rw [if_neg (fun hx => h hx.2), if_neg (by omega), if_neg (by omega), if_neg (by omega)]

theorem segTarget_spad (hc : c < 384) {x n : Nat} (w : Word) (h1 : spadBase c ≤ x) (h2 : x + n ≤ spadBase c + spadSize) :
    SpadTarget c n (segTarget x w) ∧ (segTarget x w).addr = x := by
  have hcanon := canon_spad hc h1 (by omega)
  have haddr : (segTarget x w).addr = x := hcanon
  refine ⟨⟨rfl, rfl, ?_, haddr.symm ▸ h1, haddr.symm ▸ h2⟩, haddr⟩
  have henc : encApplies x = false := encApplies_spad (by unfold spadBase at h1; omega) (by unfold spadBase spadSize at h2; omega)
  change (if flag w 53 && encApplies (canon x) then some (fld w 63 54) else none) = none
  rw [hcanon, henc, Bool.and_false]
  rfl

theorem uncached_spad {k o : Nat} (w : Who) (h : caKind (k * 64) = .spad c o) : uncached w k = true := by
  rw [uncached, h]

/-! Checks. -/

/-- A program and its context may use core `c`'s scratchpad as in `s0`. -/
theorem openSpad_frame {s0 : State} {ctx : BitVec 12} (hw : s.work = s0.work) (hk : s.keys = s0.keys) (h : OpenSpad s0 c ctx) : OpenSpad s c ctx := by
  intro a n perm h1 h2
  have heq : segCheck s ctx a n perm = segCheck s0 ctx a n perm := by
    have hwk : ∀ b o, wk s b o = wk s0 b o := fun b o => by rw [wk, wk, hw]
    have hgov : govSeg s ctx a = govSeg s0 ctx a := by
      simp only [govSeg, hwk]
    have hkey : ∀ i, keyAt s i = keyAt s0 i := fun i => by rw [keyAt, keyAt, hk]
    simp only [segCheck, hgov, hkey]
  rw [heq]
  exact h a n perm h1 h2

theorem operandRow_spad {ctx : BitVec 12} (hc : c < 384) (h : OpenSpad s c ctx) {off n : Nat} (hf : off + n ≤ spadSize) (perm : Perm) :
    ∃ t, operandRow c ctx false off n perm s = .ok t s ∧ SpadTarget c n t ∧ t.addr = spadBase c + off := by
  have hok := h (spadBase c + off) n perm (Nat.le_add_right _ _) (by omega)
  cases hseg : segCheck s ctx (spadBase c + off) n perm with
  | error e =>
    rw [hseg] at hok
    cases hok
  | ok w =>
    refine ⟨segTarget (spadBase c + off) w, ?_, segTarget_spad hc w (Nat.le_add_right _ _) (by omega)⟩
    have hlim : ¬ spadSize < off + n := by omega
    simp only [operandRow, Bool.false_eq_true, if_false, hlim, M_bind, M_get, hseg]
    rfl

/-- The rows of an operand that fit the scratchpad pass their checks, and change nothing. -/
theorem operandRows_spad {ctx : BitVec 12} (hc : c < 384) (h : OpenSpad s c ctx) {stride n k off : Nat} (hf : RowsFit off stride n k) (perm : Perm) :
    ∃ ts, operandRows c ctx false stride n perm k off s = .ok ts s ∧ (∀ t ∈ ts, SpadTarget c n t)
      ∧ ∀ i, i < k → ∃ t, ts[i]? = some t ∧ t.addr = spadBase c + off + i * stride := by
  induction k generalizing off with
  | zero => exact ⟨[], rfl, fun _ ht => absurd ht List.not_mem_nil, fun i hi => absurd hi (Nat.not_lt_zero i)⟩
  | succ k ih =>
    obtain ⟨t, ht, hspad, haddr⟩ := operandRow_spad hc h (off := off) (n := n) (by have := hf 0 (by omega); omega) perm
    obtain ⟨ts, hts, hall, hat⟩ := ih (off := off + stride) fun i hi => by
      have := hf (i + 1) (by omega)
      rw [Nat.add_mul] at this
      omega
    refine ⟨t :: ts, ?_, fun u hu => ?_, fun i hi => ?_⟩
    · simp only [operandRows, M_bind, ht, hts, M_pure]
    · rcases List.mem_cons.1 hu with rfl | hu
      · exact hspad
      · exact hall u hu
    · cases i with
      | zero => exact ⟨t, rfl, by rw [haddr]; omega⟩
      | succ i =>
        obtain ⟨u, hu, hau⟩ := hat i (by omega)
        refine ⟨u, hu, ?_⟩
        rw [hau, Nat.add_mul]
        omega

/-! Reads. -/

variable {I : Kept}

theorem readPart_spad (w : Who) {t : Target} {n : Nat} (hc : c < 384) (ht : SpadTarget c n t) {q : Nat × Nat × Nat} (hq : q ∈ parts t.addr n) (u : State) :
    readPart w t q.1 q.2.1 q.2.2 u = .ok (chunkRead u w q.1 q.2.1 q.2.2 none).1 (chunkRead u w q.1 q.2.1 q.2.2 none).2 := by
  obtain ⟨o, ho⟩ := caKind_part hc ht hq
  obtain ⟨hhost, -, hkey, -⟩ := ht
  simp only [readPart, hhost, Bool.false_eq_true, if_false, cohRead, M_bind, M_get, uncached_spad w ho, if_true, hkey, M_set]
  rfl

theorem chunkRead_bytes (w : Who) {q : Nat × Nat × Nat} (u : State) (h : q.2.1 + q.2.2 ≤ 64) :
    (chunkRead u w q.1 q.2.1 q.2.2 none).1.1 = memBytes u (q.1 * 64 + q.2.1) q.2.2 := by
  have hmem : (countBytes (chunkCheck u w q.1).2 w q.1 q.2.2 false).mem = u.mem := by rw [countBytes_mem, chunkCheck_mem]
  change ((memBytes (countBytes (chunkCheck u w q.1).2 w q.1 q.2.2 false) (q.1 * 64) 64).drop q.2.1).take q.2.2 = _
  rw [memBytes_drop_take _ _ h]
  exact memBytes_of_mem hmem _ _

theorem readParts_spad (w : Who) {t : Target} {n : Nat} (hc : c < 384) (ht : SpadTarget c n t) (l : List (Nat × Nat × Nat)) (hl : ∀ q ∈ l, q ∈ parts t.addr n)
    (h : I.holds s) : ∃ r u, readParts w t l s = .ok r u ∧ I.holds u ∧ u.mem = s.mem ∧ r.bytes = l.flatMap fun q => memBytes s (q.1 * 64 + q.2.1) q.2.2 := by
  induction l generalizing s with
  | nil => exact ⟨rowNil, s, rfl, h, rfl, rfl⟩
  | cons q l ih =>
    have hq := hl q List.mem_cons_self
    obtain ⟨-, -, -, h64⟩ := chunkParts_bounds hq
    have hm : (chunkRead s w q.1 q.2.1 q.2.2 none).2.mem = s.mem := chunkRead_mem _ _ _ _ _
    obtain ⟨r, u, hr, hI, hu, hb⟩ := ih (fun x hx => hl x (List.mem_cons_of_mem _ hx)) (chunkRead_holds w q.1 q.2.1 q.2.2 none h)
    refine ⟨Row.append { bytes := (chunkRead s w q.1 q.2.1 q.2.2 none).1.1, pois := List.replicate q.2.2 (chunkRead s w q.1 q.2.1 q.2.2 none).1.2 } r, u, ?_, hI,
      hu.trans hm, ?_⟩
    · simp only [readParts, M_bind, readPart_spad w hc ht hq, hr, M_pure]
    · rw [Row.append, hb, List.flatMap_cons, chunkRead_bytes w s h64]
      refine congrArg _ (congrArg (List.flatMap · l) (funext fun x => memBytes_of_mem hm _ _))

theorem readRowList_spad (w : Who) {n : Nat} (hc : c < 384) (ts : List Target) (ht : ∀ t ∈ ts, SpadTarget c n t) (h : I.holds s) :
    ∃ rs u, readRowList w n ts s = .ok rs u ∧ I.holds u ∧ u.mem = s.mem
      ∧ ∀ (i : Nat) (t : Target), ts[i]? = some t → ∃ r : Row, rs[i]? = some r ∧ r.bytes = memBytes s t.addr n := by
  induction ts generalizing s with
  | nil => exact ⟨[], s, rfl, h, rfl, fun i t hi => by simp at hi⟩
  | cons t ts ih =>
    obtain ⟨r, u, hr, hI, hu, hb⟩ := readParts_spad w hc (ht t List.mem_cons_self) (parts t.addr n) (fun _ hq => hq) h
    obtain ⟨rs, v, hrs, hJ, hv, hat⟩ := ih (fun x hx => ht x (List.mem_cons_of_mem _ hx)) hI
    refine ⟨r :: rs, v, ?_, hJ, hv.trans hu, fun i x hx => ?_⟩
    · simp only [readRowList, readRow, M_bind, hr, hrs, M_pure]
    · cases i with
      | zero =>
        obtain rfl : t = x := Option.some.inj hx
        exact ⟨r, rfl, hb.trans (parts_bytes s t.addr n)⟩
      | succ i =>
        obtain ⟨y, hy, hyb⟩ := hat i x hx
        exact ⟨y, hy, hyb.trans (memBytes_of_mem hu _ _)⟩

/-! Writes. -/

theorem writeParts_spad (w : Who) {t : Target} {n : Nat} (hc : c < 384) (ht : SpadTarget c n t) (l : List (Nat × Nat × Nat)) (hl : ∀ q ∈ l, q ∈ parts t.addr n)
    (r : Row) (h : I.holds s) : ∃ u, writeParts w t l r s = .ok () u ∧ I.holds u := by
  induction l generalizing s r with
  | nil => exact ⟨s, rfl, h⟩
  | cons q l ih =>
    obtain ⟨o, ho⟩ := caKind_part hc ht (hl q List.mem_cons_self)
    obtain ⟨hhost, hio, hkey, -⟩ := ht
    have h1 := chunkWrite_holds w q.1 q.2.1 (r.bytes.take q.2.2) ((r.pois.take q.2.2).any id) none h
    obtain ⟨u, hu, hI⟩ := ih (fun x hx => hl x (List.mem_cons_of_mem _ hx)) { bytes := r.bytes.drop q.2.2, pois := r.pois.drop q.2.2 } h1
    refine ⟨u, ?_, hI⟩
    have hpart : writePart w t q.1 q.2.1 (r.bytes.take q.2.2) ((r.pois.take q.2.2).any id) s
        = .ok () (chunkWrite s w q.1 q.2.1 (r.bytes.take q.2.2) ((r.pois.take q.2.2).any id) none) := by
      simp only [writePart, hio, hhost, Bool.false_eq_true, if_false, cohWrite, M_bind, M_get, uncached_spad w ho, if_true, hkey, M_set]
    simp only [writeParts, M_bind, hpart]
    exact hu

theorem countPoison_holds (k n : Nat) (h : I.holds s) : I.holds (countPoison s k n) :=
  ctxCtr_holds _ _ _ (by decide) (coreCtr_holds _ _ _ (by decide) (I.prog k _ (fun _ => rfl) h))

theorem writeRowList_spad (k : Nat) (w : Who) (hc : c < 384) (l : List (Target × Row)) (hl : ∀ x ∈ l, SpadTarget c x.2.bytes.length x.1) (h : I.holds s) :
    ∃ u, writeRowList k w l s = .ok () u ∧ I.holds u := by
  induction l generalizing s with
  | nil => exact ⟨s, rfl, h⟩
  | cons x l ih =>
    obtain ⟨u, hu, hI⟩ := writeParts_spad w hc (hl x List.mem_cons_self) (parts x.1.addr x.2.bytes.length) (fun _ hq => hq) x.2 h
    obtain ⟨v, hv, hJ⟩ := ih (fun y hy => hl y (List.mem_cons_of_mem _ hy)) (countPoison_holds k (poisonedChunks u x.1.addr x.2.bytes.length) hI)
    refine ⟨v, ?_, hJ⟩
    simp only [writeRowList, writeRow, M_bind, hu, M_modify]
    exact hv

end Sys2Proof.Machine
end

section
/-! SUPPORT. Anvil's operations where their descriptors are accepted and their rows lie in the scratchpad. -/

namespace Sys2Proof.Machine

open Sys2Proof

variable {s : State} {c : Nat}

section
variable {I : Kept}

theorem engEvent_holds (i mask : Nat) (hi : i < 0x100) (h : I.holds s) : I.holds (engEvent s c (0x200 + i) mask) := by
  have hs : ∀ o, 0x40 < o → o < 0x10000 → Spare (bCore c) o := fun o h1 h2 => spare_of_faultFree (bankKey_lt_core c) (faultFree_low _ h2 (by omega))
  exact ite_holds h (setRf_holds _ _ _ (hs _ (by omega) (by omega)) (I.reg _ (hs _ (by omega) (by omega)) h))

/-- Numeric events of ANV. -/
theorem numEvent_holds (mask : Nat) (h : I.holds s) : I.holds (numEvent s c 0 mask) := I.prog c _ (fun _ => rfl) (engEvent_holds 0 mask (by decide) h)

theorem eccEvent_holds (b : Blk) (k ca : Nat) (found : EccFound) (h : I.holds s) : I.holds (eccEvent s b k ca found) := by
  cases found with
  | clean => exact h
  | single => exact raiseFault_holds _ _ _ _ h
  | double => exact raiseFault_holds _ _ _ _ (markUncorrectable_holds _ h)

theorem refreshRow_holds (k : CoreIx) (bank : Nat) (found : EccFound) (word : Nat) (h : I.holds s) : I.holds (refreshRow s k bank found word) := by
  have h1 : ∀ w : Power, I.holds { s with power := w } := fun _ => I.frame h rfl
  exact eccEvent_holds _ _ _ _ (chunkCheck_holds _ _ (h1 _))

theorem applySlips_holds (slips : List SlipObs) (h : I.holds s) : I.holds (applySlips s c slips) := by
  refine foldl_holds _ (fun t x ht => ?_) _ h
  cases x with
  | drawerRefresh k b found word => exact slipStart_holds _ _ _ (refreshRow_holds _ _ _ _ ht)
  | bank | drawer | outsideSpad | outsideDrawer | allowance _ => exact slipStart_holds _ _ _ ht

end

theorem engEvent_mem (o mask : Nat) : (engEvent s c o mask).mem = s.mem := by
  rw [engEvent]
  split
  · rfl
  · rfl

theorem numEvent_mem (e mask : Nat) : (numEvent s c e mask).mem = s.mem := (updProg_mem _ _ _).trans (engEvent_mem _ _)

theorem eccEvent_mem (b : Blk) (k ca : Nat) (found : EccFound) : (eccEvent s b k ca found).mem = s.mem := by
  cases found with
  | clean => rfl
  | single => rfl
  | double => exact markUncorrectable_mem _ _

theorem refreshRow_mem (k : CoreIx) (bank : Nat) (found : EccFound) (word : Nat) : (refreshRow s k bank found word).mem = s.mem := by
  have h1 : ∀ w : Power, (chunkCheck { s with power := w } whoNone ((drawerBase k.val + (refreshRowOf s k.val bank * 16 + bank) * 512 + 8 * (word % 64)) / 64)).2.mem = s.mem :=
    fun _ => chunkCheck_mem _ _ _
  exact (eccEvent_mem _ _ _ _).trans (h1 _)

theorem applySlips_mem (slips : List SlipObs) : (applySlips s c slips).mem = s.mem := by
  refine foldl_frame State.mem _ (fun t x => ?_) _ s
  cases x with
  | drawerRefresh k b found word => exact (slipStart_mem _ _ _ _).trans (refreshRow_mem _ _ _ _)
  | bank | drawer | outsideSpad | outsideDrawer | allowance _ => exact slipStart_mem _ _ _ _

/-! Banks. -/

theorem bankOf_setBank {p : Prog} {n : Nat} {b : Bank} (h : b.mode ≠ .empty) : bankOf (setBank p n b) n = b :=
  mapGet_mapSet_self_of_ne _ _ _ _ fun he => h (congrArg Bank.mode he)

theorem bankOf_setBank_empty {p : Prog} (n : Nat) (h : mapWf (fun _ => bankEmpty) p.banks = true) : bankOf (setBank p n bankEmpty) n = bankEmpty :=
  mapGet_mapSet_self _ _ 0 _ _ h

/-- A program whose core, as far as the engines keep it, is that of `p` with another bank. -/
theorem progCore_setBank {p q : Prog} {n : Nat} {b : Bank} (h : progCore q = progCore p) : progCore (setBank q n b) = progCore (setBank p n b) := by
  simp only [progCore, Prod.mk.injEq] at h
  obtain ⟨hpc, hs, hq, hb⟩ := h
  simp only [progCore, setBank, hpc, hs, hq, hb]

theorem updProg_setBank_holds {p : Prog} {s0 : State} (n : Nat) (b : Bank) (h : (engKept c s0 p).holds s) :
    (engKept c s0 (setBank p n b)).holds (updProg s c fun q => setBank q n b) := by
  obtain ⟨hw, hk, q, hp, hq⟩ := h
  refine ⟨?_, ?_, setBank q n b, prog?_updProg _ hp, progCore_setBank hq⟩
  all_goals
    rw [updProg, hp]
    assumption

theorem engKept_self {p : Prog} (hp : prog? s c = some p) : (engKept c s p).holds s := ⟨rfl, rfl, p, hp, rfl⟩

theorem openSpad_kept {p q : Prog} {s0 : State} (h : (engKept c s0 q).holds s) (ho : OpenSpad s0 c p.ctx) : OpenSpad s c p.ctx := by
  obtain ⟨hw, hk, -⟩ := h
  exact openSpad_frame hw hk ho

/-! The rows of scales, where there are any. -/

theorem scaleRows_spad {ctx : BitVec 12} (hc : c < 384) (h : OpenSpad s c ctx) {b stride n k off : Nat} (hf : b ≠ 0 → RowsFit off stride n k) (perm : Perm) :
    ∃ ts, (if b = 0 then pure [] else operandRows c ctx false stride n perm k off : M (List Target)) s = .ok ts s ∧ ∀ t ∈ ts, SpadTarget c n t := by
  by_cases hb : b = 0
  · exact ⟨[], by rw [if_pos hb]; rfl, fun _ ht => absurd ht List.not_mem_nil⟩
  · obtain ⟨ts, hts, hall, -⟩ := operandRows_spad hc h (hf hb) perm
    exact ⟨ts, by rw [if_neg hb]; exact hts, hall⟩

/-- A choice before a piece of work, where the work stands in both branches. -/
theorem M_ite_bind {α β : Type} {q : Prop} [Decidable q] (x y : M α) (f : α → M β) : (if q then x >>= f else y >>= f) = (if q then x else y) >>= f := by
  split
  · rfl
  · rfl

/-! MMA (R79-R89). -/

/-- MMA runs to its end: it reads its rows and writes its bank. -/
theorem anvMma_runs {s0 : State} {p : Prog} {op : EngOp} {w0 : Word} {fa fb : Fmt} {b0 : Bank} {ordered : Bool} {md : BankMode} (hc : c < 384) (h : (engKept c s0 p).holds s) (ho : OpenSpad s c p.ctx)
    (hw0 : w0 = wordAt op.desc 0) (hfa : fa = fmtEntry op.fmts (fld w0 55 51)) (hfb : fb = fmtEntry op.fmts (fld w0 50 46))
    (hord : ordered = (decide (fld w0 55 51 = fld w0 50 46) && (decide (fld w0 55 51 = 1) || decide (fld w0 55 51 = 2))))
    (hb0 : b0 = if flag w0 38 then bankEmpty else bankOf p (fld w0 39 39))
    (hreq : (mmaWords op.desc && fmtUsable fa op.cbs && fmtUsable fb op.cbs && (ordered || (exactFmt fa && exactFmt fb))) = true)
    (hblk : (if ordered then decide (fld w0 45 44 = 0) && decide (fld w0 43 42 = 0)
      else decide (fld w0 31 16 % min (blkSz (fld w0 45 44)) (blkSz (fld w0 43 42)) = 0)) = true)
    (hmode : (decide (b0.mode = .empty) || decide (b0.mode = if ordered then BankMode.ordered else .exact)) = true) (hmd : (if ordered then BankMode.ordered else .exact) = md)
    (hlim : (!ordered && (bankIx (fld w0 7 0) (fld w0 15 8)).any (fun q => decide (accLimit
      < (bankElem b0 q.1 q.2).acc.count + fld w0 31 16 / min (blkSz (fld w0 45 44)) (blkSz (fld w0 43 42))))) = false)
    (hslot : flag w0 35 = false)
    (hA : RowsFit (fld (wordAt op.desc 1) 63 32) (fld (wordAt op.desc 1) 31 0) (rowBytes fa.width (if flag w0 37 then fld w0 7 0 else fld w0 31 16))
      (if flag w0 37 then fld w0 31 16 else fld w0 7 0))
    (hB : RowsFit (fld (wordAt op.desc 2) 63 32) (fld (wordAt op.desc 2) 31 0) (rowBytes fb.width (if flag w0 36 then fld w0 31 16 else fld w0 15 8))
      (if flag w0 36 then fld w0 15 8 else fld w0 31 16))
    (hSa : fld w0 45 44 ≠ 0 → RowsFit (fld (wordAt op.desc 3) 63 32) (fld (wordAt op.desc 4) 63 32) (kScales (fld w0 45 44) (fld w0 31 16)) (fld w0 7 0))
    (hSb : fld w0 43 42 ≠ 0 → RowsFit (fld (wordAt op.desc 3) 31 0) (fld (wordAt op.desc 4) 31 0) (fld w0 15 8) (kScales (fld w0 43 42) (fld w0 31 16))) :
    ∃ u b k e, anvMma c p op s = .ok () (numEvent (ctxCtr (coreCtr (updProg u c fun q => setBank q (fld w0 39 39) b) c 2 k) p.ctx 2 k) c 0 e)
      ∧ (engKept c s0 p).holds u ∧ u.mem = s.mem ∧ b.mode = md := by
  subst hw0 hfa hfb hord hb0
  obtain ⟨ta, hta, hsa, -⟩ := operandRows_spad hc ho hA .r
  obtain ⟨tb, htb, hsb, -⟩ := operandRows_spad hc ho hB .r
  obtain ⟨tsa, htsa, hssa⟩ := scaleRows_spad hc ho hSa .r
  obtain ⟨tsb, htsb, hssb⟩ := scaleRows_spad hc ho hSb .r
  obtain ⟨ra, u1, hra, h1, hm1, -⟩ := readRowList_spad (whoCore s c) hc ta hsa h
  obtain ⟨rb, u2, hrb, h2, hm2, -⟩ := readRowList_spad (whoCore s c) hc tb hsb h1
  obtain ⟨rsa, u3, hrsa, h3, hm3, -⟩ := readRowList_spad (whoCore s c) hc tsa hssa h2
  obtain ⟨rsb, u4, hrsb, h4, hm4, -⟩ := readRowList_spad (whoCore s c) hc tsb hssb h3
  simp only [anvMma, M_ite_bind]
  simp only [M_bind, hreq, hblk, hmode, hlim, hslot, require'_true, hta, htb, htsa, htsb, hra, hrb, hrsa, hrsb, M_get, M_modify, Bool.false_eq_true, if_false]
  refine ⟨u4, _, _, _, rfl, h4, hm4.trans (hm3.trans (hm2.trans hm1)), ?_⟩
  refine foldl_keeps (fun x : Bank × Nat => x.1.mode = md) _ (fun x q hx => ?_) _ _ hmd
  split
  · exact hx
  · exact hx

/-! RD (R91-R93). -/

theorem SpadTarget.le {m n : Nat} {t : Target} (h : SpadTarget c n t) (hm : m ≤ n) : SpadTarget c m t := by
  obtain ⟨hhost, hio, hkey, hlo, hhi⟩ := h
  exact ⟨hhost, hio, hkey, hlo, by omega⟩

theorem length_packRow (w : Nat) (codes : List Nat) : (packRow w codes).length = rowBytes w codes.length := length_toBytes _ _

theorem rowBytes_le (w : Nat) {m n : Nat} (h : m ≤ n) : rowBytes w m ≤ rowBytes w n :=
  Nat.div_le_div_right (Nat.add_le_add_right (Nat.mul_le_mul_right w h) 7)

/-- A fold over the first `k` numbers that appends at most `q` codes and one scale a step. -/
theorem foldl_blocks_length (step : List Nat × List Nat × Nat → Nat → List Nat × List Nat × Nat) (q : Nat)
    (h1 : ∀ st i, (step st i).1.length ≤ st.1.length + q) (h2 : ∀ st i, (step st i).2.1.length = st.2.1.length + 1) (k : Nat) :
    ((List.range k).foldl step ([], [], 0)).1.length ≤ k * q ∧ ((List.range k).foldl step ([], [], 0)).2.1.length = k := by
  induction k with
  | zero => exact ⟨Nat.zero_le _, rfl⟩
  | succ k ih =>
    obtain ⟨ih1, ih2⟩ := ih
    rw [List.range_succ, List.foldl_append, List.foldl_cons, List.foldl_nil, h2, ih2, Nat.succ_mul]
    exact ⟨(h1 _ _).trans (Nat.add_le_add_right ih1 q), rfl⟩

/-- A row that is read out has no more codes than values, and one scale a block. -/
theorem readoutRow_length (f : Fmt) (cbs : SMap Codebook) (r : Rnd) (qm qb : Nat) (vs : List Num) :
    (readoutRow f cbs r qm qb vs).1.length ≤ vs.length ∧ (readoutRow f cbs r qm qb vs).2.1.length ≤ vs.length / qb := by
  unfold readoutRow
  split
  · simp
  · have h := foldl_blocks_length (fun st i =>
      (st.1 ++ (((vs.drop (i * qb)).take qb).map fun v => encodeEl f cbs true r (unscale (decide (qm = 3)) (scaleFor qm f cbs ((vs.drop (i * qb)).take qb)) v)).map Prod.fst,
        st.2.1 ++ [scaleFor qm f cbs ((vs.drop (i * qb)).take qb)],
        (((vs.drop (i * qb)).take qb).map fun v => encodeEl f cbs true r (unscale (decide (qm = 3)) (scaleFor qm f cbs ((vs.drop (i * qb)).take qb)) v)).foldl
          (fun a q => a ||| q.2 ||| (if isNanCode f q.1 then evNANOUT else 0)) st.2.2)) qb
      (fun st i => by simp only [List.length_append, List.length_map, List.length_take]; omega) (fun st i => by simp) (vs.length / qb)
    exact ⟨h.1.trans (Nat.div_mul_le_self _ _), Nat.le_of_eq h.2⟩

theorem M_bind_ok {α β : Type} {x : M α} {f : α → M β} {a : α} {u : State} (h : x s = .ok a u) : (x >>= f) s = f a u := by
  rw [M_bind, h]

/-- Work that ends in a state of a predicate, and then the rest. -/
theorem runs_bind {I : Kept} {β : Type} {x : M Unit} {f : Unit → M β} {Q : EStateM.Result Stop State β → Prop} (hx : ∃ u, x s = .ok () u ∧ I.holds u)
    (hf : ∀ u, I.holds u → Q (f () u)) : Q ((x >>= f) s) := by
  obtain ⟨u, hu, hI⟩ := hx
  rw [M_bind_ok hu]
  exact hf u hI

/-- The rows of RD and of its scales are written. -/
theorem writeRows_spad {I : Kept} (k : Nat) (w : Who) (hc : c < 384) {len lenq : Nat} (cd cq : List Target) (rows : List (Row × Row × Nat))
    (hcd : ∀ t ∈ cd, SpadTarget c len t) (hcq : ∀ t ∈ cq, SpadTarget c lenq t) (hrows : ∀ r ∈ rows, r.1.bytes.length ≤ len ∧ r.2.1.bytes.length ≤ lenq)
    (h : I.holds s) : ∃ u, writeRowList k w ((cd.zip (rows.map fun r => r.1)) ++ (cq.zip (rows.map fun r => r.2.1))) s = .ok () u ∧ I.holds u := by
  refine writeRowList_spad k w hc _ (fun x hx => ?_) h
  rcases List.mem_append.1 hx with hx | hx
  · obtain ⟨ht, hr⟩ := List.of_mem_zip (show (x.1, x.2) ∈ _ from hx)
    obtain ⟨r, hr, he⟩ := List.mem_map.1 hr
    exact (hcd _ ht).le (he ▸ (hrows r hr).1)
  · obtain ⟨ht, hr⟩ := List.of_mem_zip (show (x.1, x.2) ∈ _ from hx)
    obtain ⟨r, hr, he⟩ := List.mem_map.1 hr
    exact (hcq _ ht).le (he ▸ (hrows r hr).2)

theorem length_flatMap_accBytes (es : List BankElem) : (es.flatMap fun e => accBytes e.acc).length = 32 * es.length := by
  induction es with
  | nil => rfl
  | cons e t ih =>
    rw [List.flatMap_cons, List.length_append, ih, accBytes, length_toBytes, List.length_cons]
    omega

/-- The row and the scales that RD writes of the values `vs`. -/
theorem readRow_fits (f : Fmt) (cbs : SMap Codebook) (r : Rnd) (qm qb : Nat) (vs : List Num) (ps qs ss : List Bool) (e e' : Nat) :
    (if qm = 0 then (packedRow f.width (readoutRow f cbs r qm qb vs).1 ps, rowNil, e)
      else (packedRow f.width (readoutRow f cbs r qm qb vs).1 qs,
        ({ bytes := (readoutRow f cbs r qm qb vs).2.1.map (BitVec.ofNat 8), pois := ss } : Row), e')).1.bytes.length ≤ rowBytes f.width vs.length
    ∧ (if qm = 0 then (packedRow f.width (readoutRow f cbs r qm qb vs).1 ps, rowNil, e)
      else (packedRow f.width (readoutRow f cbs r qm qb vs).1 qs,
        ({ bytes := (readoutRow f cbs r qm qb vs).2.1.map (BitVec.ofNat 8), pois := ss } : Row), e')).2.1.bytes.length ≤ vs.length / qb := by
  obtain ⟨h1, h2⟩ := readoutRow_length f cbs r qm qb vs
  have hrow : ∀ ms, (packedRow f.width (readoutRow f cbs r qm qb vs).1 ms).bytes.length ≤ rowBytes f.width vs.length := fun ms =>
    (Nat.le_of_eq (length_packRow _ _)).trans (rowBytes_le _ h1)
  split
  · exact ⟨hrow _, Nat.zero_le _⟩
  · exact ⟨hrow _, (Nat.le_of_eq (List.length_map _)).trans h2⟩

/-- RD runs to its end: it writes its rows, and empties its bank where CLR is set. -/
theorem anvRdBody_runs {s0 : State} {p : Prog} {op : EngOp} {w0 : Word} {f : Fmt} {n m qm qb : Nat} {xp : Bool} (hc : c < 384) (h : (engKept c s0 p).holds s)
    (ho : OpenSpad s c p.ctx) (hw0 : w0 = wordAt op.desc 0) (hn : n = fld (wordAt op.desc 3) 15 8) (hm : m = fld (wordAt op.desc 3) 7 0)
    (hf : f = fmtEntry op.fmts (fld w0 55 51)) (hqm : qm = fld w0 47 46) (hqb : qb = if flag w0 45 then 32 else 16) (hxp : xp = flag w0 50)
    (hreq : (rdWords op.desc && oscaleOk w0) = true)
    (hfmt : (if xp then decide ((bankOf p (fld w0 44 44)).mode ≠ .ordered) && decide (fld w0 55 51 = 0) && decide (fld w0 49 45 = 0) && decide (fld w0 42 42 = 0)
        && decide (fld w0 31 0 = 0)
      else f.valid && !f.isCb && !f.isE8m0 && (decide (qm = 0) || (decide (f.width ≤ 8) && decide (n % qb = 0)))) = true)
    (hD : RowsFit (fld (wordAt op.desc 1) 63 32) (fld (wordAt op.desc 1) 31 0) (if xp then 32 * n else rowBytes f.width n) m)
    (hQ : qm ≠ 0 → RowsFit (fld (wordAt op.desc 2) 63 32) (fld (wordAt op.desc 2) 31 0) (n / qb) m) :
    ∃ u e, anvRdBody c p op s = .ok () (updProg (numEvent u c 0 e) c fun q => if flag w0 43 then setBank q (fld w0 44 44) bankEmpty else q)
      ∧ (engKept c s0 p).holds u := by
  subst hw0 hn hm hf hqm hqb hxp
  obtain ⟨td, htd, hsd, -⟩ := operandRows_spad hc ho hD .w
  obtain ⟨tq, htq, hsq⟩ := scaleRows_spad hc ho hQ .w
  have h1 : require' c 0 _ s = .ok () s := (congrArg (fun b => require' c 0 b s) hreq).trans require'_true
  have h2 : require' c 0 _ s = .ok () s := (congrArg (fun b => require' c 0 b s) hfmt).trans require'_true
  simp only [anvRdBody, M_ite_bind]
  rw [M_bind_ok h1, M_bind_ok h2, M_bind_ok htd, M_bind_ok htq, M_bind_ok (M_get s)]
  refine runs_bind (I := engKept c s0 p) (Q := fun r => ∃ u e, r = .ok () (updProg (numEvent u c 0 e) c fun q =>
    if flag (wordAt op.desc 0) 43 then setBank q (fld (wordAt op.desc 0) 44 44) bankEmpty else q) ∧ (engKept c s0 p).holds u)
    (writeRows_spad c _ hc td tq _ hsd hsq (fun r hr => ?_) h) fun u hu => ⟨u, _, rfl, hu⟩
  obtain ⟨i, -, rfl⟩ := List.mem_map.1 hr
  by_cases hx : flag (wordAt op.desc 0) 50 = true
  · simp only [hx, if_true]
    exact ⟨by rw [length_flatMap_accBytes, List.length_map, List.length_range], Nat.zero_le _⟩
  · simp only [hx, if_false, Bool.false_eq_true]
    obtain ⟨hd, hq⟩ := readRow_fits _ _ _ _ _ _ _ _ _ _ _
    refine ⟨hd.trans (Nat.le_of_eq ?_), hq.trans (Nat.le_of_eq ?_)⟩
    all_goals simp only [List.length_map, List.length_range]

/-! LDACC and ADDACC (R90). -/

theorem mem_bankIx {m n : Nat} {q : Nat × Nat} (h : q ∈ bankIx m n) : q.1 < m ∧ q.2 < n := by
  obtain ⟨i, hi, hq⟩ := List.mem_flatMap.1 h
  obtain ⟨j, hj, rfl⟩ := List.mem_map.1 hq
  exact ⟨List.mem_range.1 hi, List.mem_range.1 hj⟩

/-- A partial that a load reads is the one that memory holds. -/
theorem partial_read {a stride n k : Nat} {ts : List Target} {rs : List Row} (ht : ∀ i, i < k → ∃ t : Target, ts[i]? = some t ∧ t.addr = a + i * stride)
    (hr : ∀ (i : Nat) (t : Target), ts[i]? = some t → ∃ r : Row, rs[i]? = some r ∧ r.bytes = memBytes s t.addr (32 * n)) {i j : Nat} (hi : i < k) (hj : j < n) :
    ((rs.getD i rowNil).bytes.drop (32 * j)).take 32 = memBytes s (a + i * stride + 32 * j) 32 := by
  obtain ⟨t, hti, haddr⟩ := ht i hi
  obtain ⟨r, hri, hb⟩ := hr i t hti
  rw [List.getD_eq_getElem?_getD, hri, Option.getD_some, hb, haddr]
  exact memBytes_drop_take s _ (by omega)

/-- Checks of the partials that all pass leave the rest of a load. -/
theorem checked_runs {xp a b : Bool} {f : M Unit} (ha : xp = true → a = true) (hb : xp = true → b = false) :
    (if xp = true then (do
        require' c 0 a
        if b = true then do
            rejectNum c 0 6
            f
          else f)
      else f) s = f s := by
  split
  · next hx =>
    rw [ha hx, hb hx, M_bind_ok require'_true]
    rfl
  · rfl

/-- A load runs to its end: it reads its rows and writes its bank. -/
theorem anvLoadBody_runs {s0 : State} {p : Prog} {op : EngOp} {w0 : Word} {b : Bank} {n m : Nat} {xp add : Bool} {md : BankMode} (hc : c < 384)
    (h : (engKept c s0 p).holds s) (ho : OpenSpad s c p.ctx) (hw0 : w0 = wordAt op.desc 0) (hn : n = fld (wordAt op.desc 3) 15 8)
    (hm : m = fld (wordAt op.desc 3) 7 0) (hb : b = bankOf p (fld w0 44 44)) (hxp : xp = flag w0 50)
    (hreq : (rdWords op.desc && oscaleOk w0 && decide (fld w0 55 51 = 0) && decide (fld w0 49 46 = 0) && decide (fld w0 43 42 = 0) && decide (wordAt op.desc 2 = 0)
      && (xp || !add)) = true)
    (hmode : (decide (b.mode = .empty) || decide (b.mode = if xp then BankMode.exact else .ordered)) = true) (hmd : (if xp then BankMode.exact else .ordered) = md)
    (hD : RowsFit (fld (wordAt op.desc 1) 63 32) (fld (wordAt op.desc 1) 31 0) ((if xp then 32 else 4) * n) m)
    (hacc : xp = true → ∀ i j, i < m → j < n → ∃ a, accOfBytes (memBytes s (spadBase c + fld (wordAt op.desc 1) 63 32 + i * fld (wordAt op.desc 1) 31 0 + 32 * j) 32) = some a
      ∧ (add = true → (bankElem b i j).acc.count + a.count ≤ accLimit)) :
    ∃ u b', anvLoadBody add c p op s = .ok () (updProg u c fun q => setBank q (fld w0 44 44) b') ∧ (engKept c s0 p).holds u ∧ u.mem = s.mem ∧ b'.mode = md := by
  subst hw0 hn hm hb hxp
  obtain ⟨td, htd, hsd, hat⟩ := operandRows_spad hc ho hD .r
  obtain ⟨rs, u, hrs, hu, hmem, hbytes⟩ := readRowList_spad (whoCore s c) hc td hsd h
  have h1 : require' c 0 _ s = .ok () s := (congrArg (fun b => require' c 0 b s) hreq).trans require'_true
  have h2 : require' c 0 _ s = .ok () s := (congrArg (fun b => require' c 0 b s) hmode).trans require'_true
  unfold anvLoadBody
  dsimp only
  rw [M_bind_ok h1, M_bind_ok h2, M_bind_ok htd, M_bind_ok (M_get s), M_bind_ok hrs]
  have hsrc : ∀ q ∈ bankIx (fld (wordAt op.desc 3) 7 0) (fld (wordAt op.desc 3) 15 8), flag (wordAt op.desc 0) 50 = true →
      ∃ a, accOfBytes (((rs.getD q.1 rowNil).bytes.drop (32 * q.2)).take 32) = some a
        ∧ (add = true → (bankElem (bankOf p (fld (wordAt op.desc 0) 44 44)) q.1 q.2).acc.count + a.count ≤ accLimit) := by
    intro q hq hx
    obtain ⟨hi, hj⟩ := mem_bankIx hq
    rw [hx] at hbytes
    rw [partial_read hat hbytes hi hj]
    exact hacc hx q.1 q.2 hi hj
  rw [checked_runs (fun hx => List.all_eq_true.2 fun q hq => ?_) fun hx => ?_]
  · refine ⟨u, _, rfl, hu, hmem, ?_⟩
    refine foldl_keeps (fun x : Bank => x.mode = md) _ (fun x q hq => ?_) _ _ hmd
    split
    · exact hq
    · exact hq
  · obtain ⟨a, ha, -⟩ := hsrc q hq hx
    rw [ha]
    rfl
  · rw [Bool.and_eq_false_iff]
    cases add with
    | false => exact Or.inl rfl
    | true =>
      refine Or.inr (List.any_eq_false.2 fun q hq => ?_)
      obtain ⟨a, ha, hle⟩ := hsrc q hq hx
      have hcount := hle rfl
      rw [ha, Option.getD_some, decide_eq_true_eq]
      omega

end Sys2Proof.Machine
end

section
/-! PROOFS. The obligation on Anvil's operations. -/

namespace Sys2Proof.Claims

open Sys2Proof Sys2Proof.Machine

/-- What core `c`'s program and the segments come to after an operation of Anvil that writes a bank. -/
theorem prog_of_kept {t s0 : State} {c : Nat} {p : Prog} (h : (engKept c s0 p).holds t) :
    ∃ q, prog? t c = some q ∧ q.pc = p.pc ∧ q.s = p.s ∧ q.queues = p.queues ∧ q.banks = p.banks := by
  obtain ⟨-, -, q, hq, hcore⟩ := h
  simp only [progCore, Prod.mk.injEq] at hcore
  exact ⟨q, hq, hcore⟩

/-- What an accepted MMA meets passes its checks. -/
theorem mma_checks {ua ub ea eb ordered : Bool} {ba bb kk : Nat} {b0 : Bank} {l : List (Nat × Nat)} {words : Bool} (hwords : words = true) (hua : ua = true) (hub : ub = true)
    (hkind : if ordered then ba = 0 ∧ bb = 0 ∧ (b0.mode = .empty ∨ b0.mode = .ordered)
      else ea = true ∧ eb = true ∧ kk % min (blkSz ba) (blkSz bb) = 0 ∧ (b0.mode = .empty ∨ b0.mode = .exact)
        ∧ ∀ q ∈ l, (bankElem b0 q.1 q.2).acc.count + kk / min (blkSz ba) (blkSz bb) ≤ accLimit) :
    (words && ua && ub && (ordered || (ea && eb))) = true
    ∧ (if ordered then decide (ba = 0) && decide (bb = 0) else decide (kk % min (blkSz ba) (blkSz bb) = 0)) = true
    ∧ (decide (b0.mode = .empty) || decide (b0.mode = if ordered then BankMode.ordered else .exact)) = true
    ∧ (!ordered && l.any (fun q => decide (accLimit < (bankElem b0 q.1 q.2).acc.count + kk / min (blkSz ba) (blkSz bb)))) = false := by
  cases ordered with
  | true =>
    obtain ⟨h1, h2, h3⟩ := hkind
    simp [hwords, hua, hub, h1, h2, h3]
  | false =>
    obtain ⟨h1, h2, h3, h4, h5⟩ := hkind
    simp only [hwords, hua, hub, h1, h2, h3, Bool.and_self, Bool.or_true, decide_true, Bool.false_eq_true, if_false, Bool.not_false, Bool.true_and, true_and]
    exact ⟨by simp [h4], List.any_eq_false.2 fun q hq => by
      rw [decide_eq_true_eq]
      exact Nat.not_lt.2 (h5 q hq)⟩

section
variable {s : State} {k : CoreIx} {p : Prog} {op : EngOp} {d : List Word} {w0 : Word} {n m : Nat} (ho : OpenSpad s k.val p.ctx) (hd : d = op.desc)
  (hw0 : w0 = wordAt d 0)
include ho hd hw0

theorem anvMma_completes (slips : List SlipObs) (fa fb : Fmt) (kk ba bb : Nat) (b0 : Bank) (ordered : Bool) (hr : EngineReady s k.val 0 1 p op)
    (hn : n = fld w0 15 8) (hm : m = fld w0 7 0) (hkk : kk = fld w0 31 16) (hba : ba = fld w0 45 44) (hbb : bb = fld w0 43 42)
    (hfa : fa = fmtEntry op.fmts (fld w0 55 51)) (hfb : fb = fmtEntry op.fmts (fld w0 50 46))
    (hord : ordered = (decide (fld w0 55 51 = fld w0 50 46) && (decide (fld w0 55 51 = 1) || decide (fld w0 55 51 = 2))))
    (hb0 : b0 = (if flag w0 38 then bankEmpty else bankOf p (fld w0 39 39))) (hwords : mmaWords d = true) (hua : fmtUsable fa op.cbs = true)
    (hub : fmtUsable fb op.cbs = true)
    (hkind : if ordered then ba = 0 ∧ bb = 0 ∧ (b0.mode = .empty ∨ b0.mode = .ordered)
      else exactFmt fa = true ∧ exactFmt fb = true ∧ kk % min (blkSz ba) (blkSz bb) = 0 ∧ (b0.mode = .empty ∨ b0.mode = .exact)
        ∧ ∀ q ∈ bankIx m n, (bankElem b0 q.1 q.2).acc.count + kk / min (blkSz ba) (blkSz bb) ≤ accLimit)
    (hA : RowsFit (fld (wordAt d 1) 63 32) (fld (wordAt d 1) 31 0) (rowBytes fa.width (if flag w0 37 then m else kk)) (if flag w0 37 then kk else m))
    (hslot : flag w0 35 = false)
    (hB : RowsFit (fld (wordAt d 2) 63 32) (fld (wordAt d 2) 31 0) (rowBytes fb.width (if flag w0 36 then kk else n)) (if flag w0 36 then n else kk))
    (hSa : ba ≠ 0 → RowsFit (fld (wordAt d 3) 63 32) (fld (wordAt d 4) 63 32) (kScales ba kk) m)
    (hSb : bb ≠ 0 → RowsFit (fld (wordAt d 3) 31 0) (fld (wordAt d 4) 31 0) n (kScales bb kk)) :
    RunsOp s k 0 p op (.anvMma k slips) fun t q => t.mem = s.mem ∧ q.queues = p.queues ∧ (bankOf q (fld w0 39 39)).mode = if ordered then .ordered else .exact := by
  subst hd hn hm hkk hba hbb
  have hp : prog? s k.val = some p := hr.2.1
  have hin : (engKept k.val s p).holds (if p.injig then applySlips s k.val slips else s) := ite_holds (applySlips_holds slips (engKept_self hp)) (engKept_self hp)
  have hinm : (if p.injig then applySlips s k.val slips else s).mem = s.mem := by
    split
    · exact applySlips_mem slips
    · rfl
  obtain ⟨hreq, hblk, hmode0, hlim⟩ := mma_checks hwords hua hub hkind
  obtain ⟨u, b, n', e, hbody, hu, hmem, hmode⟩ := anvMma_runs (md := if ordered then .ordered else .exact) k.isLt hin (openSpad_kept hin ho) hw0 hfa hfb hord hb0
    hreq hblk hmode0 rfl hlim hslot hA hB hSa hSb
  have hend : (engKept k.val s (setBank p (fld w0 39 39) b)).holds
      (numEvent (ctxCtr (coreCtr (updProg u k.val fun q => setBank q (fld w0 39 39) b) k.val 2 n') p.ctx 2 n') k.val 0 e) :=
    numEvent_holds e (ctxCtr_holds _ _ _ (by decide) (coreCtr_holds _ _ _ (by decide) (updProg_setBank_holds _ b hu)))
  obtain ⟨q, hq, hpc, hs, hqueue, hbanks⟩ := prog_of_kept hend
  have hne : b.mode ≠ .empty := by
    rw [hmode]
    split
    all_goals decide
  refine ⟨_, q, engineRun_ok _ hr ?_, hq, hpc, hs, ?_, hqueue, ?_⟩
  · exact hbody
  · exact (numEvent_mem _ _).trans ((updProg_mem _ _ _).trans (hmem.trans hinm))
  · rw [bankOf, hbanks]
    exact (congrArg Bank.mode (bankOf_setBank hne)).trans hmode

theorem anvRd_completes (f : Fmt) (qm qb : Nat) (hr : EngineReady s k.val 0 2 p op) (hn : n = fld (wordAt d 3) 15 8) (hm : m = fld (wordAt d 3) 7 0)
    (hf : f = fmtEntry op.fmts (fld w0 55 51)) (hqm : qm = fld w0 47 46) (hqb : qb = (if flag w0 45 then 32 else 16)) (hwords : rdWords d = true)
    (hosc : oscaleOk w0 = true)
    (hfmt : if flag w0 50 then (bankOf p (fld w0 44 44)).mode ≠ .ordered ∧ fld w0 55 51 = 0 ∧ fld w0 49 45 = 0 ∧ fld w0 42 42 = 0 ∧ fld w0 31 0 = 0
      else f.valid = true ∧ f.isCb = false ∧ f.isE8m0 = false ∧ (qm = 0 ∨ (f.width ≤ 8 ∧ n % qb = 0)))
    (hD : RowsFit (fld (wordAt d 1) 63 32) (fld (wordAt d 1) 31 0) (if flag w0 50 then 32 * n else rowBytes f.width n) m)
    (hQ : qm ≠ 0 → RowsFit (fld (wordAt d 2) 63 32) (fld (wordAt d 2) 31 0) (n / qb) m) :
    RunsOp s k 0 p op (.anvRd k) fun _ q => if flag w0 43 then mapWf (fun _ => bankEmpty) p.banks = true → bankOf q (fld w0 44 44) = bankEmpty
      else q.banks = p.banks := by
  subst hd
  have hp : prog? s k.val = some p := hr.2.1
  obtain ⟨u, e, hbody, hu⟩ := anvRdBody_runs k.isLt (engKept_self hp) ho hw0 hn hm hf hqm hqb rfl (by rw [hwords, hosc]; rfl) (by
    split at hfmt
    · next hx => simp [hx, hfmt]
    · next hx => simp [hx, hfmt]) hD hQ
  obtain ⟨q, hq, hpc, hs, -, hbanks⟩ := prog_of_kept (numEvent_holds (c := k.val) e hu)
  refine ⟨_, _, engineRun_ok _ hr hbody, prog?_updProg _ hq, ?_⟩
  split
  · refine ⟨hpc, hs, fun hw => bankOf_setBank_empty _ ?_⟩
    rw [hbanks]
    exact hw
  · exact ⟨hpc, hs, hbanks⟩

theorem anvLoad_completes (add : Bool) (b : Bank) (md : BankMode) (hr : EngineReady s k.val 0 (if add then 4 else 3) p op) (hn : n = fld (wordAt d 3) 15 8)
    (hm : m = fld (wordAt d 3) 7 0) (hb : b = bankOf p (fld w0 44 44)) (hmd : md = (if flag w0 50 then .exact else .ordered)) (hwords : rdWords d = true)
    (hosc : oscaleOk w0 = true) (hfmt : fld w0 55 51 = 0) (hround : fld w0 49 46 = 0) (hclr : fld w0 43 42 = 0) (hscale : wordAt d 2 = 0)
    (hadd : add = true → flag w0 50 = true) (hmode : b.mode = .empty ∨ b.mode = md)
    (hD : RowsFit (fld (wordAt d 1) 63 32) (fld (wordAt d 1) 31 0) ((if flag w0 50 then 32 else 4) * n) m)
    (hacc : flag w0 50 = true → ∀ i j, i < m → j < n → ∃ a, accOfBytes (memBytes s (spadBase k.val + fld (wordAt d 1) 63 32
      + i * fld (wordAt d 1) 31 0 + 32 * j) 32) = some a ∧ (add = true → (bankElem b i j).acc.count + a.count ≤ accLimit)) :
    RunsOp s k 0 p op (if add then .anvAddacc k else .anvLdacc k) fun t q => t.mem = s.mem ∧ (bankOf q (fld w0 44 44)).mode = md := by
  subst hd
  have hp : prog? s k.val = some p := hr.2.1
  have hxp : (flag w0 50 || !add) = true := by
    cases add with
    | false => simp
    | true => simp [hadd rfl]
  obtain ⟨u, b', hbody, hu, hmem, hmode'⟩ := anvLoadBody_runs (add := add) k.isLt (engKept_self hp) ho hw0 hn hm hb rfl
    (by simp [hwords, hosc, hfmt, hround, hclr, hscale, hxp]) (by simp [← hmd, hmode]) hmd.symm hD hacc
  obtain ⟨q, hq, hpc, hs, -, hbanks⟩ := prog_of_kept (updProg_setBank_holds (fld w0 44 44) b' hu)
  have hne : b'.mode ≠ .empty := by
    rw [hmode', hmd]
    split
    all_goals decide
  refine ⟨_, q, ?_, hq, hpc, hs, (updProg_mem _ _ _).trans hmem, ?_⟩
  · cases add with
    | false => exact engineRun_ok (anvLoadBody false k.val) hr hbody
    | true => exact engineRun_ok (anvLoadBody true k.val) hr hbody
  · rw [bankOf, hbanks]
    exact (congrArg Bank.mode (bankOf_setBank hne)).trans hmode'

omit ho in
theorem anvClr_completes (hr : EngineReady s k.val 0 5 p op) (hword : w0 &&& ~~~(fieldMask 63 56 ||| fieldMask 44 44) = 0) (hrest : ∀ w ∈ d.drop 1, w = 0) :
    exec (.anvClr k) s = after (ranTo (updProg s k.val fun q => setBank q (fld w0 44 44) bankEmpty) p k.val 0 op) := by
  subst hd hw0
  refine engineRun_ok (anvClrBody k.val) hr ?_
  have hok : (decide (wordAt op.desc 0 &&& ~~~(fieldMask 63 56 ||| fieldMask 44 44) = 0) && (op.desc.drop 1).all fun w => decide (w = 0)) = true := by
    rw [decide_eq_true hword, Bool.true_and, List.all_eq_true]
    exact fun w hw => decide_eq_true (hrest w hw)
  unfold anvClrBody
  rw [hok, M_bind_ok require'_true]
  rfl

end

/-- Settles O24: the rows of every operation lie in the core's scratchpad, where reads and writes are never held up, and what they leave of
the program and of memory is followed to the operation's end. -/
theorem anvilOperationsComplete : Obligations.AnvilOperationsComplete := by
  intro s k p op d w0 n m ho hd hw0
  exact ⟨anvMma_completes ho hd hw0, anvRd_completes ho hd hw0, anvLoad_completes ho hd hw0, anvClr_completes hd hw0⟩

end Sys2Proof.Claims
end
